-- ==== Sys2Proof/Word.lean ====
section
/-! DEFINITION. The words of the machine and their plainest arithmetic. -/

namespace Sys2Proof

/-- A register of a register block is 32 bits wide (02_package_and_islands.md, R64). -/
abbrev Word := BitVec 32
/-- A scalar register of a sequencer, an instruction, or a 64-bit frame word. -/
abbrev DWord := BitVec 64
/-- One byte of memory, flash or a frame. -/
abbrev Byte := BitVec 8

end Sys2Proof
end

