-- ==== Sys2Proof/Syntax.lean ====
section
/-! DEFINITION. The commands of the block: one constructor of `Instr` per row of the opcode table, in the table's
order. The table gives the rows no bits and no operands; the operands here are what the rules say the outside world
(or the agent that performs the step) brings to it. -/

namespace Sys2Proof

/-- Who makes an access: the ID the fabric stamps (R206), and Cox itself. -/
inductive Requester where
  | ctx (c : Fin 64)
  | stern
  | host
  | jtag
  | cox
  deriving DecidableEq, Repr

/-- The clock islands of R47, and the sense and photonic dies as targets of a crossing (R50). -/
inductive Island where
  | array (s : Fin 16)
  | sequencer (s : Fin 16)
  | scratchpad (s : Fin 16)
  | cox
  | stern
  | slice (e : Fin 2)
  | scheduler
  | strokeTimer
  deriving DecidableEq, Repr

/-- The engines of a scull (R243), and the DMA engine's place in the queues. -/
inductive Engine where
  | array | schuss | vector | scan | dma
  deriving DecidableEq, Repr

/-- What the error-correcting code finds at a read (R425). -/
inductive Ecc where
  | clean | corrected | uncorrectable
  deriving DecidableEq, Repr

/-- Which transfer over a die bridge had the parity error (R72). -/
inductive BridgeWord where
  | sample (chan : Fin 64)
  | frame (link : Fin 12)
  | bank (b : Fin 4)
  deriving DecidableEq, Repr

/-- What one output of a sense channel is formed from (R75 to R98): for a modulator channel the bits sampled on the
falling edges of MCLK since its last output, oldest first; for an AE or VIB channel the filtered input at its instant, in
volts, as `num / den`. -/
structure Sample where
  bits : List Bool
  num : Int
  den : Nat
  /-- the word fails to reach staging by its due catch (R77) -/
  late : Bool
  deriving DecidableEq, Repr

/-- What stage 3 finds beside the fuse fields themselves (R189): nothing, a lockstep error, or a field that reads wrong. -/
inductive RomResult where
  | pass | lockstep | fuse
  deriving DecidableEq, Repr

/-- What stage 9 finds (R192, R199, R512): banks whose heaters cannot reach their set point, lanes whose first heat
does not converge (bank, lane), banks whose probation fails; whether LIGHT_X and LIGHT_L are present; and the heater
trims and gains found (bank, lane, row, TRIM). -/
structure Warmup where
  lightX : Bool
  lightL : Bool
  setpointFail : List (Fin 4)
  laneFail : List (Fin 4 × Fin 34)
  probationFail : List (Fin 4)
  oplFail : List (Fin 2 × Fin 10)
  deriving DecidableEq, Repr

/-- A 32-bit element that carries parity (R275): lane `i` of v`n`, element `i` of c`n`, or the element of a column and a
row of tile tA.n. -/
inductive RegElem where
  | v (n : Fin 64) (i : Fin 128)
  | c (n : Fin 8) (i : Fin 1024)
  | t (a : Fin 4) (n : Fin 8) (col : Fin 16) (row : Fin 256)
  deriving DecidableEq, Repr

/-- What the bank arbitration of a scull cost a run (R259): the cycles that its requests lost there, and whether the
16-cycle rule decided a grant. -/
structure BankLoss where
  scull : Fin 16
  cycles : Nat
  starve : Bool
  deriving DecidableEq, Repr

/-- What the hardware meets while a chunk of a scan runs: parity in an element of cN or cP (R275), and bank losses. -/
structure ScanErr where
  parity : Option RegElem
  loss : List BankLoss
  deriving DecidableEq, Repr

/-- The end of a chunk on a scull. -/
structure ChunkEnd where
  scull : Fin 16
  err : ScanErr
  deriving DecidableEq, Repr

/-- A switch on a scull: the granules that each DMA channel still moves before it stops (R267), and whether the fixed part
of the save area restored holds poison (R453). -/
structure Switch where
  scull : Fin 16
  moved : List Nat
  poison : Bool
  deriving DecidableEq, Repr

/-- A resumption on a scull, and whether the fixed part of the save area restored holds poison (R453). -/
structure Resumption where
  scull : Fin 16
  poison : Bool
  deriving DecidableEq, Repr

/-- The end of a DMA transfer on a channel, completed or at a fault, and the bank losses until then. -/
structure ChannelEnd where
  ch : Fin 4
  loss : List BankLoss
  deriving DecidableEq, Repr

/-- A clock in MHz that an island asks for, and the voltage in mV that it needs (R639). -/
structure ClockAsk where
  mhz : Nat
  mv : Nat
  deriving DecidableEq, Repr

/-- What Cox samples at the end of reset: SLOT_SEL, and the rails of groups 1 to 4 that are in range (R172, R184). -/
structure ReleasePins where
  slotSel : Bool
  good : BitVec 9
  deriving DecidableEq, Repr

/-- What a row's loop meets beside its sensors: the activity A_s of each scull in 1/65536, and whether a heater of the row falls
short of its set point (R493, R498). -/
structure LoopObs where
  act : List (Fin 65537)
  low : Bool
  deriving DecidableEq, Repr

/-- What the hardware meets while an engine instruction runs: parity in active weight rows (array, row, and the pass: the
pass of piece p of vector m has number m × P + p; R307) and in a row of a shadow plane, parity of a special-function table word (table, segment; R360), parity in the v, c or tile element read
(R275), the drain stalls, bank conflicts and bubbles of the run (R254, R259, R292, R294), whether the 16-cycle
rule decided a grant (R259), and whether the block of the tile instruction that comes next is complete (R291). -/
structure EngineErr where
  weightErrs : List (Fin 4 × Fin 256 × Fin 48)
  shadowRow : Option (Fin 4 × Fin 256)
  tableWord : Option (Fin 8 × Fin 64)
  regParity : Option RegElem
  drainStall : Nat
  bankLost : Nat
  bubbles : Nat
  vrfLost : Nat
  starve : Bool
  fed : Bool
  deriving DecidableEq, Repr

/-- An error-free run. -/
def EngineErr.none : EngineErr := ⟨[], .none, .none, .none, 0, 0, 0, 0, false, false⟩

/-- A parity error in the sequencer's registers (R420): a scalar register of the context (0 to 15: g0 to g15; 16 + 16w + i:
register i of window w), or one of SEQ_TVEC, SEQ_SPILL_BASE, SEQ_SPILL_PTR and SEQ_SPILL_LIM. -/
inductive SeqParity where
  | scalar (n : Fin 144)
  | control
  deriving DecidableEq, Repr

/-- The steps of a reflex-bank heat that a timer ends (R501). -/
inductive HeatObs where
  /-- settling ended -/
  | settled
  /-- dark check: the drop-port signal in 1/256 of lane full power -/
  | dark (level : Nat)
  /-- one ring row calibrated: offset of the resonance from the prediction in codes, and the gain seen -/
  | row (offset : Int) (gain : Nat)
  deriving DecidableEq, Repr

/-- A 64-byte control message of the regatta (R525), as the bytes received. -/
abbrev Message := List Byte

/-- The commands of the block. -/
inductive Instr where
  -- registers and the stroke
  | registerWrite (rq : Requester) (addr : Nat) (bytes : Nat) (val : DWord)
  | stkCountLoRead (rq : Requester)
  | oplRsLoRead (rq : Requester)
  | catchEdge
  | strokeSyncEdge (rising : Bool)
  | syncWindowClose
  | driveStart
  | commitCutoff
  | finish
  | checkpointComplete (inst : Fin 256) (slot : Fin 64)
  | refclkLoss
  | crossingTimeout (target : Island)
  | islandFloor (isl : Island)
  | islandFrequencyChange (isl : Island) (ask : ClockAsk)
  | bridgeParityError (w : BridgeWord)
  -- sense inputs
  | sampleOutput (chan : Fin 64) (k : Nat) (smp : Sample)
  | lateWordArrival (chan : Fin 64)
  | iepeBiasReading (v : Fin 8) (mv : Nat)
  | calCurrentOffset (rq : Requester) (chan : Fin 64)
  | calIepe (rq : Requester) (chan : Fin 64)
  | calOffsetWindowEnd
  | calIepeDone (mv : Nat)
  | mclkReadbackFault (g : Fin 4)
  | viepeLow
  -- axis links and stop lines
  | linkAligned (n : Fin 12)
  | downstreamData (n : Fin 12) (frame : List Byte)
  | downstreamHello (n : Fin 12) (frame : List Byte)
  | linkToRun (n : Fin 12)
  | linkLost (n : Fin 12)
  | claim
  | stopReadbackFault (n : Fin 12)
  -- reset, power and start-up
  | rstNAssert
  | resetRelease (pins : ReleasePins)
  | railOutOfRange (rail : Fin 11)
  | vhtrLoss
  | perstN
  | coxRom (r : RomResult)
  | headerVerify
  | coxSection (readback : Bool)
  | hbmTraining (fails0 fails1 : Nat) (bist : BitVec 16)
  | imageRead
  | flashReadTimeout (second : Bool) (step : Fin 9) (sect : Fin 1024)
  | senseCalibration (failed : BitVec 64)
  | photonicWarmup (w : Warmup)
  | axisLinkHandshake
  | handshakeBoundExpiry
  | syncLockTimeout
  | admission
  | runEntry
  -- Cox
  | mailboxRequestWrite (rq : Requester) (m : Fin 16) (i : Fin 16) (val : Word)
  | doorbell (rq : Requester) (m : Fin 16)
  | ack (rq : Requester) (m : Fin 16)
  | mailboxOpenTimeout (m : Fin 16)
  | mailboxDoneTimeout (m : Fin 16)
  | takeRequest
  | info
  | ptMap
  | ptUnmap
  | flashErase
  | flashWrite
  | chgStart
  | arcAdvance
  | fenceScull
  | ctxRestart
  | dbgChallenge
  | dbgResponse
  | dbgEnd
  | challengeExpiry
  | coxLockstepMismatch
  | aliveTick
  -- scalar and control instructions: `u` is the scull (0 to 15) or the stern core (16), `w` the 56 bits below the
  -- major opcode byte (R392)
  | alu (u : Fin 17) (w : BitVec 56)
  | alui (u : Fin 17) (w : BitVec 56)
  | li (u : Fin 17) (w : BitVec 56)
  | ld (u : Fin 17) (w : BitVec 56) (ecc : Ecc)
  | st (u : Fin 17) (w : BitVec 56)
  | fop (u : Fin 17) (w : BitVec 56)
  | br (u : Fin 17) (w : BitVec 56)
  | jmp (u : Fin 17) (w : BitVec 56)
  | call (u : Fin 17) (w : BitVec 56)
  | ret (u : Fin 17) (w : BitVec 56)
  | rett (u : Fin 17) (w : BitVec 56)
  | trap (u : Fin 17) (w : BitVec 56)
  | fence (u : Fin 17) (w : BitVec 56)
  | crr (u : Fin 17) (w : BitVec 56)
  | cwr (u : Fin 17) (w : BitVec 56)
  | wspill (u : Fin 17) (w : BitVec 56)
  | wfill (u : Fin 17) (w : BitVec 56)
  | done (u : Fin 17) (w : BitVec 56) (stop : Bool) (stopOuts : BitVec 12)
  | brk (u : Fin 17) (w : BitVec 56)
  -- engine instructions
  | dmaGo (u : Fin 17) (w : BitVec 56)
  | dmaWait (u : Fin 17) (w : BitVec 56)
  | dmaStat (u : Fin 17) (w : BitVec 56)
  | arrMm (u : Fin 17) (w : BitVec 56)
  | arrWld (u : Fin 17) (w : BitVec 56)
  | arrSwp (u : Fin 17) (w : BitVec 56)
  | tLd (u : Fin 17) (w : BitVec 56)
  | tSt (u : Fin 17) (w : BitVec 56)
  | tClr (u : Fin 17) (w : BitVec 56)
  | schMv (u : Fin 17) (w : BitVec 56)
  | valu (u : Fin 17) (w : BitVec 56)
  | vfma (u : Fin 17) (w : BitVec 56)
  | vld (u : Fin 17) (w : BitVec 56) (ecc : Ecc)
  | vst (u : Fin 17) (w : BitVec 56)
  | vcvt (u : Fin 17) (w : BitVec 56)
  | vamaxScale (u : Fin 17) (w : BitVec 56)
  | vrel (u : Fin 17) (w : BitVec 56)
  | sfu (u : Fin 17) (w : BitVec 56)
  | vstat (u : Fin 17) (w : BitVec 56)
  | vmaxr (u : Fin 17) (w : BitVec 56)
  | vexps (u : Fin 17) (w : BitVec 56)
  | vcorr (u : Fin 17) (w : BitVec 56)
  | scnRun (u : Fin 17) (w : BitVec 56)
  | scnLd (u : Fin 17) (w : BitVec 56)
  | scnSt (u : Fin 17) (w : BitVec 56)
  | cRel (u : Fin 17) (w : BitVec 56)
  | mvVc (u : Fin 17) (w : BitVec 56)
  | mvCv (u : Fin 17) (w : BitVec 56)
  | mvGv (u : Fin 17) (w : BitVec 56)
  | mvVg (u : Fin 17) (w : BitVec 56)
  -- engines, traps and contexts
  | engineComplete (s : Fin 16) (e : Engine) (err : EngineErr)
  | trapEntry (u : Fin 17) (err : Option SeqParity)
  | trapEntryTimeout (s : Fin 16)
  | preemption (s : Fin 16)
  | contextSwitch (e : Switch)
  | contextResume (e : Resumption)
  | engineHang (s : Fin 16) (e : Engine)
  | scanHang (s : Fin 16)
  | dmaChannelTimeout (s : Fin 16) (ch : Fin 4)
  | reflexJob (b : Fin 4)
  | scanChunkComplete (e : ChunkEnd)
  | dmaComplete (u : Fin 17) (e : ChannelEnd)
  | dmaGranuleFault (u : Fin 17) (e : ChannelEnd)
  | patrolScrub (addr : Nat) (ecc : Ecc)
  | hbmFail (stack : Fin 2)
  -- service classes
  | reflexRelease (inst : Fin 256)
  | guardEventTaken (inst : Fin 256)
  | guardHorizonExpiry (inst : Fin 256)
  | trendFrameDue (inst : Fin 256)
  | trendFrameShed (inst : Fin 256)
  | strokeBudgetExhausted (s : Fin 16)
  -- reflex banks
  | bankPass (b : Fin 4) (dev : List Int) (pilotLow : Bool)
  | goStore (b : Fin 4) (go : DWord)
  | lightXLoss
  | heatSlot (b : Fin 4)
  | heatAgeExpiry (b : Fin 4) (lane : Fin 34)
  | probePass (b : Fin 4) (dev : List Int)
  | heaterLoopUpdate (b : Fin 4) (row : Fin 32) (t0 t1 t2 t3 : BitVec 16) (obs : LoopObs)
  | heaterFault (b : Fin 4) (lane : Fin 34)
  | laneSettleExpiry (b : Fin 4)
  | retuneSettleExpiry (b : Fin 4)
  | overTemperature (sensor : Fin 32) (temp : BitVec 16)
  -- regatta
  | oplLaneFailure (p : Fin 2) (lane : Fin 10)
  | laneMessage (p : Fin 2) (msg : Message)
  | strokeMessageSend
  | strokeMessage (p : Fin 2) (msg : Message)
  | helloMessage (p : Fin 2) (msg : Message)
  | heartbeatMiss (member : Fin 8)
  | bundle (p : Fin 2) (bytes : List Byte)
  | bundleResend (p : Fin 2)
  | oplLaneHeat (p : Fin 2) (lane : Fin 10)
  | portDown (p : Fin 2)
  | portRetrain (p : Fin 2)
  | lightLLoss
  | slipEntry
  | slipExit
  | mirrorCycle (chan : Fin 64)
  -- changeover
  | chgReqPin
  | groupSwitch (g : Fin 256)
  | changeoverCommit
  | changeoverTimeout
  | changeoverRollback
  -- host port and telemetry
  | hostAccess (bar : Fin 3) (off : Nat) (bytes : Nat) (write : Option DWord)
  | hstReqProd (val : Word)
  | requestWindowClose
  | hstRspPush (rq : Requester)
  | hstIrqSet (rq : Requester) (val : Word)
  | telRingCons (r : Fin 8) (val : Word)
  | telRingProd (rq : Requester) (r : Fin 8) (val : Word)
  | telCfg (rq : Requester) (val : Word)
  | msixIdleTimer (r : Fin 8)
  | msixSpacingEnd (v : Fin 32)
  | msixUnmask (v : Fin 32)
  | hostReadTimeout
  | jtagInstruction (ir : BitVec 8)
  | pcieLinkUp (speed : Fin 5) (width : Fin 5)
  | readmissionComplete
  | avsbusReply (ok : Bool)
  | powerOn (order : List (Fin 11))
  | vhtrReturn
  | viepeReturn
  | lightXReturn
  | lightLReturn
  | oplLanesLocked (p : Fin 2)
  | codeError (n : Fin 12)
  | longServiceComplete (ok : Bool)
  | changeoverStaged
  | bankHeatTimer (b : Fin 4) (obs : HeatObs)
  | oplHeatTimer (p : Fin 2) (obs : HeatObs)
  | uartLineSent
  | pcieLinkDown
  | scanFeedStaged (s : Fin 16)
  deriving DecidableEq, Repr

end Sys2Proof
end

