-- ==== Sys2Proof/Decode.lean ====
section
/-! DEFINITION. The decoder of the table's words. The opcode table gives none of its rows any bits (every row's
`fields` list is empty), so no word spells a command and the decoder refuses every word. The bit formats of the
sequencer's instructions (13_instruction_set.md) are decoded where the instruction commands get their meaning
(Machine/Operands.lean). -/

namespace Sys2Proof

/-- The command that a word spells by the table's bits: none, for the table gives bits to no row. -/
def decodeTableWord (_nbits _w : Nat) : Option Instr := none

end Sys2Proof
end

