-- ==== Sys2Proof/Config.lean ====
section
/-! DEFINITION. What one implementation fixes and the spec leaves open: opaque constants (free values; no proof can see
what they are), and the numbers of the KQ-7216 that rules use by name. -/

namespace Sys2Proof.Config

/-- Cox's random source: the n-th 28-byte nonce (R231). -/
opaque nonce : Nat → List Byte

/-! Fused values of one device (R223; assumption 2). -/

opaque vendorKeyHash : BitVec 384
opaque builderKeyHash : BitVec 384
opaque deviceSerial : BitVec 128
opaque devicePrivate : BitVec 384
opaque fusedKek : BitVec 256

/-! Cox's and Neskan's free choices (assumption 7). -/

/-- Base of the scratchpad window of a context on a scull, within R257. -/
opaque windowBase : (build context scull : Nat) → Nat
/-- First device address at which Cox stages an image (R431). -/
opaque stagingBase : (build : Nat) → Nat
/-- Base of the page tables in HBM, outside all allotments (R434), by flash slot: a changeover's tables are new (R556). -/
opaque tableBase : (slot : Nat) → Nat
/-- Device address of an instance's input buffer; the spec names the buffer and gives no address. -/
opaque inputBase : (slot inst : Nat) → Nat
/-- Device address of an instance's output buffer. -/
opaque outputBase : (slot inst : Nat) → Nat
/-- Base of the telemetry window (R581). -/
opaque telemetryBase : Nat
/-- The switch allowance that Neskan records for a STROKE step (R463); no section is said to hold it. -/
opaque switchAllowance : (build inst : Nat) → Nat
/-- The network latency of a stop-capable REFLEX instance as Neskan computes it, with so many of its layers in fallback
(R138, R139). -/
opaque networkLatency : (build inst fallback : Nat) → Nat
/-- The time the SFDP gives for erasing 64 KiB, and for programming 256 bytes, in ns (R218). -/
opaque eraseNs : Nat
opaque programNs : Nat
/-- The UART line that reports the failure record (slot, IMG_FAIL word) of R173. -/
opaque recordText : Nat → BitVec 32 → String
/-- Version number of the Cox firmware (R219). -/
opaque coxVersion : List Byte → Nat

/-- What a first-order filter with time constant `tau` µs leaves of a deviation after `dt` ns, in 1/65536: R498 gives no discrete
form. -/
opaque filterLeft : (tau dt : Nat) → Nat

/-- The JTAG instruction codes that the BSDL file publishes (R588); BYPASS is all ones by IEEE 1149.1. -/
opaque irExtest : BitVec 8
opaque irClamp : BitVec 8
opaque irHighz : BitVec 8
opaque irIdcode : BitVec 8
/-- The fused JEP106 manufacturer code of IDCODE (R588). -/
opaque jep106 : BitVec 11

/-- The local offset of the exponent array of a BX8 operand: R312 has the instruction name it and no format of chapter 13
has a field for it. A function of the instruction word, a scalar it reads, and which of its operands is meant. -/
opaque bxBase : (word operand which : Nat) → Nat
/-- Which stop output, if any, the element at an offset of an instance's output buffer is (R334 names such elements and no
section places them). -/
opaque stopOutputAt : (build inst offset : Nat) → Option Nat

/-! Values that stay open after an operation (assumption 4): each use applies one to the state's counter. -/

/-- Whether an access by a context without locked entries misses the TLB (R435 gives no replacement rule). -/
opaque tlbMiss : Nat → Bool
/-- Whether a tile filled by t.ld holds integers (R261, R324 name both and no field tells). -/
opaque loadedTileInt : Nat → Bool
/-- The time a stop takes to cross to the balls: at most 90 ns (R138's table; used modulo 91). -/
opaque stopCrossing : Nat → Nat
/-- A 32-bit value the spec does not state. -/
opaque word32 : Nat → BitVec 32
/-- A 64-bit value the spec does not state. -/
opaque word64 : Nat → BitVec 64

end Sys2Proof.Config
end

