-- ==== Sys2Proof/Machine/Bytes.lean ====
section
/-! DEFINITION. Byte strings as numbers (R11) and their CRC-32 (04_axis_links_and_stop_lines.md R117). -/

namespace Sys2Proof.Machine

/-- The `n` low bytes of a number, lowest first (R11). -/
def bytesOf : Nat → Nat → List Byte
  | 0, _ => []
  | n + 1, v => BitVec.ofNat 8 v :: bytesOf n (v / 256)

/-- The number of which these are the bytes, lowest first (R11). -/
def natOf : List Byte → Nat
  | [] => 0
  | b :: bs => b.toNat + 256 * natOf bs

/-- Eight shifts of the reflected CRC register. -/
def crcShift : Nat → Word → Word
  | 0, r => r
  | n + 1, r => crcShift n (if r.getLsbD 0 then (r >>> 1) ^^^ 0xEDB88320#32 else r >>> 1)

def crcFold (r : Word) : List Byte → Word
  | [] => r
  | b :: bs => crcFold (crcShift 8 (r ^^^ b.zeroExtend 32)) bs

/-- The CRC-32 of IEEE 802.3 over a byte string, complemented as in the frame check sequence. -/
def crc32 (bs : List Byte) : Word := ~~~ (crcFold 0xFFFFFFFF#32 bs)

end Sys2Proof.Machine
end

