-- ==== Sys2Proof/Machine/Reg.lean ====
section
/-! DEFINITION. The registers of the 26 register blocks: one name per register family of the spec, with its block,
offset, repetition, access code, defined bits and reset value, as the Registers sections of the chapters list them. -/

namespace Sys2Proof.Machine

/-- The access codes of 00_scope.md R8. -/
inductive Access where
  | ro | rw | w1c | wo | rwl
  deriving DecidableEq, Repr

/-- The register blocks of 02_package_and_islands.md R61, in the order of their numbers k. -/
inductive Block where
  | stk | sns | axl | stp | img | cox | scl | arr | sch | vec | sfu | scn | seq | mmu | dma | mem | svc | rfx | opl | chg | hst | tel | flt | thm | pwr | id
  deriving DecidableEq, Repr

/-- The register families. The docstring of a name is the spec's own name of the register. -/
inductive Reg where
  /-- STK_CFG: 01_stroke.md R8, R15, R16, R19, R35 -/
  | stkCfg
  /-- STK_PERIOD: 01_stroke.md R14, R38 -/
  | stkPeriod
  /-- STK_FINISH: 01_stroke.md R23, R38 -/
  | stkFinish
  /-- STK_SYNC_WIN: 01_stroke.md R16, R38 -/
  | stkSyncWin
  /-- STK_STATUS: 01_stroke.md R18, R32 to R36 -/
  | stkStatus
  /-- STK_STICKY: 01_stroke.md R16, R34, R45 -/
  | stkSticky
  /-- STK_COUNT_LO: 01_stroke.md R37 -/
  | stkCountLo
  /-- STK_COUNT_HI: 01_stroke.md R37 -/
  | stkCountHi
  /-- STK_PHASE: 01_stroke.md R45 -/
  | stkPhase
  /-- STK_SYNC_ERR: 01_stroke.md R16 -/
  | stkSyncErr
  /-- STK_PHASE_ERR: 01_stroke.md R17 -/
  | stkPhaseErr
  /-- STK_RCV_CNT: 01_stroke.md R27 -/
  | stkRcvCnt
  /-- ID_PART: 02_package_and_islands.md R73 -/
  | idPart
  /-- ID_STEP: 02_package_and_islands.md R73 -/
  | idStep
  /-- ID_SCULL_CNT: 02_package_and_islands.md R6 -/
  | idScullCnt
  /-- ID_ARR_PER_SCULL: 02_package_and_islands.md R6 -/
  | idArrPerScull
  /-- ID_ARR_SHAPE: 02_package_and_islands.md R6, R278 -/
  | idArrShape
  /-- ID_MEM_CFG: 02_package_and_islands.md R6 -/
  | idMemCfg
  /-- ID_PHOTON: 02_package_and_islands.md R6 -/
  | idPhoton
  /-- ID_AXL_CNT: 02_package_and_islands.md R6 -/
  | idAxlCnt
  /-- ID_SCULL_MAP0..3: 02_package_and_islands.md R57, R73 -/
  | idScullMap
  /-- ID_SCULL_LIVE: 02_package_and_islands.md R58, R74 -/
  | idScullLive
  /-- ID_FLOOR: 02_package_and_islands.md R48 -/
  | idFloor
  /-- ID_PEAK: 02_package_and_islands.md R47 -/
  | idPeak
  /-- SNS_MCLK: 03_sense_inputs.md R79 -/
  | snsMclk
  /-- SNS_MOD_CFG0..47: 03_sense_inputs.md R79 to R81 -/
  | snsModCfg
  /-- SNS_MOD_OFS0..47: 03_sense_inputs.md R81, R99, R100 -/
  | snsModOfs
  /-- SNS_AE_CFG0..7: 03_sense_inputs.md R82 -/
  | snsAeCfg
  /-- SNS_VIB_CFG0..7: 03_sense_inputs.md R85, R87 -/
  | snsVibCfg
  /-- SNS_AE_RATE: 03_sense_inputs.md R83 -/
  | snsAeRate
  /-- SNS_VIB_RATE: 03_sense_inputs.md R86 -/
  | snsVibRate
  /-- SNS_CAL_NOISE_MAX: 03_sense_inputs.md R99 -/
  | snsCalNoiseMax
  /-- SNS_CAL_DELTA_MAX: 03_sense_inputs.md R100 -/
  | snsCalDeltaMax
  /-- SNS_CAL_REQ: 03_sense_inputs.md R102 -/
  | snsCalReq
  /-- SNS_CAL_STAT: 03_sense_inputs.md R99, R102 -/
  | snsCalStat
  /-- SNS_OVR_LO, SNS_OVR_HI: 03_sense_inputs.md R97 -/
  | snsOvr
  /-- SNS_IEPE_STAT: 03_sense_inputs.md R88 -/
  | snsIepeStat
  /-- SNS_STICKY: 03_sense_inputs.md R102 -/
  | snsSticky
  /-- SNS_LATE_CNT: 03_sense_inputs.md R77 -/
  | snsLateCnt
  /-- SNS_VIB_BIAS0..7: 03_sense_inputs.md R101 -/
  | snsVibBias
  /-- SNS_GD0..63: 03_sense_inputs.md R76, R81, R83, R86 -/
  | snsGd
  /-- AXL_TRAY: 04_axis_links_and_stop_lines.md R131, R133 -/
  | axlTray
  /-- AXL_STICKY: 04_axis_links_and_stop_lines.md R128, R130 -/
  | axlSticky
  /-- AXL_CFGn: 04_axis_links_and_stop_lines.md R118, R128 -/
  | axlCfg
  /-- AXL_STATn: 04_axis_links_and_stop_lines.md R127, R131, R133 -/
  | axlStat
  /-- AXL_CRC_CNTn: 04_axis_links_and_stop_lines.md R123 to R130, R144 -/
  | axlCrcCnt
  /-- AXL_MISS_CNTn: 04_axis_links_and_stop_lines.md R123 to R130, R144 -/
  | axlMissCnt
  /-- AXL_LATE_CNTn: 04_axis_links_and_stop_lines.md R123 to R130, R144 -/
  | axlLateCnt
  /-- AXL_SEQ_CNTn: 04_axis_links_and_stop_lines.md R123 to R130, R144 -/
  | axlSeqCnt
  /-- AXL_HELLO_CNTn: 04_axis_links_and_stop_lines.md R123 to R130, R144 -/
  | axlHelloCnt
  /-- STP_CFGn: 04_axis_links_and_stop_lines.md R135 to R137 -/
  | stpCfg
  /-- STP_STATE: 04_axis_links_and_stop_lines.md R137 -/
  | stpState
  /-- STP_LAT: 04_axis_links_and_stop_lines.md R139 -/
  | stpLat
  /-- STP_STICKY: 04_axis_links_and_stop_lines.md R139, R142, R145 -/
  | stpSticky
  /-- IMG_STAT: 05_boathouse_image.md R172, R181 -/
  | imgStat
  /-- IMG_FAIL_A, IMG_FAIL_B: 05_boathouse_image.md R171 -/
  | imgFail
  /-- IMG_BUILD_LO, IMG_BUILD_HI: 05_boathouse_image.md R152 -/
  | imgBuild
  /-- IMG_FLASH: 05_boathouse_image.md R148, R150 -/
  | imgFlash
  /-- IMG_RD_CNT: 05_boathouse_image.md R179 -/
  | imgRdCnt
  /-- IMG_STICKY: 05_boathouse_image.md R172, R179 -/
  | imgSticky
  /-- PWR_BOOT: 06_start_up.md R189 -/
  | pwrBoot
  /-- PWR_RAIL: 06_start_up.md R184, R616 -/
  | pwrRail
  /-- PWR_STICKY: 06_start_up.md R184, R204 -/
  | pwrSticky
  /-- PWR_STAGE3..11: 06_start_up.md R189 -/
  | pwrStage
  /-- COX_STAT: 07_cox_and_crew.md R240 -/
  | coxStat
  /-- COX_STICKY: 07_cox_and_crew.md R211, R212, R217, R233 -/
  | coxSticky
  /-- COX_PEND: 07_cox_and_crew.md R211 -/
  | coxPend
  /-- COX_MBm_REQ0..15: 07_cox_and_crew.md R210, R211 -/
  | mbReq
  /-- COX_MBm_RSP0..15: 07_cox_and_crew.md R213 -/
  | mbRsp
  /-- COX_MBm_CTL: 07_cox_and_crew.md R211 -/
  | mbCtl
  /-- COX_MBm_STAT: 07_cox_and_crew.md R211 -/
  | mbStat
  /-- SCL_STAT: 08_scull.md R277 -/
  | sclStat
  /-- SCL_QDEPTH: 08_scull.md R243, R248 -/
  | sclQdepth
  /-- SCL_INUSE_V: 08_scull.md R262 -/
  | sclInuseV
  /-- SCL_INUSE_T: 08_scull.md R262 -/
  | sclInuseT
  /-- SCL_INUSE_C: 08_scull.md R262 -/
  | sclInuseC
  /-- SCL_SPW_BASE: 08_scull.md R256 -/
  | sclSpwBase
  /-- SCL_SPW_LEN: 08_scull.md R256 -/
  | sclSpwLen
  /-- SCL_BANK_CONF: 08_scull.md R259 -/
  | sclBankConf
  /-- SCL_VRF_CONF: 08_scull.md R254 -/
  | sclVrfConf
  /-- SCL_ISSUE_STALL: 08_scull.md R245 -/
  | sclIssueStall
  /-- SCL_IMEM: 08_scull.md R264 -/
  | sclImem
  /-- SCL_CLK: 08_scull.md R47, R504 -/
  | sclClk
  /-- SCL_STICKY: 08_scull.md R259, R263, R275 -/
  | sclSticky
  /-- ARR_STAT: 09_arrays_and_schuss_path.md R281, R287 -/
  | arrStat
  /-- ARR_OWNER: 09_arrays_and_schuss_path.md R290 -/
  | arrOwner
  /-- ARR_PASSES: 09_arrays_and_schuss_path.md R282 -/
  | arrPasses
  /-- ARR_BUBBLE: 09_arrays_and_schuss_path.md R292 -/
  | arrBubble
  /-- ARR_DSTALL: 09_arrays_and_schuss_path.md R294 -/
  | arrDstall
  /-- ARR_FEATHER: 09_arrays_and_schuss_path.md R296 -/
  | arrFeather
  /-- ARR_WPAR_CNT: 09_arrays_and_schuss_path.md R307 -/
  | arrWparCnt
  /-- ARR_STICKY: 09_arrays_and_schuss_path.md R294, R307 -/
  | arrSticky
  /-- SCH_STAT: 09_arrays_and_schuss_path.md R300, R309 -/
  | schStat
  /-- SCH_CYC: 09_arrays_and_schuss_path.md R299 -/
  | schCyc
  /-- SCH_RFX_CNT: 09_arrays_and_schuss_path.md R300 -/
  | schRfxCnt
  /-- SCH_RFX_DELAY: 09_arrays_and_schuss_path.md R300 -/
  | schRfxDelay
  /-- SCH_STICKY: 09_arrays_and_schuss_path.md R308 -/
  | schSticky
  /-- VEC_NUM_STICKY: 10_number_formats.md R323 to R326, R334, R336 -/
  | vecNumSticky
  /-- VEC_NAN_CNT: 10_number_formats.md R334 -/
  | vecNanCnt
  /-- VEC_SAT_CNT: 10_number_formats.md R323 -/
  | vecSatCnt
  /-- SFU_STICKY: 11_functions_norms_softmax.md R343, R352, R360 -/
  | sfuSticky
  /-- SFU_CNT: 11_functions_norms_softmax.md R341 -/
  | sfuCnt
  /-- SFU_TAB_VER: 11_functions_norms_softmax.md R345 -/
  | sfuTabVer
  /-- SFU_CRC0..7: 11_functions_norms_softmax.md R345, R361 -/
  | sfuCrc
  /-- SCN_STAT: 12_scan_engine.md R362 -/
  | scnStat
  /-- SCN_PROG: 12_scan_engine.md R377 -/
  | scnProg
  /-- SCN_LEN: 12_scan_engine.md R377 -/
  | scnLen
  /-- SCN_CHUNKS: 12_scan_engine.md R377 -/
  | scnChunks
  /-- SCN_FEED_WAIT: 12_scan_engine.md R371 -/
  | scnFeedWait
  /-- SCN_CKPT_DEFER: 12_scan_engine.md R384 -/
  | scnCkptDefer
  /-- SCN_CKPT_DROP: 12_scan_engine.md R384 -/
  | scnCkptDrop
  /-- SCN_STICKY: 12_scan_engine.md R371, R384 -/
  | scnSticky
  /-- SEQ_STAT: 13_instruction_set.md R398 -/
  | seqStat
  /-- SEQ_TRAPS: 13_instruction_set.md R408 -/
  | seqTraps
  /-- SEQ_HWSPILL: 13_instruction_set.md R405 -/
  | seqHwspill
  /-- SEQ_STICKY: 13_instruction_set.md R398, R412, R416 -/
  | seqSticky
  /-- SEQ_CRi low, high: 13_instruction_set.md R398 -/
  | seqCr
  /-- MMU_ROOTc: 14_memory_translation_dma.md R434 -/
  | mmuRoot
  /-- MMU_ROOT_SC: 14_memory_translation_dma.md R434 -/
  | mmuRootSc
  /-- MMU_LOCKED: 14_memory_translation_dma.md R436 -/
  | mmuLocked
  /-- MMU_MISS_CNT: 14_memory_translation_dma.md R435 -/
  | mmuMissCnt
  /-- MMU_FAULT_CNT: 14_memory_translation_dma.md R438 -/
  | mmuFaultCnt
  /-- MMU_STICKY: 14_memory_translation_dma.md R441 -/
  | mmuSticky
  /-- MEM_CE_CNT: 14_memory_translation_dma.md R425 -/
  | memCeCnt
  /-- MEM_UE_CNT: 14_memory_translation_dma.md R425 -/
  | memUeCnt
  /-- MEM_SPD_CE_CNT: 14_memory_translation_dma.md R425 -/
  | memSpdCeCnt
  /-- MEM_SPD_UE_CNT: 14_memory_translation_dma.md R425 -/
  | memSpdUeCnt
  /-- MEM_UE_ADDR_LO: 14_memory_translation_dma.md R425 -/
  | memUeAddrLo
  /-- MEM_UE_ADDR_HI: 14_memory_translation_dma.md R425 -/
  | memUeAddrHi
  /-- MEM_SCRUB: 14_memory_translation_dma.md R428 -/
  | memScrub
  /-- MEM_STICKY: 14_memory_translation_dma.md R425, R456 -/
  | memSticky
  /-- DMA_CHn_STAT: 14_memory_translation_dma.md R443 to R445 -/
  | dmaChStat
  /-- DMA_CHn_DESC: 14_memory_translation_dma.md R443 -/
  | dmaChDesc
  /-- DMA_GRAN_CNT: 14_memory_translation_dma.md R446 -/
  | dmaGranCnt
  /-- DMA_STICKY: 14_memory_translation_dma.md R445 -/
  | dmaSticky
  /-- SVC_CFG: 15_service_classes_and_overload.md R479 -/
  | svcCfg
  /-- SVC_STAT: 15_service_classes_and_overload.md R464 -/
  | svcStat
  /-- SVC_STICKY: 15_service_classes_and_overload.md R465 to R471 -/
  | svcSticky
  /-- SVC_LOADs: 15_service_classes_and_overload.md R463 -/
  | svcLoad
  /-- SVC_ISTATi: 15_service_classes_and_overload.md R464, R472, R473 -/
  | svcIstat
  /-- SVC_SHED_CNTi: 15_service_classes_and_overload.md R466 to R471 -/
  | svcShedCnt
  /-- SVC_OVER_CNTi: 15_service_classes_and_overload.md R465 to R470 -/
  | svcOverCnt
  /-- SVC_DECIM_CNTi: 15_service_classes_and_overload.md R469, R479 -/
  | svcDecimCnt
  /-- RFX_CFG: 16_reflex_banks.md R491, R500 -/
  | rfxCfg
  /-- RFX_STICKY: 16_reflex_banks.md R493 to R503 -/
  | rfxSticky
  /-- RFX_BANKb_CFG: 16_reflex_banks.md R491 -/
  | rfxBankCfg
  /-- RFX_BANKb_STAT: 16_reflex_banks.md R492, R493 -/
  | rfxBankStat
  /-- RFX bank b PASS_CNT: 16_reflex_banks.md R484 to R503 -/
  | rfxPassCnt
  /-- RFX bank b CHECK_CNT: 16_reflex_banks.md R484 to R503 -/
  | rfxCheckCnt
  /-- RFX bank b MISS_CNT: 16_reflex_banks.md R484 to R503 -/
  | rfxMissCnt
  /-- RFX bank b FALLBACK_CNT: 16_reflex_banks.md R484 to R503 -/
  | rfxFallbackCnt
  /-- RFX bank b HEAT_CNT: 16_reflex_banks.md R484 to R503 -/
  | rfxHeatCnt
  /-- RFX bank b HEAT_ABORT_CNT: 16_reflex_banks.md R484 to R503 -/
  | rfxHeatAbortCnt
  /-- RFX bank b SUSPECT_CNT: 16_reflex_banks.md R484 to R503 -/
  | rfxSuspectCnt
  /-- RFX_LANE_b_l: 16_reflex_banks.md R502, R503 -/
  | rfxLane
  /-- RFX_TRIM_b_l_r: 16_reflex_banks.md R497 -/
  | rfxTrim
  /-- THM_TEMPk: 16_reflex_banks.md R498, R504 -/
  | thmTemp
  /-- THM_THROT: 16_reflex_banks.md R504 -/
  | thmThrot
  /-- THM_FF_TAU: 16_reflex_banks.md R498 -/
  | thmFfTau
  /-- THM_HTR_PWR: 16_reflex_banks.md R499 -/
  | thmHtrPwr
  /-- THM_STICKY: 16_reflex_banks.md R499 -/
  | thmSticky
  /-- THM_FFb_s: 16_reflex_banks.md R498 -/
  | thmFf
  /-- OPL_CFG: 17_regatta_links.md R521 -/
  | oplCfg
  /-- OPL_RID_LO, OPL_RID_HI: 17_regatta_links.md R521 -/
  | oplRid
  /-- OPL_TIME: 17_regatta_links.md R535 -/
  | oplTime
  /-- OPL_STAT: 17_regatta_links.md R523, R534, R535 -/
  | oplStat
  /-- OPL_RS_LO: 17_regatta_links.md R534, R37 -/
  | oplRsLo
  /-- OPL_RS_HI: 17_regatta_links.md R37 -/
  | oplRsHi
  /-- OPL_OFS: 17_regatta_links.md R534 -/
  | oplOfs
  /-- OPL_STICKY: 17_regatta_links.md R519 to R536 -/
  | oplSticky
  /-- OPL_Pp_STAT: 17_regatta_links.md R522 -/
  | oplPStat
  /-- OPL_Pp_TXMAP: 17_regatta_links.md R517 -/
  | oplPTxmap
  /-- OPL_Pp_RXMAP: 17_regatta_links.md R517 -/
  | oplPRxmap
  /-- OPL_Pp_LANE: 17_regatta_links.md R518 -/
  | oplPLane
  /-- OPL_Pp_DELAY: 17_regatta_links.md R533 -/
  | oplPDelay
  /-- OPL port p TX_CNT: 17_regatta_links.md R518 to R528 -/
  | oplTxCnt
  /-- OPL port p RX_CNT: 17_regatta_links.md R518 to R528 -/
  | oplRxCnt
  /-- OPL port p CRC_CNT: 17_regatta_links.md R518 to R528 -/
  | oplCrcCnt
  /-- OPL port p RETX_CNT: 17_regatta_links.md R518 to R528 -/
  | oplRetxCnt
  /-- OPL port p SWITCH_CNT: 17_regatta_links.md R518 to R528 -/
  | oplSwitchCnt
  /-- OPL port p HEAT_CNT: 17_regatta_links.md R518 to R528 -/
  | oplHeatCnt
  /-- OPL_CHc_LATE: 17_regatta_links.md R531 -/
  | oplChLate
  /-- OPL_CHc_DROP: 17_regatta_links.md R529, R524 -/
  | oplChDrop
  /-- CHG_CFG: 18_changeover.md R552 -/
  | chgCfg
  /-- CHG_STAT: 18_changeover.md R553 -/
  | chgStat
  /-- CHG_STATUS0..7: 18_changeover.md R558 -/
  | chgStatus
  /-- CHG_BOUND: 18_changeover.md R565 -/
  | chgBound
  /-- CHG_STICKY: 18_changeover.md R552, R562 -/
  | chgSticky
  /-- HST_STAT: 19_host_port_and_telemetry.md R573, R594 -/
  | hstStat
  /-- HST_ID: 19_host_port_and_telemetry.md R573 -/
  | hstId
  /-- HST_CFG: 19_host_port_and_telemetry.md R578 -/
  | hstCfg
  /-- HST_REQ_PROD: 19_host_port_and_telemetry.md R578 -/
  | hstReqProd
  /-- HST_REQ_CONS: 19_host_port_and_telemetry.md R579 -/
  | hstReqCons
  /-- HST_RSP_PROD: 19_host_port_and_telemetry.md R580 -/
  | hstRspProd
  /-- HST_RSP_CONS: 19_host_port_and_telemetry.md R580 -/
  | hstRspCons
  /-- HST_TELWIN_LO, HST_TELWIN_HI: 19_host_port_and_telemetry.md R581 -/
  | hstTelwin
  /-- HST_IRQ_SET: 19_host_port_and_telemetry.md R586 -/
  | hstIrqSet
  /-- HST_RSP_DROP: 19_host_port_and_telemetry.md R580 -/
  | hstRspDrop
  /-- HST_STICKY: 19_host_port_and_telemetry.md R576 to R593 -/
  | hstSticky
  /-- HST_RSP_STAGE0..15: 19_host_port_and_telemetry.md R580 -/
  | hstRspStage
  /-- HST_RSP_PUSH: 19_host_port_and_telemetry.md R580 -/
  | hstRspPush
  /-- request ring word: 19_host_port_and_telemetry.md R578 -/
  | hstReqRing
  /-- response ring word: 19_host_port_and_telemetry.md R580 -/
  | hstRspRing
  /-- TEL_CFG: 19_host_port_and_telemetry.md R590 -/
  | telCfg
  /-- TEL_STICKY: 19_host_port_and_telemetry.md R582, R590 -/
  | telSticky
  /-- TEL_FSEL0..7: 19_host_port_and_telemetry.md R584 -/
  | telFsel
  /-- TEL_RINGr_BASE: 19_host_port_and_telemetry.md R582, R590 -/
  | telBase
  /-- TEL_RINGr_SIZE_LOG2: 19_host_port_and_telemetry.md R582, R590 -/
  | telSize
  /-- TEL_RINGr_PROD: 19_host_port_and_telemetry.md R582 -/
  | telProd
  /-- TEL_RINGr_CONS: 19_host_port_and_telemetry.md R582 -/
  | telCons
  /-- TEL_RINGr_WM: 19_host_port_and_telemetry.md R587 -/
  | telWm
  /-- TEL_RINGr_DROP: 19_host_port_and_telemetry.md R582 -/
  | telDrop
  /-- FLT_STAT: 20_faults.md R598 -/
  | fltStat
  /-- FLT_FIRST: 20_faults.md R613 -/
  | fltFirst
  /-- FLT_LAST: 20_faults.md R599 -/
  | fltLast
  /-- FLT_EVT_CNT: 20_faults.md R599 -/
  | fltEvtCnt
  /-- FLT_STICKY: 20_faults.md R8, R9, R64, R600, R603 -/
  | fltSticky
  /-- FLT_BRIDGE: 20_faults.md R72 -/
  | fltBridge
  /-- FLT_SCULLs: 20_faults.md R602 -/
  | fltScull
  /-- FLT_UNPLACEDi: 20_faults.md R603 -/
  | fltUnplaced
  deriving DecidableEq, Repr

/-- What the spec's register list says of one family. `dims` are its repetitions (count, byte stride), the sub-block
of a scull or an eight first (R62); `mask` are the bits that are not reserved; `view` marks a register whose content is
kept elsewhere in the state and computed at each read. -/
structure RegDesc where
  blk : Block
  off : Nat
  dims : List (Nat × Nat)
  acc : Access
  mask : Nat
  reset : Nat
  view : Bool
  deriving DecidableEq, Repr

/-- The register list of the spec. -/
def regDesc : Reg → RegDesc
  | .stkCfg => ⟨.stk, 0x0, [], .rwl, 0x37, 0x0, false⟩
  | .stkPeriod => ⟨.stk, 0x4, [], .rwl, 0xFFFFFF, 0x3D09, false⟩
  | .stkFinish => ⟨.stk, 0x8, [], .rwl, 0xFFFFFF, 0x9C4, false⟩
  | .stkSyncWin => ⟨.stk, 0xC, [], .rwl, 0x1FFF, 0xFA, false⟩
  | .stkStatus => ⟨.stk, 0x10, [], .ro, 0xFF0F, 0x0, false⟩
  | .stkSticky => ⟨.stk, 0x14, [], .w1c, 0x3F, 0x0, false⟩
  | .stkCountLo => ⟨.stk, 0x18, [], .ro, 0xFFFFFFFF, 0x0, true⟩
  | .stkCountHi => ⟨.stk, 0x1C, [], .ro, 0xFFFFFFFF, 0x0, false⟩
  | .stkPhase => ⟨.stk, 0x20, [], .ro, 0x3FFFFFF, 0x0, true⟩
  | .stkSyncErr => ⟨.stk, 0x24, [], .ro, 0xFFFF, 0x0, false⟩
  | .stkPhaseErr => ⟨.stk, 0x28, [], .ro, 0xFFFF, 0x0, false⟩
  | .stkRcvCnt => ⟨.stk, 0x2C, [], .ro, 0xFFFF, 0x0, false⟩
  | .idPart => ⟨.id, 0x0, [], .ro, 0xFFFFFF, 0x17216, false⟩
  | .idStep => ⟨.id, 0x4, [], .ro, 0xFF, 0x10, false⟩
  | .idScullCnt => ⟨.id, 0x8, [], .ro, 0x1F1F, 0x1110, false⟩
  | .idArrPerScull => ⟨.id, 0xC, [], .ro, 0xF, 0x4, false⟩
  | .idArrShape => ⟨.id, 0x10, [], .ro, 0xFFFFFFFF, 0x1000080, false⟩
  | .idMemCfg => ⟨.id, 0x14, [], .ro, 0xFFFFFFFF, 0x20001021, false⟩
  | .idPhoton => ⟨.id, 0x18, [], .ro, 0xF3FFF, 0xA2224, false⟩
  | .idAxlCnt => ⟨.id, 0x1C, [], .ro, 0x1F, 0xC, false⟩
  | .idScullMap => ⟨.id, 0x20, [(4, 0x4)], .ro, 0xFFFFFFFF, 0x0, true⟩
  | .idScullLive => ⟨.id, 0x30, [], .ro, 0xFFFF, 0xFFFF, false⟩
  | .idFloor => ⟨.id, 0x34, [], .ro, 0xFFFFFFFF, 0x2800320, false⟩
  | .idPeak => ⟨.id, 0x38, [], .ro, 0xFFFFFFFF, 0x3E804E2, false⟩
  | .snsMclk => ⟨.sns, 0x0, [], .rwl, 0x800FFFFF, 0x0, false⟩
  | .snsModCfg => ⟨.sns, 0x100, [(48, 0x4)], .rwl, 0x9F3F030F, 0x160004, false⟩
  | .snsModOfs => ⟨.sns, 0x200, [(48, 0x4)], .rwl, 0xFFFFFF, 0x0, false⟩
  | .snsAeCfg => ⟨.sns, 0x300, [(8, 0x4)], .rwl, 0x80000003, 0x0, false⟩
  | .snsVibCfg => ⟨.sns, 0x340, [(8, 0x4)], .rwl, 0x80000037, 0x0, false⟩
  | .snsAeRate => ⟨.sns, 0x320, [], .rwl, 0x7FFF, 0x1, false⟩
  | .snsVibRate => ⟨.sns, 0x360, [], .rwl, 0x7FFF, 0x1, false⟩
  | .snsCalNoiseMax => ⟨.sns, 0x380, [], .rwl, 0xFFFFFF, 0x0, false⟩
  | .snsCalDeltaMax => ⟨.sns, 0x38C, [], .rwl, 0xFFFFFF, 0x0, false⟩
  | .snsCalReq => ⟨.sns, 0x384, [], .wo, 0x33F, 0x0, false⟩
  | .snsCalStat => ⟨.sns, 0x388, [], .ro, 0x803FFFFF, 0x0, false⟩
  | .snsOvr => ⟨.sns, 0x390, [(2, 0x4)], .w1c, 0xFFFFFFFF, 0x0, false⟩
  | .snsIepeStat => ⟨.sns, 0x398, [], .ro, 0xFFFF, 0x0, false⟩
  | .snsSticky => ⟨.sns, 0x39C, [], .w1c, 0x3F, 0x0, false⟩
  | .snsLateCnt => ⟨.sns, 0x3A0, [], .ro, 0xFFFFFFFF, 0x0, false⟩
  | .snsVibBias => ⟨.sns, 0x3C0, [(8, 0x4)], .ro, 0xFFFF, 0x0, false⟩
  | .snsGd => ⟨.sns, 0x400, [(64, 0x4)], .ro, 0xFFFFFF, 0x0, true⟩
  | .axlTray => ⟨.axl, 0x0, [], .rwl, 0x3FF, 0x0, false⟩
  | .axlSticky => ⟨.axl, 0x4, [], .w1c, 0xF, 0x0, false⟩
  | .axlCfg => ⟨.axl, 0x100, [(12, 0x40)], .rwl, 0xCF3FF3FF, 0x4000000, false⟩
  | .axlStat => ⟨.axl, 0x104, [(12, 0x40)], .ro, 0x3FF07, 0x0, false⟩
  | .axlCrcCnt => ⟨.axl, 0x108, [(12, 0x40)], .ro, 0xFFFFFFFF, 0x0, false⟩
  | .axlMissCnt => ⟨.axl, 0x10C, [(12, 0x40)], .ro, 0xFFFFFFFF, 0x0, false⟩
  | .axlLateCnt => ⟨.axl, 0x110, [(12, 0x40)], .ro, 0xFFFFFFFF, 0x0, false⟩
  | .axlSeqCnt => ⟨.axl, 0x114, [(12, 0x40)], .ro, 0xFFFFFFFF, 0x0, false⟩
  | .axlHelloCnt => ⟨.axl, 0x118, [(12, 0x40)], .ro, 0xFFFFFFFF, 0x0, false⟩
  | .stpCfg => ⟨.stp, 0x0, [(12, 0x4)], .rwl, 0xFFFF0000, 0x10000, false⟩
  | .stpState => ⟨.stp, 0x40, [], .ro, 0x1FFF, 0x0, false⟩
  | .stpLat => ⟨.stp, 0x44, [], .ro, 0xFFFF, 0x0, false⟩
  | .stpSticky => ⟨.stp, 0x48, [], .w1c, 0xF, 0x0, false⟩
  | .imgStat => ⟨.img, 0x0, [], .ro, 0xFFFFFF0F, 0x0, false⟩
  | .imgFail => ⟨.img, 0x4, [(2, 0x4)], .ro, 0xF3FFFFFF, 0x0, false⟩
  | .imgBuild => ⟨.img, 0xC, [(2, 0x4)], .ro, 0xFFFFFFFF, 0x0, false⟩
  | .imgFlash => ⟨.img, 0x14, [], .ro, 0xFFFF, 0x0, false⟩
  | .imgRdCnt => ⟨.img, 0x18, [], .ro, 0xFFFFFFFF, 0x0, false⟩
  | .imgSticky => ⟨.img, 0x1C, [], .w1c, 0x3, 0x0, false⟩
  | .pwrBoot => ⟨.pwr, 0x0, [], .ro, 0xFFFFFF0F, 0x2, false⟩
  | .pwrRail => ⟨.pwr, 0x4, [], .ro, 0x7FF, 0x0, false⟩
  | .pwrSticky => ⟨.pwr, 0x8, [], .w1c, 0x1F, 0x0, false⟩
  | .pwrStage => ⟨.pwr, 0x10, [(9, 0x4)], .ro, 0xFFFFFF, 0x0, false⟩
  | .coxStat => ⟨.cox, 0x0, [], .ro, 0xFFFF00FF, 0x0, false⟩
  | .coxSticky => ⟨.cox, 0x4, [], .w1c, 0x1F, 0x0, false⟩
  | .coxPend => ⟨.cox, 0x8, [], .ro, 0xFFFF, 0x0, true⟩
  | .mbReq => ⟨.cox, 0x1000, [(16, 0x100), (16, 0x4)], .rw, 0xFFFFFFFF, 0x0, false⟩
  | .mbRsp => ⟨.cox, 0x1040, [(16, 0x100), (16, 0x4)], .ro, 0xFFFFFFFF, 0x0, false⟩
  | .mbCtl => ⟨.cox, 0x1080, [(16, 0x100)], .wo, 0x3, 0x0, false⟩
  | .mbStat => ⟨.cox, 0x1084, [(16, 0x100)], .ro, 0xFF03, 0xFF00, false⟩
  | .sclStat => ⟨.scl, 0x0, [(16, 0x1000)], .ro, 0x403F001F, 0x40000000, true⟩
  | .sclQdepth => ⟨.scl, 0x4, [(16, 0x1000)], .ro, 0x3FFFFFF, 0x0, true⟩
  | .sclInuseV => ⟨.scl, 0x8, [(16, 0x1000)], .ro, 0xFF, 0x0, true⟩
  | .sclInuseT => ⟨.scl, 0xC, [(16, 0x1000)], .ro, 0xFFFFFFFF, 0x0, true⟩
  | .sclInuseC => ⟨.scl, 0x10, [(16, 0x1000)], .ro, 0xFF, 0x0, true⟩
  | .sclSpwBase => ⟨.scl, 0x14, [(16, 0x1000)], .ro, 0x7FFFFF, 0x0, true⟩
  | .sclSpwLen => ⟨.scl, 0x18, [(16, 0x1000)], .ro, 0xFFFFFF, 0x0, true⟩
  | .sclBankConf => ⟨.scl, 0x1C, [(16, 0x1000)], .ro, 0xFFFFFFFF, 0x0, false⟩
  | .sclVrfConf => ⟨.scl, 0x20, [(16, 0x1000)], .ro, 0xFFFFFFFF, 0x0, false⟩
  | .sclIssueStall => ⟨.scl, 0x24, [(16, 0x1000)], .ro, 0xFFFFFFFF, 0x0, false⟩
  | .sclImem => ⟨.scl, 0x28, [(16, 0x1000)], .ro, 0x3FFFF, 0x0, false⟩
  | .sclClk => ⟨.scl, 0x2C, [(16, 0x1000)], .ro, 0xFFFFFFFF, 0x640A0280, false⟩
  | .sclSticky => ⟨.scl, 0x30, [(16, 0x1000)], .w1c, 0x7, 0x0, false⟩
  | .arrStat => ⟨.arr, 0x0, [(16, 0x1000)], .ro, 0xFFFF, 0x0, true⟩
  | .arrOwner => ⟨.arr, 0x4, [(16, 0x1000)], .ro, 0xBFBFBFBF, 0x0, true⟩
  | .arrPasses => ⟨.arr, 0x8, [(16, 0x1000)], .ro, 0xFFFFFFFF, 0x0, false⟩
  | .arrBubble => ⟨.arr, 0xC, [(16, 0x1000)], .ro, 0xFFFFFFFF, 0x0, false⟩
  | .arrDstall => ⟨.arr, 0x10, [(16, 0x1000)], .ro, 0xFFFFFFFF, 0x0, false⟩
  | .arrFeather => ⟨.arr, 0x14, [(16, 0x1000)], .ro, 0xFFFFFFFF, 0x0, false⟩
  | .arrWparCnt => ⟨.arr, 0x18, [(16, 0x1000)], .ro, 0xFFFFFFFF, 0x0, false⟩
  | .arrSticky => ⟨.arr, 0x1C, [(16, 0x1000)], .w1c, 0x3, 0x0, false⟩
  | .schStat => ⟨.sch, 0x0, [(16, 0x1000)], .ro, 0x3F, 0x0, true⟩
  | .schCyc => ⟨.sch, 0x4, [(16, 0x1000)], .ro, 0xFFFFFFFF, 0x0, false⟩
  | .schRfxCnt => ⟨.sch, 0x8, [(16, 0x1000)], .ro, 0xFFFFFFFF, 0x0, false⟩
  | .schRfxDelay => ⟨.sch, 0xC, [(16, 0x1000)], .ro, 0xFFFFFFFF, 0x0, false⟩
  | .schSticky => ⟨.sch, 0x10, [(16, 0x1000)], .w1c, 0x1, 0x0, false⟩
  | .vecNumSticky => ⟨.vec, 0x100, [(16, 0x1000)], .w1c, 0x7F, 0x0, false⟩
  | .vecNanCnt => ⟨.vec, 0x104, [(16, 0x1000)], .ro, 0xFFFFFFFF, 0x0, false⟩
  | .vecSatCnt => ⟨.vec, 0x108, [(16, 0x1000)], .ro, 0xFFFFFFFF, 0x0, false⟩
  | .sfuSticky => ⟨.sfu, 0x0, [(16, 0x1000)], .w1c, 0x1F, 0x0, false⟩
  | .sfuCnt => ⟨.sfu, 0x4, [(16, 0x1000)], .ro, 0xFFFFFFFF, 0x0, false⟩
  | .sfuTabVer => ⟨.sfu, 0x8, [(16, 0x1000)], .ro, 0xFF, 0x1, false⟩
  | .sfuCrc => ⟨.sfu, 0x10, [(16, 0x1000), (8, 0x4)], .ro, 0xFFFFFFFF, 0x0, false⟩
  | .scnStat => ⟨.scn, 0x0, [(16, 0x1000)], .ro, 0xFFE00000, 0x0, true⟩
  | .scnProg => ⟨.scn, 0x4, [(16, 0x1000)], .ro, 0x7FFF, 0x0, true⟩
  | .scnLen => ⟨.scn, 0x8, [(16, 0x1000)], .ro, 0x1FFFFF, 0x0, true⟩
  | .scnChunks => ⟨.scn, 0xC, [(16, 0x1000)], .ro, 0xFFFFFFFF, 0x0, false⟩
  | .scnFeedWait => ⟨.scn, 0x10, [(16, 0x1000)], .ro, 0xFFFFFFFF, 0x0, false⟩
  | .scnCkptDefer => ⟨.scn, 0x14, [(16, 0x1000)], .ro, 0xFFFFFFFF, 0x0, false⟩
  | .scnCkptDrop => ⟨.scn, 0x18, [(16, 0x1000)], .ro, 0xFFFFFFFF, 0x0, false⟩
  | .scnSticky => ⟨.scn, 0x1C, [(16, 0x1000)], .w1c, 0x7, 0x0, false⟩
  | .seqStat => ⟨.seq, 0x0, [(16, 0x1000)], .ro, 0xFFFF, 0x21, true⟩
  | .seqTraps => ⟨.seq, 0x4, [(16, 0x1000)], .ro, 0xFFFFFFFF, 0x0, false⟩
  | .seqHwspill => ⟨.seq, 0x8, [(16, 0x1000)], .ro, 0xFFFFFFFF, 0x0, false⟩
  | .seqSticky => ⟨.seq, 0xC, [(16, 0x1000)], .w1c, 0x7, 0x0, false⟩
  | .seqCr => ⟨.seq, 0x100, [(16, 0x1000), (16, 0x8), (2, 0x4)], .ro, 0xFFFFFFFF, 0x0, true⟩
  | .mmuRoot => ⟨.mmu, 0x0, [(2, 0x8000), (64, 0x4)], .ro, 0xFFFFFFFF, 0x0, false⟩
  | .mmuRootSc => ⟨.mmu, 0x100, [(2, 0x8000)], .ro, 0xFFFFFFFF, 0x0, false⟩
  | .mmuLocked => ⟨.mmu, 0x104, [(2, 0x8000)], .ro, 0x3FF, 0x0, false⟩
  | .mmuMissCnt => ⟨.mmu, 0x108, [(2, 0x8000)], .ro, 0xFFFFFFFF, 0x0, false⟩
  | .mmuFaultCnt => ⟨.mmu, 0x10C, [(2, 0x8000)], .ro, 0xFFFFFFFF, 0x0, false⟩
  | .mmuSticky => ⟨.mmu, 0x110, [(2, 0x8000)], .w1c, 0x1, 0x0, false⟩
  | .memCeCnt => ⟨.mem, 0x0, [(2, 0x8000)], .ro, 0xFFFFFFFF, 0x0, false⟩
  | .memUeCnt => ⟨.mem, 0x4, [(2, 0x8000)], .ro, 0xFFFFFFFF, 0x0, false⟩
  | .memSpdCeCnt => ⟨.mem, 0x8, [(2, 0x8000)], .ro, 0xFFFFFFFF, 0x0, false⟩
  | .memSpdUeCnt => ⟨.mem, 0xC, [(2, 0x8000)], .ro, 0xFFFFFFFF, 0x0, false⟩
  | .memUeAddrLo => ⟨.mem, 0x10, [(2, 0x8000)], .ro, 0xFFFFFFFF, 0x0, false⟩
  | .memUeAddrHi => ⟨.mem, 0x14, [(2, 0x8000)], .ro, 0xFFFF, 0x0, false⟩
  | .memScrub => ⟨.mem, 0x18, [(2, 0x8000)], .ro, 0xFFFF, 0x0, false⟩
  | .memSticky => ⟨.mem, 0x1C, [(2, 0x8000)], .w1c, 0x7, 0x0, false⟩
  | .dmaChStat => ⟨.dma, 0x0, [(16, 0x1000), (4, 0x8)], .ro, 0x3F07, 0x0, true⟩
  | .dmaChDesc => ⟨.dma, 0x4, [(16, 0x1000), (4, 0x8)], .ro, 0xFFFFFFFF, 0x0, true⟩
  | .dmaGranCnt => ⟨.dma, 0x40, [(16, 0x1000)], .ro, 0xFFFFFFFF, 0x0, false⟩
  | .dmaSticky => ⟨.dma, 0x44, [(16, 0x1000)], .w1c, 0x1, 0x0, false⟩
  | .svcCfg => ⟨.svc, 0x0, [], .rwl, 0xFFFF, 0x0, false⟩
  | .svcStat => ⟨.svc, 0x4, [], .ro, 0x80FFFFFF, 0x0, false⟩
  | .svcSticky => ⟨.svc, 0x8, [], .w1c, 0xFF, 0x0, false⟩
  | .svcLoad => ⟨.svc, 0x100, [(16, 0x4)], .ro, 0xFFFFFF, 0x0, false⟩
  | .svcIstat => ⟨.svc, 0x1000, [(256, 0x10)], .ro, 0xFFFFFF03, 0x0, true⟩
  | .svcShedCnt => ⟨.svc, 0x1004, [(256, 0x10)], .ro, 0xFFFFFFFF, 0x0, false⟩
  | .svcOverCnt => ⟨.svc, 0x1008, [(256, 0x10)], .ro, 0xFFFFFFFF, 0x0, false⟩
  | .svcDecimCnt => ⟨.svc, 0x100C, [(256, 0x10)], .ro, 0xFFFFFFFF, 0x0, false⟩
  | .rfxCfg => ⟨.rfx, 0x0, [], .rwl, 0xFFFF00FF, 0x4400040, false⟩
  | .rfxSticky => ⟨.rfx, 0x8, [], .w1c, 0x7F, 0x0, false⟩
  | .rfxBankCfg => ⟨.rfx, 0x10, [(4, 0x4)], .rwl, 0x9F1F0000, 0x1F000000, false⟩
  | .rfxBankStat => ⟨.rfx, 0x20, [(4, 0x4)], .ro, 0xFFFFFFFF, 0x3F000, false⟩
  | .rfxPassCnt => ⟨.rfx, 0x100, [(4, 0x20)], .ro, 0xFFFFFFFF, 0x0, false⟩
  | .rfxCheckCnt => ⟨.rfx, 0x104, [(4, 0x20)], .ro, 0xFFFFFFFF, 0x0, false⟩
  | .rfxMissCnt => ⟨.rfx, 0x108, [(4, 0x20)], .ro, 0xFFFFFFFF, 0x0, false⟩
  | .rfxFallbackCnt => ⟨.rfx, 0x10C, [(4, 0x20)], .ro, 0xFFFFFFFF, 0x0, false⟩
  | .rfxHeatCnt => ⟨.rfx, 0x110, [(4, 0x20)], .ro, 0xFFFFFFFF, 0x0, false⟩
  | .rfxHeatAbortCnt => ⟨.rfx, 0x114, [(4, 0x20)], .ro, 0xFFFFFFFF, 0x0, false⟩
  | .rfxSuspectCnt => ⟨.rfx, 0x118, [(4, 0x20)], .ro, 0xFFFFFFFF, 0x0, false⟩
  | .rfxLane => ⟨.rfx, 0x1000, [(4, 0x100), (34, 0x4)], .ro, 0xC01FFFFF, 0x0, true⟩
  | .rfxTrim => ⟨.rfx, 0x4000, [(4, 0x1100), (34, 0x80), (32, 0x4)], .ro, 0xFFFFFFFF, 0x0, false⟩
  | .thmTemp => ⟨.thm, 0x0, [(32, 0x4)], .ro, 0xFFFF, 0x0, false⟩
  | .thmThrot => ⟨.thm, 0x80, [], .rwl, 0xFFFF, 0x5F69, false⟩
  | .thmFfTau => ⟨.thm, 0x84, [], .rwl, 0xFFFF, 0x32, false⟩
  | .thmHtrPwr => ⟨.thm, 0x88, [], .ro, 0xFFFF, 0x0, false⟩
  | .thmSticky => ⟨.thm, 0x8C, [], .w1c, 0x7, 0x0, false⟩
  | .thmFf => ⟨.thm, 0x100, [(64, 0x4)], .rwl, 0xFFFF, 0x0, false⟩
  | .oplCfg => ⟨.opl, 0x0, [], .rwl, 0x80FF0007, 0x0, false⟩
  | .oplRid => ⟨.opl, 0x4, [(2, 0x4)], .rwl, 0xFFFFFFFF, 0x0, false⟩
  | .oplTime => ⟨.opl, 0xC, [], .rwl, 0x1FFF, 0x7D0, false⟩
  | .oplStat => ⟨.opl, 0x10, [], .ro, 0xF7FF0000, 0x0, false⟩
  | .oplRsLo => ⟨.opl, 0x14, [], .ro, 0xFFFFFFFF, 0x0, true⟩
  | .oplRsHi => ⟨.opl, 0x18, [], .ro, 0xFFFFFFFF, 0x0, false⟩
  | .oplOfs => ⟨.opl, 0x1C, [], .ro, 0xFFFFFFFF, 0x0, false⟩
  | .oplSticky => ⟨.opl, 0x20, [], .w1c, 0x3FF, 0x0, false⟩
  | .oplPStat => ⟨.opl, 0x100, [(2, 0x80)], .ro, 0xFFE0FFFF, 0xFF00, false⟩
  | .oplPTxmap => ⟨.opl, 0x104, [(2, 0x80)], .ro, 0xFFFFFFFF, 0xFFFFFFFF, false⟩
  | .oplPRxmap => ⟨.opl, 0x108, [(2, 0x80)], .ro, 0xFFFFFFFF, 0xFFFFFFFF, false⟩
  | .oplPLane => ⟨.opl, 0x10C, [(2, 0x80)], .ro, 0x3FF03FF, 0x0, false⟩
  | .oplPDelay => ⟨.opl, 0x110, [(2, 0x80)], .ro, 0xFFFFF, 0x0, false⟩
  | .oplTxCnt => ⟨.opl, 0x120, [(2, 0x80)], .ro, 0xFFFFFFFF, 0x0, false⟩
  | .oplRxCnt => ⟨.opl, 0x124, [(2, 0x80)], .ro, 0xFFFFFFFF, 0x0, false⟩
  | .oplCrcCnt => ⟨.opl, 0x128, [(2, 0x80)], .ro, 0xFFFFFFFF, 0x0, false⟩
  | .oplRetxCnt => ⟨.opl, 0x12C, [(2, 0x80)], .ro, 0xFFFFFFFF, 0x0, false⟩
  | .oplSwitchCnt => ⟨.opl, 0x130, [(2, 0x80)], .ro, 0xFFFFFFFF, 0x0, false⟩
  | .oplHeatCnt => ⟨.opl, 0x134, [(2, 0x80)], .ro, 0xFFFFFFFF, 0x0, false⟩
  | .oplChLate => ⟨.opl, 0x1000, [(64, 0x8)], .ro, 0xFFFFFFFF, 0x0, false⟩
  | .oplChDrop => ⟨.opl, 0x1004, [(64, 0x8)], .ro, 0xFFFFFFFF, 0x0, false⟩
  | .chgCfg => ⟨.chg, 0x0, [], .rwl, 0x1, 0x0, false⟩
  | .chgStat => ⟨.chg, 0x4, [], .ro, 0xF1FFFFFF, 0x0, false⟩
  | .chgStatus => ⟨.chg, 0x10, [(8, 0x4)], .ro, 0xFFFFFFFF, 0x0, false⟩
  | .chgBound => ⟨.chg, 0x30, [], .ro, 0xFFFFFF, 0x0, false⟩
  | .chgSticky => ⟨.chg, 0x34, [], .w1c, 0x7, 0x0, false⟩
  | .hstStat => ⟨.hst, 0x0, [], .ro, 0xFF000000, 0x0, false⟩
  | .hstId => ⟨.hst, 0x4, [], .ro, 0xFFFFFFFF, 0x72160000, false⟩
  | .hstCfg => ⟨.hst, 0x8, [], .rw, 0xFF, 0x10, false⟩
  | .hstReqProd => ⟨.hst, 0x10, [], .ro, 0xFFFFFFFF, 0x0, false⟩
  | .hstReqCons => ⟨.hst, 0x14, [], .rw, 0xFFFFFFFF, 0x0, false⟩
  | .hstRspProd => ⟨.hst, 0x18, [], .ro, 0xFFFFFFFF, 0x0, false⟩
  | .hstRspCons => ⟨.hst, 0x1C, [], .ro, 0xFFFFFFFF, 0x0, false⟩
  | .hstTelwin => ⟨.hst, 0x20, [(2, 0x4)], .ro, 0xFFFFFFFF, 0x0, false⟩
  | .hstIrqSet => ⟨.hst, 0x28, [], .wo, 0xFFFFF, 0x0, false⟩
  | .hstRspDrop => ⟨.hst, 0x2C, [], .ro, 0xFFFFFFFF, 0x0, false⟩
  | .hstSticky => ⟨.hst, 0x30, [], .w1c, 0x1F, 0x0, false⟩
  | .hstRspStage => ⟨.hst, 0x100, [(16, 0x4)], .rw, 0xFFFFFFFF, 0x0, false⟩
  | .hstRspPush => ⟨.hst, 0x140, [], .wo, 0xFFFFFFFF, 0x0, false⟩
  | .hstReqRing => ⟨.hst, 0x8000, [(1024, 0x4)], .ro, 0xFFFFFFFF, 0x0, false⟩
  | .hstRspRing => ⟨.hst, 0x9000, [(1024, 0x4)], .ro, 0xFFFFFFFF, 0x0, false⟩
  | .telCfg => ⟨.tel, 0x0, [], .rw, 0xFF, 0x0, false⟩
  | .telSticky => ⟨.tel, 0x4, [], .w1c, 0x7, 0x0, false⟩
  | .telFsel => ⟨.tel, 0x40, [(8, 0x4)], .rw, 0xFFFFFFFF, 0x0, false⟩
  | .telBase => ⟨.tel, 0x100, [(8, 0x20)], .rw, 0x3FFF000, 0x0, false⟩
  | .telSize => ⟨.tel, 0x104, [(8, 0x20)], .rw, 0x1F, 0x0, false⟩
  | .telProd => ⟨.tel, 0x108, [(8, 0x20)], .rw, 0xFFFFFFFF, 0x0, false⟩
  | .telCons => ⟨.tel, 0x10C, [(8, 0x20)], .ro, 0xFFFFFFFF, 0x0, false⟩
  | .telWm => ⟨.tel, 0x110, [(8, 0x20)], .rw, 0x1FFFFF, 0x0, false⟩
  | .telDrop => ⟨.tel, 0x114, [(8, 0x20)], .ro, 0xFFFFFFFF, 0x0, false⟩
  | .fltStat => ⟨.flt, 0x0, [], .ro, 0x80FFFFFF, 0x80000000, true⟩
  | .fltFirst => ⟨.flt, 0x4, [], .ro, 0xFFFF, 0x0, false⟩
  | .fltLast => ⟨.flt, 0x8, [], .ro, 0xFFF0FFFF, 0x0, false⟩
  | .fltEvtCnt => ⟨.flt, 0xC, [], .ro, 0xFFFFFFFF, 0x0, false⟩
  | .fltSticky => ⟨.flt, 0x10, [], .w1c, 0x1F, 0x0, false⟩
  | .fltBridge => ⟨.flt, 0x14, [], .ro, 0xFFFFFFFF, 0x0, false⟩
  | .fltScull => ⟨.flt, 0x100, [(16, 0x4)], .ro, 0xFFFF, 0x0, false⟩
  | .fltUnplaced => ⟨.flt, 0x200, [(8, 0x4)], .ro, 0xFFFFFFFF, 0x0, false⟩

/-- The families of block STK. -/
def regsStk : List Reg :=
  [.stkCfg, .stkPeriod, .stkFinish, .stkSyncWin, .stkStatus, .stkSticky, .stkCountLo, .stkCountHi, .stkPhase, .stkSyncErr, .stkPhaseErr, .stkRcvCnt]

/-- The families of block SNS. -/
def regsSns : List Reg :=
  [.snsMclk, .snsModCfg, .snsModOfs, .snsAeCfg, .snsVibCfg, .snsAeRate, .snsVibRate, .snsCalNoiseMax, .snsCalDeltaMax, .snsCalReq, .snsCalStat, .snsOvr, .snsIepeStat, .snsSticky, .snsLateCnt, .snsVibBias, .snsGd]

/-- The families of block AXL. -/
def regsAxl : List Reg :=
  [.axlTray, .axlSticky, .axlCfg, .axlStat, .axlCrcCnt, .axlMissCnt, .axlLateCnt, .axlSeqCnt, .axlHelloCnt]

/-- The families of block STP. -/
def regsStp : List Reg :=
  [.stpCfg, .stpState, .stpLat, .stpSticky]

/-- The families of block IMG. -/
def regsImg : List Reg :=
  [.imgStat, .imgFail, .imgBuild, .imgFlash, .imgRdCnt, .imgSticky]

/-- The families of block COX. -/
def regsCox : List Reg :=
  [.coxStat, .coxSticky, .coxPend, .mbReq, .mbRsp, .mbCtl, .mbStat]

/-- The families of block SCL. -/
def regsScl : List Reg :=
  [.sclStat, .sclQdepth, .sclInuseV, .sclInuseT, .sclInuseC, .sclSpwBase, .sclSpwLen, .sclBankConf, .sclVrfConf, .sclIssueStall, .sclImem, .sclClk, .sclSticky]

/-- The families of block ARR. -/
def regsArr : List Reg :=
  [.arrStat, .arrOwner, .arrPasses, .arrBubble, .arrDstall, .arrFeather, .arrWparCnt, .arrSticky]

/-- The families of block SCH. -/
def regsSch : List Reg :=
  [.schStat, .schCyc, .schRfxCnt, .schRfxDelay, .schSticky]

/-- The families of block VEC. -/
def regsVec : List Reg :=
  [.vecNumSticky, .vecNanCnt, .vecSatCnt]

/-- The families of block SFU. -/
def regsSfu : List Reg :=
  [.sfuSticky, .sfuCnt, .sfuTabVer, .sfuCrc]

/-- The families of block SCN. -/
def regsScn : List Reg :=
  [.scnStat, .scnProg, .scnLen, .scnChunks, .scnFeedWait, .scnCkptDefer, .scnCkptDrop, .scnSticky]

/-- The families of block SEQ. -/
def regsSeq : List Reg :=
  [.seqStat, .seqTraps, .seqHwspill, .seqSticky, .seqCr]

/-- The families of block MMU. -/
def regsMmu : List Reg :=
  [.mmuRoot, .mmuRootSc, .mmuLocked, .mmuMissCnt, .mmuFaultCnt, .mmuSticky]

/-- The families of block DMA. -/
def regsDma : List Reg :=
  [.dmaChStat, .dmaChDesc, .dmaGranCnt, .dmaSticky]

/-- The families of block MEM. -/
def regsMem : List Reg :=
  [.memCeCnt, .memUeCnt, .memSpdCeCnt, .memSpdUeCnt, .memUeAddrLo, .memUeAddrHi, .memScrub, .memSticky]

/-- The families of block SVC. -/
def regsSvc : List Reg :=
  [.svcCfg, .svcStat, .svcSticky, .svcLoad, .svcIstat, .svcShedCnt, .svcOverCnt, .svcDecimCnt]

/-- The families of block RFX. -/
def regsRfx : List Reg :=
  [.rfxCfg, .rfxSticky, .rfxBankCfg, .rfxBankStat, .rfxPassCnt, .rfxCheckCnt, .rfxMissCnt, .rfxFallbackCnt, .rfxHeatCnt, .rfxHeatAbortCnt, .rfxSuspectCnt, .rfxLane, .rfxTrim]

/-- The families of block OPL. -/
def regsOpl : List Reg :=
  [.oplCfg, .oplRid, .oplTime, .oplStat, .oplRsLo, .oplRsHi, .oplOfs, .oplSticky, .oplPStat, .oplPTxmap, .oplPRxmap, .oplPLane, .oplPDelay, .oplTxCnt, .oplRxCnt, .oplCrcCnt, .oplRetxCnt, .oplSwitchCnt, .oplHeatCnt, .oplChLate, .oplChDrop]

/-- The families of block CHG. -/
def regsChg : List Reg :=
  [.chgCfg, .chgStat, .chgStatus, .chgBound, .chgSticky]

/-- The families of block HST. -/
def regsHst : List Reg :=
  [.hstStat, .hstId, .hstCfg, .hstReqProd, .hstReqCons, .hstRspProd, .hstRspCons, .hstTelwin, .hstIrqSet, .hstRspDrop, .hstSticky, .hstRspStage, .hstRspPush, .hstReqRing, .hstRspRing]

/-- The families of block TEL. -/
def regsTel : List Reg :=
  [.telCfg, .telSticky, .telFsel, .telBase, .telSize, .telProd, .telCons, .telWm, .telDrop]

/-- The families of block FLT. -/
def regsFlt : List Reg :=
  [.fltStat, .fltFirst, .fltLast, .fltEvtCnt, .fltSticky, .fltBridge, .fltScull, .fltUnplaced]

/-- The families of block THM. -/
def regsThm : List Reg :=
  [.thmTemp, .thmThrot, .thmFfTau, .thmHtrPwr, .thmSticky, .thmFf]

/-- The families of block PWR. -/
def regsPwr : List Reg :=
  [.pwrBoot, .pwrRail, .pwrSticky, .pwrStage]

/-- The families of block ID. -/
def regsId : List Reg :=
  [.idPart, .idStep, .idScullCnt, .idArrPerScull, .idArrShape, .idMemCfg, .idPhoton, .idAxlCnt, .idScullMap, .idScullLive, .idFloor, .idPeak]

/-- The families of a block. -/
def regsOf : Block → List Reg
  | .stk => regsStk
  | .sns => regsSns
  | .axl => regsAxl
  | .stp => regsStp
  | .img => regsImg
  | .cox => regsCox
  | .scl => regsScl
  | .arr => regsArr
  | .sch => regsSch
  | .vec => regsVec
  | .sfu => regsSfu
  | .scn => regsScn
  | .seq => regsSeq
  | .mmu => regsMmu
  | .dma => regsDma
  | .mem => regsMem
  | .svc => regsSvc
  | .rfx => regsRfx
  | .opl => regsOpl
  | .chg => regsChg
  | .hst => regsHst
  | .tel => regsTel
  | .flt => regsFlt
  | .thm => regsThm
  | .pwr => regsPwr
  | .id => regsId

/-- The blocks in the order of R61. -/
def allBlocks : List Block :=
  [.stk, .sns, .axl, .stp, .img, .cox, .scl, .arr, .sch, .vec, .sfu, .scn, .seq, .mmu, .dma, .mem, .svc, .rfx, .opl, .chg, .hst, .tel, .flt, .thm, .pwr, .id]

/-- Byte offset of repetition `i` of a family with repetitions `dims`, the last one running fastest. -/
def dimsOffset : List (Nat × Nat) → Nat → Nat
  | [], _ => 0
  | (_, st) :: rest, i =>
    let inner := (rest.map Prod.fst).foldr (· * ·) 1
    (i / inner) * st + dimsOffset rest (i % inner)

/-- How many registers a family has. -/
def dimsCount (dims : List (Nat × Nat)) : Nat := (dims.map Prod.fst).foldr (· * ·) 1

/-- The repetition whose byte offset is `o`, when there is one. -/
def dimsIndex : List (Nat × Nat) → Nat → Option Nat
  | [], o => if o = 0 then some 0 else none
  | (n, st) :: rest, o =>
    let inner := (rest.map Prod.fst).foldr (· * ·) 1
    if o / st < n then
      match dimsIndex rest (o % st) with
      | some j => some ((o / st) * inner + j)
      | none => none
    else none

/-- The repetition of family `r` at offset `o` of its block. -/
def regIndexAt (r : Reg) (o : Nat) : Option Nat :=
  if (regDesc r).off ≤ o then dimsIndex (regDesc r).dims (o - (regDesc r).off) else none

/-- The register at byte offset `o` of block `b`, if a listed register occupies it (R645). -/
def regFind (o : Nat) : List Reg → Option (Reg × Nat)
  | [] => none
  | r :: rs =>
    match regIndexAt r o with
    | some i => some (r, i)
    | none => regFind o rs

/-- Number k of a block. -/
def blockNum (b : Block) : Nat := b.ctorIdx

/-- Device address of repetition `i` of family `r` (R60 to R62). -/
def regAddr (r : Reg) (i : Nat) : Nat :=
  0x002000000000 + blockNum (regDesc r).blk * 0x10000 + (regDesc r).off + dimsOffset (regDesc r).dims i

/-- The key of one register in the register store. -/
abbrev RegKey := Reg × Nat

/-- The place of a key in the store's order. -/
def regOrd (k : RegKey) : Nat := k.2 * 256 + k.1.ctorIdx

/-- The reset value of a register. -/
def regReset (k : RegKey) : Word := BitVec.ofNat 32 (regDesc k.1).reset

end Sys2Proof.Machine
end

