-- ==== Sys2Proof/Machine/Table.lean ====
section
/-! DEFINITION. Sparse tables in one canonical form: the register store, memory, and everything the spec numbers.
A table lists only what differs from the default of its key, with the keys' places strictly rising. -/

namespace Sys2Proof.Machine

/-- Entries of a sparse table. -/
abbrev Table (κ α : Type) := List (κ × α)

namespace Tab

/-- The value at key `k`; an unlisted key reads as its default. -/
def get {κ α : Type} [DecidableEq κ] (d : κ → α) : List (κ × α) → κ → α
  | [], k => d k
  | (k', v) :: t, k => if k' = k then v else get d t k

/-- The table without key `k`. -/
def erase {κ α : Type} [DecidableEq κ] (k : κ) : List (κ × α) → List (κ × α)
  | [] => []
  | (k', v) :: t => if k' = k then erase k t else (k', v) :: erase k t

/-- Insert before the first entry whose place is not below that of `k`. -/
def place {κ α : Type} (ord : κ → Nat) (k : κ) (v : α) : List (κ × α) → List (κ × α)
  | [] => [(k, v)]
  | (k', v') :: t => if ord k' < ord k then (k', v') :: place ord k v t else (k, v) :: (k', v') :: t

/-- Write `v` at `k`; writing the default removes the entry. -/
def set {κ α : Type} [DecidableEq κ] [DecidableEq α] (ord : κ → Nat) (d : κ → α) (k : κ) (v : α)
    (t : List (κ × α)) : List (κ × α) :=
  if v = d k then erase k t else place ord k v (erase k t)

/-- The canonical form: places strictly rising, and no entry equal to its key's default. -/
def wf {κ α : Type} [DecidableEq α] (ord : κ → Nat) (d : κ → α) : List (κ × α) → Bool
  | [] => true
  | [(k, v)] => decide (v ≠ d k)
  | (k, v) :: (k', v') :: t => decide (v ≠ d k) && decide (ord k < ord k') && wf ord d ((k', v') :: t)

/-- Write values at rising keys `k, k+1, …` of a table over numbers. -/
def setMany {α : Type} [DecidableEq α] (d : Nat → α) (k : Nat) : List α → List (Nat × α) → List (Nat × α)
  | [], t => t
  | v :: vs, t => setMany d (k + 1) vs (set id d k v t)

/-- Read `n` values at `k, k+1, …`. -/
def getMany {α : Type} (d : Nat → α) (t : List (Nat × α)) (k : Nat) : Nat → List α
  | 0 => []
  | n + 1 => get d t k :: getMany d t (k + 1) n

end Tab
end Sys2Proof.Machine
end

