-- ==== Sys2Proof/Machine/State.lean ====
section
/-! DEFINITION. The state of the block: the register store, memory, and every queue, mode and count the chapters give
the device. Plain data throughout; sparse parts are canonical tables (Machine/Table.lean). -/

namespace Sys2Proof.Machine

/-- How a step may stop with a fault. The spec gives every misuse a stated outcome (00_scope.md, Wording), so no
command of this model ends in one; the type has a single name so that it is closed. -/
inductive Fault where
  /-- Raised by nothing: kept as the name a stuck state would have. Safe. -/
  | stuck
  deriving DecidableEq, Repr

/-- How a step may be refused. -/
inductive Refusal where
  /-- A row of the opcode table without a meaning in this model (none, when the model is complete). Safe. -/
  | notModelled (mnemonic : String)
  deriving DecidableEq, Repr

/-! ## Values with poison -/

/-- One 32-bit element of a vector register, carry register or tile, with its poison mark (R275, R427). -/
structure Elem where
  val : Word
  poison : Bool
  deriving DecidableEq, Repr

/-- One 64-bit scalar register with its poison mark (R420). -/
structure Scalar where
  val : DWord
  poison : Bool
  deriving DecidableEq, Repr

def Elem.zero : Elem := ⟨0, false⟩
def Scalar.zero : Scalar := ⟨0, false⟩

/-! ## The boathouse image, as parsed (05_boathouse_image.md) -/

/-- A section-table entry (R155). -/
structure SectEntry where
  typ : Nat
  flags : Nat
  nonceRef : Nat
  off : Nat
  len : Nat
  digest : List Byte
  deriving DecidableEq, Repr

/-- A register-load entry (R158). -/
structure RegLoad where
  k : Nat
  off : Nat
  val : Word
  deriving DecidableEq, Repr

/-- A CREW load record (R162), with its bytes (empty: zero fill). `context` is 64 for the stern core (0xFF). -/
structure CrewRec where
  context : Nat
  attr : Nat
  len : Nat
  vaddr : Nat
  bytes : List Byte
  deriving DecidableEq, Repr

/-- A MODEL region descriptor (R163). -/
structure Region where
  vaddr : Nat
  len : Nat
  fmt : Nat
  attr : Nat
  bytes : List Byte
  deriving DecidableEq, Repr

/-- A carry-slot directory entry (R381). -/
structure SlotDir where
  vaddr : Nat
  len : Nat
  ckpt : Nat
  mirror : Bool
  deriving DecidableEq, Repr

/-- The service classes (R458), in rank order. -/
inductive Class where
  | reflex | stroke | guard | trend
  deriving DecidableEq, Repr

/-- A MODEL section (R163): one instance. -/
structure Model where
  inst : Nat
  cls : Class
  ctx : Nat
  mask : BitVec 16
  stopOuts : Nat
  inLen : Nat
  outLen : Nat
  stepVaddr : Nat
  regions : List Region
  slots : List SlotDir
  sect : Nat
  deriving DecidableEq, Repr

/-- A SCHED entry (R461). -/
structure Sched where
  inst : Nat
  coast : Bool
  validMin : Nat
  order : Nat
  budget : Nat
  reserve : Nat
  limit : Nat
  frame : Nat
  trigInst : Nat
  trigOff : Nat
  coastVaddr : Nat
  heldVaddr : Nat
  coastNs : Nat
  alt : List (BitVec 16)
  deriving DecidableEq, Repr

/-- A SENSE channel-map entry (R165). -/
structure SenseMap where
  chan : Nat
  inst : Nat
  bufOff : Nat
  deriving DecidableEq, Repr

/-- An AXIS link-map entry (R166). -/
structure AxisMap where
  kind : Nat
  link : Nat
  inst : Nat
  out : Nat
  frameOff : Nat
  len : Nat
  bufOff : Nat
  deriving DecidableEq, Repr

/-- A CARRY entry (R167). -/
structure CarryEntry where
  inst : Nat
  slot : Nat
  bytes : List Byte
  sect : Nat
  deriving DecidableEq, Repr

/-- An RFX LAYER entry (R482) with its weight codes, biases and input channels. -/
structure Layer where
  bank : Nat
  inst : Nat
  order : Nat
  src : Nat
  fsLog2 : Nat
  stopRow : Nat
  stopOut : Nat
  stopThr : Int
  inShift : Nat
  weights : List Int
  bias : List Int
  chans : List Nat
  inOff : Nat
  outOff : Nat
  deriving DecidableEq, Repr

/-- An RFX WAX entry (R482): wax codes by lane, row, breakpoint, and the 256 detuning codes. -/
structure Wax where
  bank : Nat
  codes : List Nat
  curve : List Int
  deriving DecidableEq, Repr

/-- An OPL CHANNEL entry (R530). -/
structure OplChan where
  chan : Nat
  typ : Nat
  src : Nat
  dst : Nat
  srcInst : Nat
  dstInst : Nat
  lag : Nat
  period : Nat
  len : Nat
  srcOff : Nat
  dstOff : Nat
  deriving DecidableEq, Repr

/-- A parsed image. -/
structure Image where
  slot : Nat
  epoch : Nat
  bsvn : Nat
  vsvn : Nat
  imageLen : Nat
  buildId : Nat
  sects : List SectEntry
  builderKey : List Byte
  contentKey : List Byte
  nonces : List (List Byte)
  provisioning : List Byte
  cox : List Byte
  crew : List CrewRec
  models : List Model
  sched : List Sched
  sense : List SenseMap
  axis : List AxisMap
  carry : List CarryEntry
  layers : List Layer
  waxes : List Wax
  chans : List OplChan
  exclude : List (Nat × Nat)
  svcList : List RegLoad
  snsList : List RegLoad
  axisList : List RegLoad
  rfxList : List RegLoad
  oplList : List RegLoad
  deriving DecidableEq, Repr

def Image.empty : Image :=
  ⟨0, 0, 0, 0, 0, 0, [], [], [], [], [], [], [], [], [], [], [], [], [], [], [], [], [], [], [], [], []⟩

/-! ## Flash and fuses -/

/-- The octal NOR flash on the board (R148 to R150): its bytes, log2 of its density, JEDEC maker, whether it reads in
8D-8D-8D and whether it answers SFDP. -/
structure Flash where
  bytes : List Host.Cell
  densLog2 : Nat
  maker : Nat
  octal : Bool
  answers : Bool
  deriving DecidableEq, Repr

/-- A fuse field and the CRC-32 that follows it (R223). -/
structure FuseField where
  val : List Byte
  crc : Word
  deriving DecidableEq, Repr

/-- A blown field, and a blank one of `n` bytes. -/
def FuseField.blow (v : List Byte) : FuseField := ⟨v, crc32 v⟩
def FuseField.unblown (n : Nat) : FuseField := ⟨List.replicate n 0, 0⟩

/-- The fuses (R223). `idMap` holds the unused physical scull, the stepping and the Vendor ID (assumption 120). -/
structure Fuses where
  vendorHash : FuseField
  serial : FuseField
  priv : FuseField
  idMap : FuseField
  builderHash : FuseField
  kek : FuseField
  dbgOff : FuseField
  vendorArc : BitVec 64
  builderArc : BitVec 64
  deriving DecidableEq, Repr

/-! ## Sequencers, engines and contexts (08 to 14) -/

/-- An instruction in an engine's queue or in a held set: its issue number, context, PC, opcode bits, the scalar
operands read at issue, the scratchpad ranges it declared (R248) and the NTE in force at issue (R399). -/
structure QEntry where
  seq : Nat
  ctx : Nat
  pc : DWord
  major : Nat
  w : BitVec 56
  args : List DWord
  rd : Option (Nat × Nat)
  wr : Option (Nat × Nat)
  /-- the registers it reads and writes, as the scoreboard numbers them (R247) -/
  rs : List Nat
  ws : List Nat
  nte : Bool
  engine : Engine
  /-- the engine has started it -/
  started : Bool
  deriving DecidableEq, Repr

/-- The kinds of trap of R407, in the order R417 takes them. -/
inductive TrapKind where
  | exec | channel | issue
  deriving DecidableEq, Repr

/-- A trap that is due: its number and kind, the issue number of its instruction, its channel, where the context
resumes (`again`: the engine instruction that is to run again; `rpc`: the PC for one the sequencer executes), and the
detail words of R410 and R440. -/
structure DueTrap where
  num : Nat
  kind : TrapKind
  seq : Nat
  chan : Nat
  again : Option QEntry
  rpc : Option DWord
  details : List DWord
  byHandler : Bool
  /-- when it became due, in ns -/
  at_ : Nat
  deriving DecidableEq, Repr

/-- Why a context is halted. -/
inductive Halt where
  | none
  | fault (code : Nat)
  | debug
  deriving DecidableEq, Repr

/-- What a context runs for an instance (R458, R466, R559). -/
inductive StepKind where
  | step | coast | entry
  deriving DecidableEq, Repr

/-- A step in a context on one scull. -/
structure StepRun where
  inst : Nat
  kind : StepKind
  stroke : Nat
  deriving DecidableEq, Repr

/-- A scan instruction that runs or is interrupted (R365, R377). -/
structure Scan where
  w0 : DWord
  w1 : DWord
  w2 : DWord
  w3 : DWord
  entry : QEntry
  prog : Nat
  running : Bool
  /-- chunks whose records are staged and not yet computed -/
  staged : Nat
  /-- when the engine began to wait for its feeder, in ns -/
  waitSince : Nat
  deriving DecidableEq, Repr

/-- A DMA channel (R442 to R445): state 0 idle, 1 running, 2 halted, 3 stopped, 4 bound to a scan. -/
structure Channel where
  state : Nat
  ctx : Nat
  desc : DWord
  row : Nat
  bytes : Nat
  entry : Option QEntry
  /-- the progress word it last wrote -/
  prog : DWord
  /-- the descriptor in progress, as the channel read it -/
  raw : List Byte
  deriving DecidableEq, Repr

def Channel.idle : Channel := ⟨0, 0, 0, 0, 0, none, 0, []⟩

/-- The state of one context on one unit: registers and windows, control registers (R398), the held set and due traps,
the scan, and the engine register files with their in-use flags (R251, R262). Dead resources read zero, so what a
context switch skips (R263, R447) is not told apart from what it keeps. -/
structure Ctx where
  g : Table Nat Scalar
  win : Table Nat Scalar
  pc : DWord
  nte : Bool
  tw : Bool
  cwp : Nat
  live : Nat
  hd : Nat
  tvec : DWord
  spillBase : DWord
  spillPtr : DWord
  spillLim : DWord
  trecH : DWord
  trecD : List DWord
  held : List QEntry
  /-- what waited in the engine queues when the context was switched out (R267) -/
  saved : List QEntry
  /-- its DMA channels while it is switched out (R447) -/
  savedCh : Table Nat Channel
  /-- issue number of the first handler instruction of the last trap entry (R412) -/
  entrySeq : Nat
  due : List DueTrap
  halt : Halt
  released : Bool
  waitDone : Bool
  suspended : Bool
  step : Option StepRun
  scan : Option Scan
  seqNo : Nat
  v : Table Nat Elem
  c : Table Nat Elem
  t : Table Nat Elem
  inuseV : BitVec 8
  inuseT : BitVec 32
  inuseC : BitVec 8
  /-- bit 8A + n: tile tA.n holds integers -/
  intT : BitVec 32
  deriving DecidableEq, Repr

/-- A context as first released (R421) and after stage 6 (R277). -/
def Ctx.reset : Ctx :=
  { g := [], win := [], pc := 0, nte := true, tw := false, cwp := 0, live := 1, hd := 0, tvec := 0, spillBase := 0,
    spillPtr := 0, spillLim := 0, trecH := 0, trecD := List.replicate 7 0, held := [], saved := [], savedCh := [], entrySeq := 0, due := [], halt := .none,
    released := false, waitDone := false, suspended := false, step := none, scan := none, seqNo := 0, v := [],
    c := [], t := [], inuseV := 0, inuseT := 0, inuseC := 0, intT := 0 }

/-- One array (R286 to R290): which of its two planes is active, the shadow state (0 EMPTY, 1 LOADING, 2 READY,
3 POISONED), the contexts that last loaded plane 0 and plane 1, the context that swapped the active plane in, and the runs
of erring active rows (R307). -/
structure ArrayState where
  active : Nat
  shadow : Nat
  loader0 : Nat
  loader1 : Nat
  activeOwner : Option Nat
  errRuns : Table Nat Nat
  deriving DecidableEq, Repr

def ArrayState.reset : ArrayState := ⟨0, 0, 0, 0, none, []⟩

/-- One block of the feed buffer (R291): its instruction, the raw elements of its vectors one after another, and the
exponents of its BX8 blocks. -/
structure Feed where
  seq : Nat
  ctx : Nat
  xs : List Nat
  exps : List Nat
  deriving DecidableEq, Repr

def Feed.empty : Feed := ⟨0, 0, [], []⟩

/-- A step that is released on a scull and waits for it. -/
structure Ready where
  inst : Nat
  ctx : Nat
  cls : Class
  kind : StepKind
  order : Nat
  stroke : Nat
  vaddr : Nat
  /-- a pre-empted step that resumes -/
  resume : Bool
  /-- a STROKE step suspended for its budget (R465) -/
  spentOut : Bool
  deriving DecidableEq, Repr

/-- An EXEC region in an instruction memory (R264): its context, its virtual address, its bytes. -/
structure Code where
  ctx : Nat
  vaddr : Nat
  bytes : List Byte
  deriving DecidableEq, Repr

/-- One scull (or, as unit 16, the stern core). -/
structure Scull where
  running : Option Nat
  preempting : Bool
  qArray : List QEntry
  qSchuss : List QEntry
  qVector : List QEntry
  qScan : List QEntry
  qDma : List QEntry
  arrays : Table Nat ArrayState
  /-- the 32 KiB feed buffer of the array group: at most one block in each half -/
  feed : List Feed
  planes : Table Nat Byte
  planePoison : Table Nat Bool
  sfuErr : Table Nat Nat
  channels : Table Nat Channel
  windows : Table Nat (Nat × Nat)
  /-- instruction memory -/
  imem : List Code
  ready : List Ready
  /-- gated DPU cycles not yet counted in ARR_FEATHER, whose unit is 256 -/
  gated : Nat
  /-- granules moved by DMA not yet counted in DMA_GRAN_CNT, whose unit is 1,024 -/
  granules : Nat
  deriving DecidableEq, Repr

def Scull.reset : Scull :=
  ⟨none, false, [], [], [], [], [], [], [], [], [], [], [], [], [], [], 0, 0⟩

/-! ## Instances (15) -/

/-- A pending GUARD event (R467). -/
structure Event where
  val : Word
  stroke : Nat
  raised : Nat
  /-- the catch of its stroke, from which its horizon counts -/
  caught : Nat
  /-- the input block of that stroke -/
  block : List Byte
  deriving DecidableEq, Repr

/-- A step of an instance that is released and not complete. -/
structure Running where
  stroke : Nat
  since : Nat
  left : BitVec 16
  kind : StepKind
  event : Nat
  deriving DecidableEq, Repr

/-- A complete checkpoint or mirror of one slot (R383, R536). -/
structure Copy where
  head : List Byte
  bytes : List Byte
  deriving DecidableEq, Repr

/-- Stroke number, epoch and CRC-32 in the 64-byte header of a copy (R383). -/
def Copy.stroke (c : Copy) : Nat := natOf (c.head.take 8)
def Copy.epoch (c : Copy) : Nat := natOf ((c.head.drop 8).take 1)
def Copy.crc (c : Copy) : Nat := natOf ((c.head.drop 20).take 4)

/-- One instance. `out` is the payload its records carry; `inputOf` one more than the newest stroke whose input entered
it (0: none), and likewise `newInputOf` and `heldInputOf`; `newEpoch` is the epoch of the step behind `newOut`;
`staleLeft` the SERVED steps still to go before STALE ends (R539, R568, R603). -/
structure Inst where
  epoch : Nat
  payloadEpoch : Nat
  placed : Bool
  alt : Nat
  mask : BitVec 16
  status : Nat
  age : Nat
  running : Option Running
  pending : List Event
  queued : Nat
  /-- a REFLEX instance whose switch edge has come: how many of the releases that wait are for instants before it (R561) -/
  closing : Option Nat
  /-- the input block latched last (GUARD and TREND); the earlier blocks since the last frame, oldest first; and whether a frame
  has taken the last one (TREND, R458) -/
  block : List Byte
  blocks : List (List Byte)
  given : Bool
  overrun : Bool
  complete : Bool
  missed : Bool
  coasted : Bool
  shed : Bool
  late : Bool
  /-- a STROKE step was released in this stroke -/
  stepped : Bool
  fenced : Bool
  held : Bool
  staleLeft : Nat
  /-- K of the rule that `staleLeft` counts down -/
  staleK : Nat
  staleUntilResult : Bool
  nanRecord : Bool
  hasResult : Bool
  out : List Byte
  /-- the payload that the last record carried -/
  shown : List Byte
  /-- its STOP bit -/
  shownStop : Bool
  newOut : Option (List Byte)
  inputOf : Nat
  newInputOf : Nat
  newEpoch : Nat
  heldInputOf : Nat
  stopBit : Bool
  newStop : Bool
  stopOuts : BitVec 12
  ckA : Table Nat (Option Copy)
  ckB : Table Nat (Option Copy)
  restoreDue : Bool
  inBase : Nat
  outBase : Nat
  /-- the payload of its last SERVED record, with what that record said of it (R35) -/
  served : List Byte
  servedInputOf : Nat
  servedEpoch : Nat
  servedStop : Bool
  framesDue : Nat
  header : DWord
  /-- placed again or restored: released from the next catch -/
  waitCatch : Bool
  deriving DecidableEq, Repr

def Inst.reset : Inst :=
  { epoch := 0, payloadEpoch := 0, placed := false, alt := 0, mask := 0, status := 0, age := 8191, running := none,
    pending := [], queued := 0, closing := none, block := [], blocks := [], given := true, overrun := false, complete := false, missed := false, coasted := false, shed := false,
    late := false, stepped := false, fenced := false, held := false, staleLeft := 0, staleK := 0, staleUntilResult := false,
    nanRecord := false, hasResult := false, out := [], shown := [], shownStop := false, newOut := none, inputOf := 0, newInputOf := 0, newEpoch := 0,
    heldInputOf := 0, stopBit := false, newStop := false, stopOuts := 0, ckA := [], ckB := [], restoreDue := false,
    inBase := 0, outBase := 0, served := [], servedInputOf := 0, servedEpoch := 0, servedStop := false, framesDue := 0, header := 0, waitCatch := false }

/-! ## Stroke, sense, links -/

/-- The phases of STK_PHASE. -/
inductive Phase where
  | catch_ | drive | cutoff | recovery
  deriving DecidableEq, Repr

/-- A recovery item (R27), in the order of R27. -/
inductive RecItem where
  | checkpoint (inst slot : Nat)
  | mirror (chan : Nat)
  /-- the DMA that scull `u` still has to start for the next stroke -/
  | dma (u : Nat)
  | heat (bank : Nat)
  deriving DecidableEq, Repr

/-- One sense channel's running counts (R87, R92 to R98, R107, R108). Counts are outputs still to be marked. -/
structure SenseChan where
  ovrLeft : Nat
  ovrPrev : Bool
  openLeft : Nat
  settleLeft : Nat
  settleUntil : Nat
  settleAfter : Nat
  highRun : Nat
  lowRun : Nat
  goodRun : Nat
  openNow : Bool
  shortNow : Bool
  failed : Bool
  word : DWord
  /-- a modulator channel: the bits sampled since its decimator last restarted, newest first, as far as its filter
  reaches (R80) -/
  bits : List Bool
  /-- the level last sampled, and for how many MCLK cycles it has lasted (R96, R108) -/
  level : Bool
  levelRun : Nat
  /-- an overdriven neighbour disturbs the next output (R98) -/
  disturbed : Bool
  deriving DecidableEq, Repr

def SenseChan.reset : SenseChan := ⟨0, false, 0, 0, 0, 0, 0, 0, 0, false, false, false, 0, [], false, 0, false⟩

/-- A calibration in progress (R99 to R101). -/
structure Cal where
  iepe : Bool
  chan : Nat
  count : Nat
  codes : List Int
  since : Nat
  /-- the catch that latches the last output of the window has passed -/
  caught : Bool
  /-- the instant of the newest output of the window -/
  newest : Nat
  deriving DecidableEq, Repr

/-- The calibration that ended last: when, on which channel, and the bias that stood before it (R106). -/
structure CalEnd where
  at_ : Nat
  chan : Nat
  iepe : Bool
  bias : Word
  deriving DecidableEq, Repr

/-- The frames that arrive in the window of one catch (R123): the first valid one tagged with that stroke, the first
tagged with the stroke before, and whether an invalid one arrived. -/
structure Window where
  onTime : Option (List Byte)
  lateFrame : Option (List Byte)
  invalid : Bool
  deriving DecidableEq, Repr

def Window.empty : Window := ⟨none, none, false⟩

/-- Where the frame received last stands: nowhere (discarded or found bad), in the window on time or late, or among the
frames that arrived after t = -300 ns. -/
inductive FrameSpot where
  | none | onTime | lateTag | nextWindow
  deriving DecidableEq, Repr

/-- What a catch changed on the word of a latched frame: AXL_STAT, the stop line and the miss run before it, kept while
the frame's fields still cross the bridge (R72). -/
structure BeforeCatch where
  stat : Word
  line : Bool
  missRun : Nat
  deriving DecidableEq, Repr

/-- One axis link: the window of the next catch, what arrived after t = -300 ns for the window of the catch after it, the
frame latched at the last catch, and the link's runs. -/
structure Link where
  win : Window
  nextFrames : List (List Byte)
  nextInvalid : Bool
  newest : FrameSpot
  before : BeforeCatch
  /-- SOS symbols sent on the line (R116) -/
  sos : Nat
  latched : Option (List Byte)
  syncRun : Nat
  missRun : Nat
  /-- the upstream frame of the last finish, without SOF and EOF (empty: none was sent) -/
  sent : List Byte
  deriving DecidableEq, Repr

def Link.reset : Link := ⟨Window.empty, [], false, .none, ⟨0, false, 0⟩, 0, none, 0, 0, []⟩

/-- One stop line (R135, R136, R145). -/
structure StopLine where
  since : Nat
  asked : Bool
  /-- HOLD is taken as met (R147) -/
  met : Bool
  readbackRun : Nat
  flt : Bool
  deriving DecidableEq, Repr

def StopLine.reset : StopLine := ⟨0, false, false, 0, false⟩

/-! ## Reflex banks -/

/-- A lane (R503): 0 in service, 1 spare, 2 heating, 3 failed. -/
structure Lane where
  st : Nat
  input : Nat
  heatedAt : Option Nat
  failedAt : Nat
  gain : Nat
  deriving DecidableEq, Repr

def Lane.reset : Lane := ⟨0, 0, none, 0, 0x4000⟩

/-- A heat in progress (R501, R520): the lane, the spare that stands in, the step reached and the next row. -/
structure Heat where
  lane : Nat
  spare : Option Nat
  step : Nat
  row : Nat
  trims : List Int
  /-- what the lane was before the heat -/
  was : Nat
  deriving DecidableEq, Repr

/-- A reflex job for the serving scull (R300): the codes latched, the codes the bank delivered, whether it is a fallback
pass rather than a shadow check, and what the granule carries. -/
structure Job where
  inputs : List Int
  outputs : List Int
  fallback : Bool
  bubble : Bool
  ts : Nat
  count : Nat
  deriving DecidableEq, Repr

/-- One reflex bank beside its registers. -/
structure Bank where
  causes : List Nat
  lanes : Table Nat Lane
  heat : Option Heat
  lfsr : BitVec 16
  probes : Nat
  history : List Bool
  shadowCnt : Nat
  inputs : List Int
  outputs : List Int
  bubble : Bool
  tsNs : Nat
  jobs : List Job
  goWaiting : Bool
  /-- a tight layer may latch the outputs -/
  fresh : Bool
  /-- a failed lane and the spare that settles for it -/
  swap : Option (Nat × Nat)
  heatedSince : List Nat
  sensorBad : Nat
  /-- rows in which an in-service ring's code clamps -/
  clampRows : List Nat
  /-- rows in which a heater does not reach its set point -/
  lowRows : List Nat
  /-- ΔT of the activity in 1/2^24 °C behind its filter, and when it was filtered last (R498) -/
  ff : Int
  ffAt : Nat
  /-- granules of sample passes whose release is still to come (R487) -/
  toRelease : Nat
  deriving DecidableEq, Repr

def Bank.reset : Bank :=
  { causes := [], lanes := [], heat := none, lfsr := 0xACE1, probes := 0, history := [], shadowCnt := 0, inputs := [],
    outputs := [], bubble := false, tsNs := 0, jobs := [], goWaiting := false, fresh := false, swap := none,
    heatedSince := [], sensorBad := 0, clampRows := [], lowRows := [], ff := 0, ffAt := 0, toRelease := 0 }

/-! ## Regatta -/

/-- A bundle on its way (R527): its whole bytes between the control blocks, how often it was sent, and the stroke in
which it last was. -/
structure Bundle where
  seq : Nat
  chan : Nat
  bytes : List Byte
  tries : Nat
  sentAt : Nat
  deriving DecidableEq, Repr

/-- What a channel has ready to send: the regatta stroke it was taken in, its barrier, the epoch of the source instance,
the slot and part of a mirror, and the payload. -/
structure Outgoing where
  rs : Nat
  due : Nat
  epoch : Nat
  slot : Nat
  part : Nat
  bytes : List Byte
  deriving DecidableEq, Repr

/-- One optical port beside its registers. `outbox` holds the control messages sent at the last sending moment; `fwd` the
bundles that wait to be forwarded. -/
structure Port where
  heat : Option Heat
  heatedAt : Table Nat Nat
  lastHeard : Nat
  downAt : Nat
  txSeq : Nat
  rxSeq : Nat
  discarding : Bool
  unacked : List Bundle
  fwd : List (List Byte)
  started : Nat
  outbox : List Message
  txNs : Nat
  echoTx : Nat
  echoRx : Nat
  delta : Int
  peerEpoch : Nat
  deriving DecidableEq, Repr

def Port.reset : Port := ⟨none, [], 0, 0, 0, 0, false, [], [], 0, [], 0, 0, 0, 0, 0⟩

/-- One regatta channel: the bundle that waits to start; what has arrived for its barriers, with the local stroke of its
arrival; the bundles of a mirror cycle still to start; whether a whole mirror cycle has been received; whether its
first mirror cycle has started (R551). -/
structure ChanState where
  waiting : Option Outgoing
  arrived : List (Nat × List Byte)
  mirrorQ : List Outgoing
  mirrorDone : Bool
  begun : Bool
  deriving DecidableEq, Repr

def ChanState.reset : ChanState := ⟨none, [], [], false, false⟩

/-- The two mirror buffers of a slot (R536). -/
structure MirrorBuf where
  a : Option Copy
  b : Option Copy
  part : List Byte
  deriving DecidableEq, Repr

def MirrorBuf.reset : MirrorBuf := ⟨none, none, []⟩

/-! ## Cox, changeover, host -/

/-- A long service that runs (R215). -/
structure LongService where
  mailbox : Nat
  service : Nat
  requester : Nat
  args : List Byte
  since : Nat
  bound : Nat
  status : Nat
  results : List Byte
  deriving DecidableEq, Repr

/-- A notice for mailbox 15 (R217). -/
structure Notice where
  service : Nat
  status : Nat
  requester : Nat
  results : List Byte
  deriving DecidableEq, Repr

/-- An outstanding debug challenge (R231, R232). -/
structure Challenge where
  level : Nat
  block : List Byte
  since : Nat
  partR : Option (List Byte)
  mailbox : Nat
  deriving DecidableEq, Repr

/-- A UART line (R188, R600). -/
inductive UartLine where
  | stage (stage code ms : Nat)
  | fault (code stroke : Nat)
  /-- the failure record of a slot (R173) -/
  | record (slot : Nat) (word : Word)
  deriving DecidableEq, Repr

/-- A switch group (R557): its instances, the edge it is scheduled for, whether the work of the recovery before it is done,
and whether it has switched. -/
structure Group where
  insts : List Nat
  edge : Nat
  prepared : Bool
  switched : Bool
  deriving DecidableEq, Repr

/-- A placement: instance, mask, and 0 for SCULL_MASK or 1 to 3 for ALT. -/
structure Placed where
  inst : Nat
  mask : BitVec 16
  alt : Nat
  deriving DecidableEq, Repr

/-- A changeover (R553 to R568). `old` is the image it started from, `place` the placements of the target and `oldPlace`
those before, `moved` the contexts on the target's tables, `oldWindows` the windows (scull, context, base, length) they
left, and `back` the switch-back checkpoints: instance, slot, copy. -/
structure Changeover where
  active : Bool
  checkOnly : Bool
  mailbox : Option Nat
  slot : Nat
  target : Option Image
  old : Option Image
  groups : List Group
  since : Nat
  bound : Nat
  paused : Bool
  pausedNs : Nat
  pausedAt : Nat
  staged : Bool
  firstEdge : Nat
  cause : Nat
  rollbackAt : Option Nat
  retuning : List Nat
  back : List (Nat × Nat × Copy)
  place : List Placed
  oldPlace : List Placed
  moved : List Nat
  oldWindows : List (Nat × Nat × Nat × Nat)
  deriving DecidableEq, Repr

def Changeover.idle : Changeover :=
  { active := false, checkOnly := false, mailbox := none, slot := 0, target := none, old := none, groups := [], since := 0,
    bound := 0, paused := false, pausedNs := 0, pausedAt := 0, staged := false, firstEdge := 0, cause := 0,
    rollbackAt := none, retuning := [], back := [], place := [], oldPlace := [], moved := [], oldWindows := [] }

/-- A mailbox's times (R212, R214); its words, owner and state are registers. -/
structure MboxTimes where
  opened : Nat
  rung : Nat
  done : Nat
  deriving DecidableEq, Repr

def MboxTimes.zero : MboxTimes := ⟨0, 0, 0⟩

/-- One entry of a context's allotment (R431, R432). -/
structure Allot where
  paddr : Nat
  len : Nat
  ctx : Nat
  region : Nat
  flags : Nat
  vaddr : Nat
  deriving DecidableEq, Repr

/-- A re-admission under way (R603). -/
structure Readmission where
  sculls : BitVec 16
  since : Nat
  mailbox : Option Nat
  deriving DecidableEq, Repr

/-! ## The state -/

structure State where
  /-- commands that wait, first in, first out -/
  pending : List Instr
  /-- time in ns since power-on; the model's own -/
  now : Nat
  /-- counter that the open values of Config are applied to; the model's own -/
  free : Nat
  /-- the register store: every register of every block that is no view -/
  regs : Table RegKey Word
  /-- data that the last read by an outside requester returned -/
  rdData : DWord
  /-- HBM and scratchpad bytes by device address -/
  mem : List Host.Cell
  /-- poison marks by device address ÷ 8 -/
  poisoned : Table Nat Bool
  -- power, reset and start-up
  everInRange : Bool
  inReset : Bool
  railReset : Bool
  resetAt : Nat
  stageAt : Nat
  bootSlot : Nat
  stuck : Bool
  /-- the AXL and STP lists have taken effect -/
  linksUp : Bool
  /-- the device drives the STOPn balls: from the first stage 10 on (R147) -/
  driven : Bool
  /-- the IMG registers show what was recorded (R181) -/
  imgShown : Bool
  run : Bool
  firstFinish : Bool
  hbmTrained : Bool
  debugHold : Bool
  avsFails : Nat
  avsDead : Bool
  /-- VDD_CORE as last commanded, in mV (R617) -/
  vddMv : Nat
  /-- the voltage of the AVSBus change in flight, and the clock that waits for it (R617, R639) -/
  avsChange : Option Nat
  avsRaise : Option (Island × Nat)
  /-- clock of the stern core's island in MHz (R47) -/
  sternMhz : Nat
  fuses : Fuses
  flash : Flash
  img : Option Image
  /-- the content key in Cox SRAM of the image in force, and of the staged target (R224) -/
  contentKey : Option (List Byte)
  targetKey : Option (List Byte)
  admitted : Bool
  lightX : Bool
  lightL : Bool
  uart : List UartLine
  /-- the line that the UART sent last -/
  uartTx : String
  -- the stroke
  timerOn : Bool
  refLost : Bool
  /-- ns since the catch edge at the loss of STK_REFCLK, where STK_PHASE freezes (R45) -/
  lossNs : Nat
  /-- when the stern core's island last failed to hold its floor (R597) -/
  floorAt : Nat
  /-- the EP bit of the last completion to the host (R592) -/
  rdEp : Bool
  strokeNo : DWord
  catchAt : Nat
  /-- the period that the stroke timer runs at, in ns: STK_PERIOD, or that of STROKE_SYNC once locked to it (R17, R32) -/
  lockNs : Nat
  /-- the accepted edges of consecutive strokes, newest first -/
  edges : List Nat
  /-- an edge accepted for the catch edge to come (R17) -/
  edgeAt : Option Nat
  phase : Phase
  /-- SYNC_OUT rose at the last catch edge -/
  syncOut : Bool
  acqRun : Nat
  everLocked : Bool
  earlyEdge : Bool
  lateEdge : Bool
  fsRun : Nat
  fsLast : Option Nat
  recovery : List RecItem
  /-- checkpoints that wait for a recovery without a step of their instance (R384) -/
  ckptWait : List (Nat × Nat)
  -- sense
  chans : Table Nat SenseChan
  staged : Table Nat DWord
  words : Table Nat DWord
  lateWords : Table Nat Nat
  mclkFlt : Table Nat Nat
  cal : Option Cal
  calEnd : Option CalEnd
  /-- VIEPE lies below 21 V (R110) -/
  viepeLow : Bool
  ofsLoaded : Table Nat Word
  ofsPending : Option (Nat × Word)
  bridgeStroke : Nat
  bridgeClean : Nat
  -- axis links and stop lines
  links : Table Nat Link
  claiming : Bool
  lines : Table Nat StopLine
  pinFaultN : Bool
  -- Cox
  mbox : Table Nat MboxTimes
  taken : Option Nat
  long : Option LongService
  notices : List Notice
  challenge : Option Challenge
  authFails : Nat
  hostRing : Option Nat
  /-- time of the level 2 debug grant -/
  debugAt : Nat
  /-- a level 2 grant in Run takes effect at the next catch (R234) -/
  debugDue : Bool
  aliveAt : Nat
  sternFaults : List Nat
  sternRestart : Bool
  /-- contexts that CTX_RESTART releases at the next catch (R222) -/
  restarts : List Nat
  -- sculls
  ctxs : Table Nat Ctx
  sculls : Table Nat Scull
  allot : List Allot
  ceTimes : Table Nat (List Nat)
  -- scheduler
  insts : Table Nat Inst
  readmit : Option Readmission
  -- reflex banks
  banks : Table Nat Bank
  -- regatta
  ports : Table Nat Port
  rchans : Table Nat ChanState
  heard : BitVec 8
  heardPrev : BitVec 8
  misses : Table Nat Nat
  aliveFor : Table Nat Nat
  slipRun : Nat
  okRun : Nat
  rsOfs : Int
  mirrors : Table Nat MirrorBuf
  -- changeover
  chg : Changeover
  -- host
  staging : List Host.Cell
  msixTable : Table Nat Word
  pba : BitVec 32
  msgAt : Table Nat Nat
  msgWaiting : BitVec 32
  sentCount : Table Nat Nat
  ringSeq : Table Nat Nat
  ringSince : Table Nat Nat
  winOpen : Option Nat
  winCount : Nat
  perst : Bool
  jtagIr : BitVec 8
  -- faults
  holding : List Nat
  deriving DecidableEq, Repr

/-- The fuses of the device: blank or opaque fused values (assumption 2). -/
def Fuses.reset : Fuses :=
  { vendorHash := .blow (bytesOf 48 Config.vendorKeyHash.toNat), serial := .blow (bytesOf 16 Config.deviceSerial.toNat)
    priv := .blow (bytesOf 48 Config.devicePrivate.toNat), idMap := .blow [16, 0x10, 0, 0, 0, 0, 0, 0]
    builderHash := .blow (bytesOf 48 Config.builderKeyHash.toNat), kek := .blow (bytesOf 32 Config.fusedKek.toNat)
    dbgOff := .unblown 1, vendorArc := 0, builderArc := 0 }

/-- A 128 MiB flash with nothing written (R148; assumption 2). -/
def Flash.reset : Flash := ⟨[], 27, 0, true, true⟩

/-- The machine right after reset release (R186, R187, R613, R642): stage 2, FAULT_N asserted, RUN low, no image, every
register at its reset value, nothing queued. -/
def State.reset : State :=
  { pending := [], now := 0, free := 0, regs := [], rdData := 0, mem := [], poisoned := [], everInRange := true,
    inReset := false, railReset := false, resetAt := 0, stageAt := 0, bootSlot := 0, stuck := false,
    linksUp := false, driven := false, imgShown := false, run := false, firstFinish := false, hbmTrained := false, debugHold := false, avsFails := 0, avsDead := false, vddMv := 800, avsChange := none, avsRaise := none, sternMhz := 500, fuses := Fuses.reset, flash := Flash.reset, img := none, contentKey := none, targetKey := none,
    admitted := false, lightX := false, lightL := false, uart := [], uartTx := "", timerOn := false, refLost := false, lossNs := 0, floorAt := 0, rdEp := false,
    strokeNo := 0, catchAt := 0, lockNs := 0, edges := [], edgeAt := none, phase := .catch_, syncOut := false, acqRun := 0,
    everLocked := false, earlyEdge := false, lateEdge := false, fsRun := 0, fsLast := none,
    recovery := [], ckptWait := [], chans := [], staged := [], words := [], lateWords := [], mclkFlt := [],
    cal := none, calEnd := none, viepeLow := false, ofsLoaded := [], ofsPending := none, bridgeStroke := 0, bridgeClean := 0, links := [],
    claiming := false, lines := [], pinFaultN := true, mbox := [], taken := none, long := none,
    notices := [], challenge := none, authFails := 0, hostRing := none, debugAt := 0, debugDue := false, aliveAt := 0, sternFaults := [],
    sternRestart := false, restarts := [], ctxs := [], sculls := [], allot := [], ceTimes := [], insts := [], readmit := none,
    banks := [], ports := [], rchans := [], heard := 0, heardPrev := 0, misses := [], aliveFor := [], slipRun := 0,
    okRun := 0, rsOfs := 0, mirrors := [], chg := Changeover.idle, staging := [], msixTable := [], pba := 0,
    msgAt := [], msgWaiting := 0, sentCount := [], ringSeq := [], ringSince := [], winOpen := none,
    winCount := 0, perst := false, jtagIr := 0xFF, holding := [] }

end Sys2Proof.Machine
end

