-- ==== Sys2Proof/Machine/Ops.lean ====
section
/-! DEFINITION. The named operations over the state: bit fields, registers, memory, the sparse parts of the state, and
reporting (the codes of 20_faults.md, FAULT_N, the event ring, MSI-X and the UART), which every family uses. -/

namespace Sys2Proof.Machine

/-! ## Bits and bytes -/

/-- Bits [hi:lo] of a word as a number. -/
def fget (w : Word) (hi lo : Nat) : Nat := (w >>> lo).toNat % 2 ^ (hi + 1 - lo)

/-- A word with ones at [hi:lo]. -/
def fmask (hi lo : Nat) : Word := BitVec.ofNat 32 (2 ^ (hi + 1 - lo) - 1) <<< lo

/-- The word with bits [hi:lo] replaced by the low bits of `v`. -/
def fput (w : Word) (hi lo v : Nat) : Word :=
  (w &&& ~~~ (fmask hi lo)) ||| ((BitVec.ofNat 32 v <<< lo) &&& fmask hi lo)

/-- The word with bit `n` set to `b`. -/
def bput (w : Word) (n : Nat) (b : Bool) : Word := fput w n n (if b then 1 else 0)

/-- Bit `n`. -/
def bget (w : Word) (n : Nat) : Bool := w.getLsbD n

/-- A `n`-bit number read as two's complement. -/
def signed (n v : Nat) : Int := if v % 2 ^ n < 2 ^ (n - 1) then (v % 2 ^ n : Nat) else ((v % 2 ^ n : Nat) : Int) - 2 ^ n

/-- An integer as an `n`-bit two's complement number. -/
def unsigned (n : Nat) (v : Int) : Nat := (v % (2 ^ n : Int)).toNat

/-- Clamp to [lo, hi]. -/
def clampInt (lo hi v : Int) : Int := if v < lo then lo else if hi < v then hi else v

/-- Quotient rounded up. -/
def ceilDiv (a b : Nat) : Nat := (a + b - 1) / b

/-- `num / den` rounded to the nearest integer, ties to even; `den` is positive. -/
def roundEven (num : Int) (den : Nat) : Int :=
  let q := num / (den : Int)
  let r := num % (den : Int)
  if 2 * r < (den : Int) then q
  else if 2 * r > (den : Int) then q + 1
  else if q % 2 = 0 then q else q + 1

/-- `n` bytes from offset `o`; bytes beyond the end read zero. -/
def slice (bs : List Byte) (o n : Nat) : List Byte :=
  (bs.drop o).take n ++ List.replicate (n - ((bs.drop o).take n).length) 0

/-- The `n`-byte number at offset `o`. -/
def field (bs : List Byte) (o n : Nat) : Nat := natOf (slice bs o n)

/-- `bs` with `new` written at offset `o`. -/
def splice (bs : List Byte) (o : Nat) (new : List Byte) : List Byte :=
  slice bs 0 o ++ new ++ bs.drop (o + new.length)

/-! ## Order -/

/-- Put `x` in front of the first element that it may stand before. -/
def insertBy {α : Type} (le : α → α → Bool) (x : α) : List α → List α
  | [] => [x]
  | y :: ys => if le x y then x :: y :: ys else y :: insertBy le x ys

/-- Sort; equals stay in their order. -/
def sortBy {α : Type} (le : α → α → Bool) (l : List α) : List α := l.foldr (insertBy le) []

/-! ## Registers -/

/-- The stored value of a register. -/
def rd (s : State) (r : Reg) (i : Nat) : Word := Tab.get regReset s.regs (r, i)

/-- Store a value in a register. -/
def wr (s : State) (r : Reg) (i : Nat) (v : Word) : State :=
  { s with regs := Tab.set regOrd regReset (r, i) v s.regs }

/-- Field [hi:lo] of a register. -/
def rdf (s : State) (r : Reg) (i hi lo : Nat) : Nat := fget (rd s r i) hi lo

/-- Write field [hi:lo] of a register. -/
def wrf (s : State) (r : Reg) (i hi lo v : Nat) : State := wr s r i (fput (rd s r i) hi lo v)

/-- Bit `n` of a register. -/
def rdb (s : State) (r : Reg) (i n : Nat) : Bool := bget (rd s r i) n

/-- Write bit `n` of a register. -/
def wrb (s : State) (r : Reg) (i n : Nat) (b : Bool) : State := wr s r i (bput (rd s r i) n b)

/-- Set bit `n` of a register: a sticky flag. -/
def flag (s : State) (r : Reg) (i n : Nat) : State := wrb s r i n true

/-- Add to a field, saturating ("counters saturate"). -/
def bumpf (s : State) (r : Reg) (i hi lo n : Nat) : State :=
  wrf s r i hi lo (Nat.min (rdf s r i hi lo + n) (2 ^ (hi + 1 - lo) - 1))

/-- Count `n` events in a 32-bit counter, saturating. -/
def bumpBy (s : State) (r : Reg) (i n : Nat) : State := bumpf s r i 31 0 n

/-- Count one event in a 32-bit counter, saturating. -/
def bump (s : State) (r : Reg) (i : Nat) : State := bumpBy s r i 1

/-- Restore a list of registers to their reset values. -/
def resetRegs (keep : RegKey → Bool) (s : State) : State :=
  { s with regs := s.regs.filter (fun e => keep e.1) }

/-! ## Memory -/

/-- What an unlisted byte of memory reads as (assumption 5). -/
def memDefault (_a : Nat) : Byte := 0

/-- One byte of memory at a device address. -/
def mrd (s : State) (a : Nat) : Byte := Tab.get memDefault s.mem a

/-- `n` bytes from device address `a`. -/
def memRead (s : State) (a n : Nat) : List Byte := Tab.getMany memDefault s.mem a n

/-- Clear the poison marks of the `n` aligned words from word `w` on. -/
def clearPoison (w : Nat) : Nat → Table Nat Bool → Table Nat Bool
  | 0, t => t
  | n + 1, t => clearPoison (w + 1) n (Tab.set id (fun _ => false) w false t)

/-- Write bytes at device address `a`. A whole aligned 64-bit word that is written loses its poison; a narrower write
leaves it (R426). -/
def memWrite (s : State) (a : Nat) (bs : List Byte) : State :=
  let w0 := (a + 7) / 8
  { s with
    mem := Tab.setMany memDefault a bs s.mem
    poisoned := clearPoison w0 ((a + bs.length) / 8 - w0) s.poisoned }

/-- Zero `n` bytes from device address `a`, a multiple of 8, and their poison. -/
def memClear (s : State) (a n : Nat) : State :=
  let out (x : Nat) : Bool := decide (x < a) || decide (a + n ≤ x)
  { s with mem := s.mem.filter (fun e => out e.1), poisoned := s.poisoned.filter (fun e => out (e.1 * 8)) }

/-- Whether one of the aligned words that [a, a + n) touches is poisoned. -/
def poisonIn (s : State) (a n : Nat) : Bool :=
  s.poisoned.any (fun e => e.2 && decide (e.1 * 8 < a + n) && decide (a < e.1 * 8 + 8))

/-- Poison the aligned 64-bit word that holds device address `a` (R425). -/
def poisonWord (s : State) (a : Nat) : State :=
  { s with poisoned := Tab.set id (fun _ => false) (a / 8) true s.poisoned }

/-! ## The parts of the state that the spec numbers -/

def ctxDefault (_k : Nat) : Ctx := Ctx.reset
def scullDefault (_k : Nat) : Scull := Scull.reset
def instDefault (_k : Nat) : Inst := Inst.reset
def bankDefault (_k : Nat) : Bank := Bank.reset
def portDefault (_k : Nat) : Port := Port.reset
def linkDefault (_k : Nat) : Link := Link.reset
def lineDefault (_k : Nat) : StopLine := StopLine.reset
def chanDefault (_k : Nat) : SenseChan := SenseChan.reset
def rchanDefault (_k : Nat) : ChanState := ChanState.reset
def mirrorDefault (_k : Nat) : MirrorBuf := MirrorBuf.reset
def mboxDefault (_k : Nat) : MboxTimes := MboxTimes.zero
def zeroDefault (_k : Nat) : Nat := 0

/-- Key of context `c` (0 to 63) on unit `u` (scull 0 to 15; 16 is the stern core, with the one context 0). -/
def ctxKey (u c : Nat) : Nat := u * 64 + c % 64

def ctxAt (s : State) (k : Nat) : Ctx := Tab.get ctxDefault s.ctxs k
def putCtx (s : State) (k : Nat) (c : Ctx) : State := { s with ctxs := Tab.set id ctxDefault k c s.ctxs }
def scullAt (s : State) (k : Nat) : Scull := Tab.get scullDefault s.sculls k
def putScull (s : State) (k : Nat) (c : Scull) : State := { s with sculls := Tab.set id scullDefault k c s.sculls }
def instAt (s : State) (k : Nat) : Inst := Tab.get instDefault s.insts k
def putInst (s : State) (k : Nat) (c : Inst) : State := { s with insts := Tab.set id instDefault k c s.insts }
def bankAt (s : State) (k : Nat) : Bank := Tab.get bankDefault s.banks k
def putBank (s : State) (k : Nat) (c : Bank) : State := { s with banks := Tab.set id bankDefault k c s.banks }
def portAt (s : State) (k : Nat) : Port := Tab.get portDefault s.ports k
def putPort (s : State) (k : Nat) (c : Port) : State := { s with ports := Tab.set id portDefault k c s.ports }
def linkAt (s : State) (k : Nat) : Link := Tab.get linkDefault s.links k
def putLink (s : State) (k : Nat) (c : Link) : State := { s with links := Tab.set id linkDefault k c s.links }
def lineAt (s : State) (k : Nat) : StopLine := Tab.get lineDefault s.lines k
def putLine (s : State) (k : Nat) (c : StopLine) : State := { s with lines := Tab.set id lineDefault k c s.lines }
def chanAt (s : State) (k : Nat) : SenseChan := Tab.get chanDefault s.chans k
def putChan (s : State) (k : Nat) (c : SenseChan) : State := { s with chans := Tab.set id chanDefault k c s.chans }
def rchanAt (s : State) (k : Nat) : ChanState := Tab.get rchanDefault s.rchans k
def putRchan (s : State) (k : Nat) (c : ChanState) : State := { s with rchans := Tab.set id rchanDefault k c s.rchans }
def mirrorAt (s : State) (k : Nat) : MirrorBuf := Tab.get mirrorDefault s.mirrors k
def putMirror (s : State) (k : Nat) (c : MirrorBuf) : State :=
  { s with mirrors := Tab.set id mirrorDefault k c s.mirrors }
def mboxAt (s : State) (k : Nat) : MboxTimes := Tab.get mboxDefault s.mbox k
def putMbox (s : State) (k : Nat) (c : MboxTimes) : State := { s with mbox := Tab.set id mboxDefault k c s.mbox }

/-- Change one context, scull, instance or bank by a function. -/
def updCtx (s : State) (k : Nat) (f : Ctx → Ctx) : State := putCtx s k (f (ctxAt s k))
def updScull (s : State) (k : Nat) (f : Scull → Scull) : State := putScull s k (f (scullAt s k))
def updInst (s : State) (k : Nat) (f : Inst → Inst) : State := putInst s k (f (instAt s k))
def updBank (s : State) (k : Nat) (f : Bank → Bank) : State := putBank s k (f (bankAt s k))
def updPort (s : State) (k : Nat) (f : Port → Port) : State := putPort s k (f (portAt s k))
def updLink (s : State) (k : Nat) (f : Link → Link) : State := putLink s k (f (linkAt s k))
def updLine (s : State) (k : Nat) (f : StopLine → StopLine) : State := putLine s k (f (lineAt s k))
def updChan (s : State) (k : Nat) (f : SenseChan → SenseChan) : State := putChan s k (f (chanAt s k))
def updRchan (s : State) (k : Nat) (f : ChanState → ChanState) : State := putRchan s k (f (rchanAt s k))

/-- Do `f` for each element of a list, in order. -/
def forEach {α : Type} (l : List α) (f : α → State → State) (s : State) : State := l.foldl (fun t a => f a t) s

/-- The image in force; an empty one before an image is read. -/
def image (s : State) : Image := s.img.getD Image.empty

/-- The MODEL section of an instance of the image in force. -/
def modelOf (s : State) (i : Nat) : Option Model := (image s).models.find? (fun m => m.inst == i)

/-- The SCHED entry of an instance of the image in force. -/
def schedOf (s : State) (i : Nat) : Option Sched := (image s).sched.find? (fun m => m.inst == i)

/-- The instances of the image in force, in rising order. -/
def instances (s : State) : List Nat := (image s).models.map (·.inst)

/-- The bits of a 16-bit mask, as scull numbers in rising order. -/
def maskList (m : BitVec 16) : List Nat := (List.range 16).filter (fun i => m.getLsbD i)

/-- The scull mask in force of an instance: the placement, or what the image names before one is made. -/
def maskOf (s : State) (i : Nat) : BitVec 16 :=
  if (instAt s i).placed then (instAt s i).mask
  else match modelOf s i with
    | some m => m.mask
    | none => 0

/-- Whether logical scull `k` is not fenced (ID_SCULL_LIVE, R58). -/
def live (s : State) (k : Nat) : Bool := rdb s .idScullLive 0 k

/-- STK_PERIOD.PERIOD_NS and STK_FINISH.FINISH_NS in force. -/
def periodNs (s : State) : Nat := rdf s .stkPeriod 0 23 0
def finishNs (s : State) : Nat := rdf s .stkFinish 0 23 0

/-- ns since the catch edge. -/
def strokeNs (s : State) : Nat := s.now - s.catchAt

/-- A number of ns in strokes, rounded up. -/
def strokesOf (s : State) (ns : Nat) : Nat := ceilDiv ns (periodNs s)

/-- The current stroke number as a natural number. -/
def strokeNat (s : State) : Nat := s.strokeNo.toNat

/-- Start-up stage in PWR_BOOT.STAGE. -/
def stageOf (s : State) : Nat := rdf s .pwrBoot 0 3 0

/-- Cox is halted by a lockstep mismatch (R240). -/
def coxHalted (s : State) : Bool := rdb s .coxStat 0 3

/-! ## Reporting: MSI-X (R586, R587) -/

/-- An entry's vector-control word resets with its mask bit set (PRESUMED, assumption 8: the PCI Express rule). -/
def msixDefault (k : Nat) : Word := if k % 4 = 3 then 1 else 0

def msixMasked (s : State) (v : Nat) : Bool := bget (Tab.get msixDefault s.msixTable (4 * v + 3)) 0

/-- Send the message of vector `v` (R587): a masked vector sets its PBA bit; inside the spacing of 100 µs it waits. -/
def fireVector (s : State) (v : Nat) : State :=
  if msixMasked s v then { s with pba := s.pba ||| (1#32 <<< v) }
  else if s.now < Tab.get zeroDefault s.msgAt v then { s with msgWaiting := s.msgWaiting ||| (1#32 <<< v) }
  else
    { s with
      msgAt := Tab.set id zeroDefault v (s.now + 100000) s.msgAt
      sentCount := Tab.set id zeroDefault v (Tab.get zeroDefault s.sentCount v + 1) s.sentCount
      ringSince := if v < 8 then Tab.set id zeroDefault v s.now s.ringSince else s.ringSince }

/-! ## Reporting: telemetry rings (R581 to R587) -/

/-- Device address of the telemetry window (HST_TELWIN). -/
def telWin (s : State) : Nat := (rd s .hstTelwin 0).toNat + 2 ^ 32 * rdf s .hstTelwin 1 15 0

/-- Units in ring `r` and units not yet consumed. -/
def ringSize (s : State) (r : Nat) : Nat := 2 ^ rdf s .telSize r 4 0
def ringUsed (s : State) (r : Nat) : Nat := (rd s .telProd r - rd s .telCons r).toNat

/-- After a PROD update: fire the vector at the watermark (R587). -/
def ringUpdated (s : State) (r : Nat) : State :=
  let wm := rdf s .telWm r 20 0
  if wm ≠ 0 ∧ wm ≤ ringUsed s r then fireVector s r else s

/-- Write the 64-byte units of a record at ring unit `u`, wrapping at the ring's end. -/
def writeUnits (s : State) (base size u : Nat) : Nat → List Byte → State
  | 0, _ => s
  | n + 1, bs => writeUnits (memWrite s (base + (u % size) * 64) (slice bs 0 64)) base size (u + 1) n (bs.drop 64)

/-- A record of a device ring (R582, R583): TYPE, the payload after the 16-byte header, in LEN units. A record that
does not fit is dropped and counted; SEQ advances either way. -/
def ringRecord (s : State) (r typ : Nat) (payload : List Byte) : State :=
  let units := ceilDiv (16 + payload.length) 64
  let seq := Tab.get zeroDefault s.ringSeq r
  let s1 := { s with ringSeq := Tab.set id zeroDefault r ((seq + 1) % 2 ^ 32) s.ringSeq }
  if ringSize s r < ringUsed s r + units then bump s1 .telDrop r
  else
    let bytes := bytesOf 1 typ ++ bytesOf 1 0 ++ bytesOf 2 units ++ bytesOf 4 seq ++ bytesOf 8 s.strokeNo.toNat ++ payload
    let base := telWin s + (rd s .telBase r).toNat
    let s2 := writeUnits s1 base (ringSize s r) (rd s .telProd r).toNat units bytes
    let s3 := if ringUsed s r = 0 then { s2 with ringSince := Tab.set id zeroDefault r s.now s2.ringSince } else s2
    ringUpdated (wr s3 .telProd r (rd s .telProd r + BitVec.ofNat 32 units)) r

/-- Ring `r` is enabled. -/
def ringOn (s : State) (r : Nat) : Bool := rdb s .telCfg 0 r

/-! ## Reporting: FAULT_N, the UART and the codes (20_faults.md) -/

/-- Scopes of R585. -/
def scDevice : Nat := 0
def scScull : Nat := 1
def scBank : Nat := 2
def scLink : Nat := 3
def scPort : Nat := 4
def scContext : Nat := 5
def scInstance : Nat := 6
def scStack : Nat := 7
def scSense : Nat := 8
def scSlot : Nat := 9
def scChangeover : Nat := 10
def scRegatta : Nat := 11

/-- Codes of R596 that rules name. -/
def cWrongState : Nat := 0x10
def cNotPermitted : Nat := 0x11
def cBadArg : Nat := 0x12
def cUnknownService : Nat := 0x13
def cRetryAfter : Nat := 0x14
def cPtRange : Nat := 0x15
def cPtPinned : Nat := 0x16
def cFlashRange : Nat := 0x17
def cArcNoFallback : Nat := 0x18
def cAuthFail : Nat := 0x19
def cDebugLockout : Nat := 0x1A
def cCalRange : Nat := 0x1B
def cImgFmt : Nat := 0x20
def cImgDigest : Nat := 0x21
def cImgKey : Nat := 0x22
def cImgSig : Nat := 0x23
def cImgRollback : Nat := 0x24
def cImgTag : Nat := 0x25
def cImgCfg : Nat := 0x26
def cImgNone : Nat := 0x27
def cFlashSize : Nat := 0x28
def cFlashRead : Nat := 0x29
def cChgCox : Nat := 0x30
def cChgFixed : Nat := 0x31
def cChgSpace : Nat := 0x32
def cChgAdmit : Nat := 0x33
def cChgTimeout : Nat := 0x34
def cCoxLockstep : Nat := 0x40
def cFuseErr : Nat := 0x41
def cHbmTrain : Nat := 0x42
def cScullBist : Nat := 0x43
def cAdmitFail : Nat := 0x44
def cSenseCal : Nat := 0x45
def cAxlHandshake : Nat := 0x46
def cDebugActive : Nat := 0x47
def cRailDrop : Nat := 0x48
def cSternHalt : Nat := 0x49
def cStrokeSyncLost : Nat := 0x50
def cStkRefLost : Nat := 0x51
def cFabricStall : Nat := 0x52
def cIslandFloor : Nat := 0x53
def cAddrFault : Nat := 0x54
def cEngineHang : Nat := 0x60
def cArrayFault : Nat := 0x61
def cSfuFault : Nat := 0x62
def cFenceRequest : Nat := 0x63
def cHbmCeStorm : Nat := 0x70
def cHbmFail : Nat := 0x71
def cStrokeMiss : Nat := 0x80
def cReflexOverrun : Nat := 0x81
def cCarryLost : Nat := 0x82
def cSenseLink : Nat := 0x90
def cAxlLost : Nat := 0x91
def cStopLine : Nat := 0x92
def cLightLoss : Nat := 0xA0
def cRfxSuspect : Nat := 0xA1
def cRfxBankFail : Nat := 0xA2
def cOplDegraded : Nat := 0xA3
def cOplDown : Nat := 0xA4
def cRegattaSlip : Nat := 0xA5
def cMirrorLate : Nat := 0xA6
def cReplaceTray : Nat := 0xF0

/-- Codes with H in the FAULT_N column: the pin holds while the condition lasts (R596). -/
def holdsWhile : List Nat := [0x46, 0x48, 0x50, 0x53, 0x80, 0x90, 0x92]
/-- Codes with L: the pin holds until reset. -/
def holdsToReset : List Nat := [0x27, 0x40, 0x41, 0x42, 0x44, 0x47, 0x49, 0x51, 0x52, 0x71, 0xF0]

/-- Whether a raising holds FAULT_N: FABRIC_STALL and ISLAND_FLOOR only at device scope (R602). -/
def holds (code scope : Nat) : Bool :=
  (holdsWhile.contains code || holdsToReset.contains code)
    && (!(code == cFabricStall || code == cIslandFloor) || scope == scDevice)

/-- Drive FAULT_N; a change of the pin fires vector 10 (R586). -/
def drivePin (s : State) (b : Bool) : State :=
  if s.pinFaultN = b then s else fireVector { s with pinFaultN := b } 10

/-- FAULT_N is asserted during start-up until stage 3 passes (R187). -/
def startHold (s : State) : Bool := decide (stageOf s < 4)

/-- Before Run, FAULT_N releases as soon as nothing holds it (R598). -/
def settlePin (s : State) : State :=
  if s.run then s else drivePin s (startHold s || !s.holding.isEmpty)

/-- Put a line in the UART queue of 64; a full queue drops it and sets UART_LOST (R600). -/
def uartPut (s : State) (l : UartLine) : State :=
  if s.uart.length < 64 then { s with uart := s.uart ++ [l] } else flag s .fltSticky 0 4

/-- `n` digits of a number in base `b`, most significant first. -/
def digits (b : Nat) : Nat → Nat → List Char
  | 0, _ => []
  | n + 1, v => digits b n (v / b) ++ [("0123456789ABCDEF".toList).getD (v % b) '0']

/-- The characters of a UART line, with its CR LF (R188, R600); the form of a failure record is open (assumption 123). -/
def uartText (l : UartLine) : String :=
  let end_ := ['\r', '\n']
  match l with
  | .stage st code ms => String.ofList ("KQ S".toList ++ digits 10 2 st ++ [' '] ++ digits 16 4 code ++ [' '] ++ Nat.toDigits 10 ms ++ end_)
  | .fault code n => String.ofList ("KQ F ".toList ++ digits 16 4 code ++ [' '] ++ digits 16 8 n ++ end_)
  | .record slot word => Config.recordText slot word

/-- The ring 1 record of a raised code (R585). -/
def eventBytes (s : State) (code scope index : Nat) (detail : DWord) : List Byte :=
  bytesOf 2 code ++ bytesOf 1 (if s.pinFaultN then 1 else 0) ++ bytesOf 1 scope ++ bytesOf 1 index ++ bytesOf 3 0
    ++ bytesOf 8 detail.toNat ++ List.replicate 32 0

/-- Enter a code into the codes that hold the pin; the first such code since reset release stays in FLT_FIRST. -/
def holdCode (s : State) (code : Nat) : State :=
  if s.holding.contains code then s
  else
    let s1 := drivePin { s with holding := s.holding ++ [code] } true
    let s2 := if rdf s1 .fltFirst 0 15 0 = 0 then wrf s1 .fltFirst 0 15 0 code else s1
    if s2.run && !coxHalted s2 then uartPut s2 (.fault code (strokeNat s2 % 2 ^ 32)) else s2

/-- FLT_LAST: index, scope and code (R599). -/
def lastWord (code scope index : Nat) : Word := fput (fput (fput 0 15 0 code) 23 20 scope) 31 24 index

/-- Every raising of a code (R598, R599): FLT_LAST, FLT_EVT_CNT, FAULT_N, and a ring 1 record when it is enabled. -/
def raise (s : State) (code scope index : Nat) (detail : DWord) : State :=
  let s1 := wr s .fltLast 0 (lastWord code scope index)
  let s2 := bump s1 .fltEvtCnt 0
  let s3 := if holds code scope then holdCode s2 code else s2
  if ringOn s3 1 then ringRecord s3 1 2 (eventBytes s3 code scope index detail) else s3

/-- Raise a code whose DETAIL is the stroke number (R599). -/
def raiseNow (s : State) (code scope index : Nat) : State := raise s code scope index s.strokeNo

/-- The condition of an H code ends (R597): in Run the pin releases at the next finish edge, before Run at once. -/
def endCode (s : State) (code : Nat) : State := settlePin { s with holding := s.holding.filter (· != code) }

/-! ## Cox notices (R217) -/

/-- Fill the response area of mailbox `m` (R213). -/
def writeResponse (s : State) (m service status tag requester wait : Nat) (results : List Byte) : State :=
  let w (t : State) (i v : Nat) : State := wr t .mbRsp (m * 16 + i) (BitVec.ofNat 32 v)
  let s1 := w s 0 (service % 2 ^ 16 + status % 2 ^ 16 * 2 ^ 16)
  let s2 := w (w (w s1 1 tag) 2 (requester % 2 ^ 16 + wait % 2 ^ 16 * 2 ^ 16)) 3 0
  forEach (List.range 12) (fun i t => w t (4 + i) (field results (4 * i) 4)) s2

/-- STATE and OWNER of a mailbox (COX_MBm_STAT). -/
def mbState (s : State) (m : Nat) : Nat := rdf s .mbStat m 1 0
def mbOwner (s : State) (m : Nat) : Nat := rdf s .mbStat m 15 8
def setMb (s : State) (m state owner : Nat) : State := wrf (wrf s .mbStat m 1 0 state) .mbStat m 15 8 owner

/-- Place a notice in mailbox 15; the stern core owns it until it acknowledges. -/
def placeNotice (s : State) (n : Notice) : State :=
  let s1 := writeResponse s 15 n.service n.status 0 n.requester 0 n.results
  putMbox (setMb s1 15 3 0x40) 15 { mboxAt s1 15 with done := s.now }

/-- Post a notice: at once when mailbox 15 is free, else queued up to 64, the oldest dropped beyond (R217). A halted Cox
posts none, and before Run every mailbox stays FREE (R241). -/
def notice (s : State) (n : Notice) : State :=
  if coxHalted s || !s.run then s
  else if mbState s 15 = 0 then placeNotice s n
  else if s.notices.length < 64 then { s with notices := s.notices ++ [n] }
  else flag { s with notices := s.notices.drop 1 ++ [n] } .coxSticky 0 3

/-! ## Free values -/

/-- The next free 32-bit value (assumption 4). -/
def freshWord (s : State) : Word × State := (Config.word32 s.free, { s with free := s.free + 1 })

/-- One step that changes nothing: the event does not occur (assumption 9), or the access performs nothing. -/
def unchanged (s : State) : Host.Outcome State Fault Refusal := .next s

end Sys2Proof.Machine
end

