-- ==== Sys2Proof/Machine/Float.lean ====
section
/-! DEFINITION. Numbers (10_number_formats.md): exact binary values, the floating formats of R310 and R311, rounding,
and the FP32 operations that every engine and the sequencer share. -/

namespace Sys2Proof.Machine

/-- A decoded number: NaN and infinity with their sign, or ± m × 2^e exactly. -/
inductive Num where
  | nan (neg : Bool)
  | inf (neg : Bool)
  | fin (neg : Bool) (m : Nat) (e : Int)
  deriving DecidableEq, Repr

/-- A floating format of R310: mantissa bits, exponent bits, bias; E4 has no infinities. -/
structure FloatFmt where
  mb : Nat
  eb : Nat
  bias : Int
  hasInf : Bool
  deriving DecidableEq, Repr

def fmtF32 : FloatFmt := ⟨23, 8, 127, true⟩
def fmtF16 : FloatFmt := ⟨10, 5, 15, true⟩
def fmtB16 : FloatFmt := ⟨7, 8, 127, true⟩
def fmtE4 : FloatFmt := ⟨3, 4, 7, false⟩
def fmtE5 : FloatFmt := ⟨2, 5, 15, true⟩

/-- Bits of the largest finite magnitude of a format, and of its infinity or NaN. -/
def FloatFmt.infBits (f : FloatFmt) : Nat := (2 ^ f.eb - 1) * 2 ^ f.mb
def FloatFmt.maxBits (f : FloatFmt) : Nat := if f.hasInf then f.infBits - 1 else f.infBits + 2 ^ f.mb - 2
def FloatFmt.signBit (f : FloatFmt) : Nat := 2 ^ (f.mb + f.eb)
/-- The canonical NaN of a format (R315). -/
def FloatFmt.nanBits (f : FloatFmt) (neg : Bool) : Nat :=
  (if f.hasInf then f.infBits + 2 ^ (f.mb - 1) else f.infBits + 2 ^ f.mb - 1) + (if neg then f.signBit else 0)

/-- Decode the bits of a format (R310, R311). -/
def decFloat (f : FloatFmt) (b : Nat) : Num :=
  let neg := b / f.signBit % 2 == 1
  let ex := b / 2 ^ f.mb % 2 ^ f.eb
  let m := b % 2 ^ f.mb
  if f.hasInf ∧ ex = 2 ^ f.eb - 1 then (if m = 0 then .inf neg else .nan neg)
  else if ¬ f.hasInf ∧ b % f.signBit = f.signBit - 1 then .nan neg
  else if ex = 0 then .fin neg m (1 - f.bias - f.mb)
  else .fin neg (2 ^ f.mb + m) (ex - f.bias - f.mb)

/-- `m × 2^sh` as an integer, rounded to nearest even, or toward zero, when `sh` is negative. -/
def scaleRound (rtz : Bool) (m : Nat) (sh : Int) : Nat :=
  if 0 ≤ sh then m * 2 ^ sh.toNat
  else
    let d := 2 ^ (-sh).toNat
    let q := m / d
    let r := m % d
    if rtz || decide (2 * r < d) then q
    else if 2 * r > d then q + 1
    else if q % 2 = 0 then q else q + 1

/-- The magnitude bits of m × 2^e rounded to a format, without regard to its range; `m` is not zero. -/
def magBits (f : FloatFmt) (rtz : Bool) (m : Nat) (e : Int) : Nat :=
  let top : Int := Nat.log2 m + e
  let emin : Int := 1 - f.bias
  let ex := if top < emin then emin else top
  let mant := scaleRound rtz m (e - (ex - f.mb))
  (ex + f.bias - 1).toNat * 2 ^ f.mb + mant

/-- What rounding met: an infinity from a finite value, and a saturation. -/
structure CvtFlags where
  infOut : Bool
  sat : Bool
  nanInt : Bool
  deriving DecidableEq, Repr

def CvtFlags.none : CvtFlags := ⟨false, false, false⟩
def CvtFlags.or (a b : CvtFlags) : CvtFlags := ⟨a.infOut || b.infOut, a.sat || b.sat, a.nanInt || b.nanInt⟩

/-- Encode a number in a floating format (R325): on overflow E4 saturates, the others give infinity unless `satfin`. -/
def encFloat (f : FloatFmt) (rtz satfin : Bool) (x : Num) : Nat × CvtFlags :=
  let sg (neg : Bool) : Nat := if neg then f.signBit else 0
  match x with
  | .nan neg => (f.nanBits neg, .none)
  | .inf neg =>
    if f.hasInf && !satfin then (sg neg + f.infBits, .none) else (sg neg + f.maxBits, ⟨false, true, false⟩)
  | .fin neg m e =>
    if m = 0 then (sg neg, .none)
    else
      let b := magBits f rtz m e
      if b ≤ f.maxBits then (sg neg + b, .none)
      else if rtz then
        -- a finite value beyond the range stays finite toward zero, unless the format saturates
        if f.hasInf && !satfin then (sg neg + f.infBits, ⟨true, false, false⟩) else (sg neg + f.maxBits, ⟨false, true, false⟩)
      else if f.hasInf && !satfin then (sg neg + f.infBits, ⟨true, false, false⟩)
      else (sg neg + f.maxBits, ⟨false, true, false⟩)

/-! ## FP32 -/

def f32 (b : Nat) : Num := decFloat fmtF32 (b % 2 ^ 32)
/-- rn(): rounding to nearest FP32 with ties to even. -/
def rn (x : Num) : Nat := (encFloat fmtF32 false false x).1

def f32Nan : Nat := 0x7FC00000
def f32NanOf (neg : Bool) : Nat := fmtF32.nanBits neg
def isNan (b : Nat) : Bool := match f32 b with | .nan _ => true | _ => false
def isInf (b : Nat) : Bool := match f32 b with | .inf _ => true | _ => false
def isZero (b : Nat) : Bool := b % 2 ^ 31 == 0
def f32Neg (b : Nat) : Nat := (b + 2 ^ 31) % 2 ^ 32
def f32Abs (b : Nat) : Nat := b % 2 ^ 31
def f32Sign (b : Nat) : Bool := b / 2 ^ 31 % 2 == 1

/-- A signed exact value as a number; a zero takes the sign given. -/
def ofInt (zneg : Bool) (v : Int) (e : Int) : Num :=
  if v = 0 then .fin zneg 0 0 else .fin (decide (v < 0)) v.natAbs e

def signedM (neg : Bool) (m : Nat) : Int := if neg then -(m : Int) else m

/-- Exact sum; a zero sum of two zeros of one sign keeps it, any other zero sum is +0. -/
def addNum (x y : Num) : Num :=
  match x, y with
  | .nan n, _ => .nan n
  | _, .nan n => .nan n
  | .inf a, .inf b => if a = b then .inf a else .nan false
  | .inf a, _ => .inf a
  | _, .inf b => .inf b
  | .fin a m e, .fin b n f =>
    let g := if e < f then e else f
    ofInt (a && b) (signedM a m * 2 ^ (e - g).toNat + signedM b n * 2 ^ (f - g).toNat) g

def mulNum (x y : Num) : Num :=
  match x, y with
  | .nan n, _ => .nan n
  | _, .nan n => .nan n
  | .inf a, .inf b => .inf (a != b)
  | .inf a, .fin b n _ => if n = 0 then .nan false else .inf (a != b)
  | .fin a m _, .inf b => if m = 0 then .nan false else .inf (a != b)
  | .fin a m e, .fin b n f => .fin (a != b) (m * n) (e + f)

def negNum (x : Num) : Num :=
  match x with
  | .nan n => .nan n
  | .inf a => .inf (!a)
  | .fin a m e => .fin (!a) m e

/-- The first NaN of a list of operands, in operand order (R315). -/
def firstNan (l : List Num) : Option Bool :=
  l.findSome? (fun x => match x with | .nan n => some n | _ => none)

def fadd (a b : Nat) : Nat := rn (addNum (f32 a) (f32 b))
def fsub (a b : Nat) : Nat :=
  match firstNan [f32 a, f32 b] with
  | some n => f32NanOf n
  | none => rn (addNum (f32 a) (negNum (f32 b)))
def fmul (a b : Nat) : Nat := rn (mulNum (f32 a) (f32 b))

/-- a × b + c with one rounding. -/
def ffma (a b c : Nat) : Nat :=
  match firstNan [f32 a, f32 b, f32 c] with
  | some n => f32NanOf n
  | none => rn (addNum (mulNum (f32 a) (f32 b)) (f32 c))

/-- num ÷ den (positive) as a number precise enough for one rounding to any format: at least 70 bits and a sticky one. -/
def ratNum (neg : Bool) (num den : Nat) : Num :=
  if num = 0 then .fin neg 0 0
  else
    let k := 70 + Nat.log2 den
    let q := num * 2 ^ k / den
    let r := num * 2 ^ k % den
    .fin neg (2 * q + (if r = 0 then 0 else 1)) (-(k : Int) - 1)

/-- Correctly rounded division. -/
def fdiv (a b : Nat) : Nat :=
  match f32 a, f32 b with
  | .nan n, _ => f32NanOf n
  | _, .nan n => f32NanOf n
  | .inf _, .inf _ => f32Nan
  | .inf x, .fin y _ _ => rn (.inf (x != y))
  | .fin x _ _, .inf y => rn (.fin (x != y) 0 0)
  | .fin x m e, .fin y n f =>
    if n = 0 then (if m = 0 then f32Nan else rn (.inf (x != y)))
    else
      match ratNum (x != y) m n with
      | .fin s k g => rn (.fin s k (g + e - f))
      | z => rn z

/-- Order of two numbers, neither NaN: −0 below +0 when `zeros`. -/
def ltNum (zeros : Bool) (x y : Num) : Bool :=
  match x, y with
  | .inf a, .inf b => a && !b
  | .inf a, .fin _ _ _ => a
  | .fin _ _ _, .inf b => !b
  | .fin a m e, .fin b n f =>
    let g := if e < f then e else f
    let u := signedM a m * 2 ^ (e - g).toNat
    let v := signedM b n * 2 ^ (f - g).toNat
    decide (u < v) || (zeros && decide (u = v) && m == 0 && a && !b)
  | _, _ => false

def flt (a b : Nat) : Bool := ltNum false (f32 a) (f32 b)
def feq (a b : Nat) : Bool :=
  !isNan a && !isNan b && !flt a b && !flt b a

/-- Minimum and maximum of IEEE 754: a NaN operand gives NaN, and −0 ranks below +0 (assumption 20). -/
def fmin (a b : Nat) : Nat :=
  match firstNan [f32 a, f32 b] with
  | some n => f32NanOf n
  | none => if ltNum true (f32 b) (f32 a) then b % 2 ^ 32 else a % 2 ^ 32
def fmax (a b : Nat) : Nat :=
  match firstNan [f32 a, f32 b] with
  | some n => f32NanOf n
  | none => if ltNum true (f32 a) (f32 b) then b % 2 ^ 32 else a % 2 ^ 32

/-- An integer as FP32, nearest even. -/
def i2f (v : Int) : Nat := rn (ofInt false v 0)

/-- A finite value as an integer, rounded. -/
def roundInt (rtz : Bool) (neg : Bool) (m : Nat) (e : Int) : Int := signedM neg (scaleRound rtz m e)

/-- Conversion to an integer of `bits` bits (R325): saturates, NaN becomes 0. -/
def toIntSat (bits : Nat) (rtz : Bool) (x : Num) : Int × CvtFlags :=
  let lo : Int := -(2 ^ (bits - 1) : Nat)
  let hi : Int := (2 ^ (bits - 1) : Nat) - 1
  match x with
  | .nan _ => (0, ⟨false, false, true⟩)
  | .inf neg => (if neg then lo else hi, ⟨false, true, false⟩)
  | .fin neg m e =>
    let v := roundInt rtz neg m e
    (clampInt lo hi v, ⟨false, decide (clampInt lo hi v ≠ v), false⟩)

/-- floor of a finite number, and whether the number is that integer. -/
def floorNum (neg : Bool) (m : Nat) (e : Int) : Int × Bool :=
  if 0 ≤ e then (signedM neg (m * 2 ^ e.toNat), true)
  else
    let d : Int := 2 ^ (-e).toNat
    ((signedM neg m) / d, decide ((signedM neg m) % d = 0))

/-! ## Formats of R310 by code -/

def isFloatFmt (k : Nat) : Bool := decide (k ≤ 4)
def isIntFmt (k : Nat) : Bool := decide (5 ≤ k ∧ k ≤ 8)

def floatFmt (k : Nat) : FloatFmt :=
  match k with
  | 1 => fmtF16
  | 2 => fmtB16
  | 3 => fmtE4
  | 4 => fmtE5
  | _ => fmtF32

/-- Bits that one element takes in memory. -/
def fmtBits (k : Nat) : Nat :=
  match k with
  | 0 => 32
  | 1 => 16
  | 2 => 16
  | 3 => 8
  | 4 => 8
  | 5 => 4
  | 6 => 8
  | 7 => 16
  | 8 => 32
  | 9 => 32
  | _ => 8

/-- Width of an integer format. -/
def intBits (k : Nat) : Nat :=
  match k with
  | 5 => 4
  | 6 => 8
  | 7 => 16
  | _ => 32

/-- Bytes of `n` elements of a format, BX8 exponents apart. -/
def fmtBytes (k n : Nat) : Nat := (fmtBits k * n + 7) / 8

/-- Raw bits of element `i` in a byte string (R313). -/
def rawElem (k : Nat) (bs : List Byte) (i : Nat) : Nat :=
  if k = 5 then (bs.getD (i / 2) 0).toNat / 16 ^ (i % 2) % 16
  else field bs (i * (fmtBits k / 8)) (fmtBits k / 8)

/-- The value of an element (R310, R314): `q` is the binary point of Q24. -/
def elemNum (k q : Nat) (raw : Nat) : Num :=
  if isFloatFmt k then decFloat (floatFmt k) raw
  else if k = 9 then ofInt false (signed 24 raw) (-(q : Int))
  else ofInt false (signed (intBits k) raw) 0

/-- Encode a number as an element of a destination format other than BX8 (R325). -/
def encElem (k q : Nat) (rtz satfin : Bool) (x : Num) : Nat × CvtFlags :=
  if isFloatFmt k then encFloat (floatFmt k) rtz satfin x
  else if k = 9 then
    let y := match x with
      | .fin n m e => Num.fin n m (e + q)
      | z => z
    let (v, f) := toIntSat 24 rtz y
    (unsigned 32 v, f)
  else
    let (v, f) := toIntSat (intBits k) rtz x
    (unsigned (intBits k) v, f)

end Sys2Proof.Machine
end

