-- ==== Sys2Proof/Machine/Functions.lean ====
section
/-! DEFINITION. The special-function unit (11_functions_norms_softmax.md R341 to R346): the tables by the generating rule
of R344, their evaluation, argument reduction and reconstruction, special arguments, row statistics and soft max. -/

namespace Sys2Proof.Machine

/-! ## Values of the table functions, in fixed point with 200 fraction bits -/

def fxBits : Nat := 200
def fxOne : Int := 2 ^ fxBits
def fxMul (a b : Int) : Int := a * b / fxOne
def fxDiv (a b : Int) : Int := a * fxOne / b

/-- Sum of x^k / k! from term `t` = x^(i-1)/(i-1)! on, `n` terms. -/
def expTail (x : Int) : Nat → Int → Int → Int
  | 0, _, _ => 0
  | n + 1, i, t => let u := fxMul t x / i; u + expTail x n (i + 1) u

/-- e^x for 0 ≤ x ≤ 8. -/
def fxExp (x : Int) : Int := fxOne + expTail x 140 1 fxOne

/-- Sum of z^(2k+1)/(2k+1) from the power `t` on. -/
def atanhTail (z2 : Int) : Nat → Int → Int → Int
  | 0, _, _ => 0
  | n + 1, i, t => t / i + atanhTail z2 n (i + 2) (fxMul t z2)

/-- 2 atanh z for 0 ≤ z ≤ 1/3. -/
def fxAtanh2 (z : Int) : Int := 2 * atanhTail (fxMul z z) 80 1 z

/-- ln y for 1 ≤ y ≤ 2. -/
def fxLn (y : Int) : Int := fxAtanh2 (fxDiv (y - fxOne) (y + fxOne))
def fxLn2 : Int := fxAtanh2 (fxOne / 3)

/-- Alternating arctangent series of 1/n. -/
def atanTail (n2 : Int) : Nat → Int → Int → Int
  | 0, _, _ => 0
  | k + 1, i, t => t / i - atanTail n2 k (i + 2) (t / n2)

/-- π = 16 atan(1/5) − 4 atan(1/239). -/
def fxPi : Int := 16 * atanTail 25 100 1 (fxOne / 5) - 4 * atanTail 57121 40 1 (fxOne / 239)

/-- Sine series from the term `t`. -/
def sinTail (x2 : Int) : Nat → Int → Int → Int
  | 0, _, _ => 0
  | n + 1, i, t => t - sinTail x2 n (i + 2) (fxMul t x2 / ((i + 1) * (i + 2)))

def fxSin (x : Int) : Int := sinTail (fxMul x x) 40 1 x

/-- Integer square root by bisection on `n` bits. -/
def isqrtBits : Nat → Nat → Nat → Nat
  | 0, _, r => r
  | n + 1, v, r => let c := r + 2 ^ n; isqrtBits n v (if c * c ≤ v then c else r)

/-- The function that table `k` holds, at `num / 2^12` (R341, R344). -/
def tabFun (k : Nat) (num : Nat) : Int :=
  let x : Int := (num : Int) * 2 ^ (fxBits - 12)
  match k with
  | 0 => fxExp (fxMul x fxLn2)
  | 1 => fxDiv (fxLn x) fxLn2
  | 2 => fxDiv fxOne x
  | 3 => (isqrtBits 201 (2 ^ (2 * fxBits + 12) / num) 0 : Nat)
  | 4 => fxDiv fxOne (fxOne + fxExp x)
  | 5 => let e := fxExp (2 * x); fxDiv (e - fxOne) (e + fxOne)
  | 6 => let z := fxDiv fxOne (fxExp x); fxAtanh2 (fxDiv z (2 * fxOne + z))
  | _ => fxSin (fxMul (2 * fxPi) x)

/-- Start of table `k` and its segment width, in 2^-12. -/
def tabStart (k : Nat) : Nat := if k = 1 ∨ k = 2 ∨ k = 3 then 4096 else 0
def tabStep (k : Nat) : Nat :=
  match k with
  | 4 => 512
  | 5 => 256
  | 6 => 512
  | 7 => 16
  | _ => 64

/-- f correctly rounded to FP32. -/
def tabRn (k num : Nat) : Nat := rn (ofInt false (tabFun k num) (-(fxBits : Int)))

/-- The coefficients c0, c1 and c2 (widened to FP32) of segment `i` of table `k` (R344). -/
def tabCoef (k i : Nat) : Nat × Nat × Nat :=
  let a := tabStart k + i * tabStep k
  let f0 := f32 (tabRn k a)
  let fm := f32 (tabRn k (a + tabStep k / 2))
  let f1 := f32 (tabRn k (a + tabStep k))
  let two (x : Num) : Num := mulNum (.fin false 2 0) x
  let c2 := (encFloat fmtB16 false false (two (addNum (addNum f0 (negNum (two fm))) f1))).1
  let c2n := decFloat fmtB16 c2
  (rn f0, rn (addNum (addNum f1 (negNum f0)) (negNum c2n)), rn c2n)

/-- a × t + c with t exact, rounded once. -/
def fmaExact (a : Nat) (t : Num) (c : Nat) : Nat := rn (addNum (mulNum (f32 a) t) (f32 c))

/-- T_k at segment `i` and offset `t` (R346). -/
def tabSeg (k : Nat) (lin : Bool) (i : Nat) (t : Num) : Nat :=
  let (c0, c1, c2) := tabCoef k i
  if lin then fmaExact (fadd c1 c2) t c0 else fmaExact (fmaExact c2 t c1) t c0

/-- The record of a segment, and the 768 bytes of table k over which its check value is taken (R345). -/
def tabRecord (k i : Nat) : List Byte :=
  let (c0, c1, c2) := tabCoef k i
  bytesOf 4 c0 ++ bytesOf 4 c1 ++ bytesOf 2 (c2 / 65536) ++ [0, 0]
def tabBytes (k : Nat) : List Byte := ((List.range 64).map (tabRecord k)).flatten
def tabCrc (k : Nat) : Word := crc32 (tabBytes k)

/-- The segment of a value v = num / 2^p at or above the table's start, and its exact offset. -/
def tabIndex (k : Nat) (num p : Nat) : Nat × Num :=
  -- (v − A) ÷ h = (num·2^12 − A·2^p) ÷ (h·2^p), with A and h in 2^-12
  let d := num * 4096 - tabStart k * 2 ^ p
  let w := tabStep k * 2 ^ p
  let i := Nat.min 63 (d / w)
  (i, .fin false (d - i * w) (-(Nat.log2 w : Int)))

/-- T_k(y) for a reduced argument y = num / 2^p: the result and the segment used. -/
def tabEval (k : Nat) (lin : Bool) (num p : Nat) : Nat × Nat :=
  let (i, t) := tabIndex k num p
  (tabSeg k lin i t, i)

/-! ## The eleven functions (R342, R343) -/

/-- What a function gives: FP32 bits, the flags DOMAIN, OVF and UNF, whether a NaN was generated, and the table words
used (table, segment). -/
structure FnOut where
  bits : Nat
  domain : Bool
  ovf : Bool
  unf : Bool
  used : List (Nat × Nat)
  deriving DecidableEq, Repr

def fnPlain (b : Nat) : FnOut := ⟨b, false, false, false, []⟩
def fnDomain : FnOut := ⟨f32Nan, true, false, false, []⟩

/-- A finite magnitude as num / 2^p. -/
def asFrac (m : Nat) (e : Int) : Nat × Nat := if 0 ≤ e then (m * 2 ^ e.toNat, 0) else (m, (-e).toNat)

/-- x = m × 2^e normalised: num / 2^p in [1, 2) and the exponent. -/
def normalise (m : Nat) (e : Int) : Nat × Nat × Int := (m, Nat.log2 m, e + Nat.log2 m)

/-- FP32 bits times 2^n, rounded once. -/
def scale2 (b : Nat) (n : Int) : Num :=
  match f32 b with
  | .fin s m e => .fin s m (e + n)
  | x => x

def l2e : Nat := 0x3FB8AA3B

/-- EXP2 of a finite number. -/
def exp2Fin (lin : Bool) (s : Bool) (m : Nat) (e : Int) : FnOut :=
  let (n, _) := floorNum s m e
  if 128 ≤ n then ⟨0x7F800000, false, true, false, []⟩
  else if ltNum false (.fin s m e) (.fin true 150 0) then ⟨0, false, false, true, []⟩
  else
    let p := if 0 ≤ e then 0 else (-e).toNat
    let v : Int := signedM s (if 0 ≤ e then m * 2 ^ e.toNat else m)
    let r := (v - n * 2 ^ p).toNat
    let (b, i) := tabEval 0 lin r p
    let y := rn (scale2 b n)
    ⟨y, false, isInf y, isZero y, [(0, i)]⟩

def fnExp2 (lin : Bool) (x : Nat) : FnOut :=
  match f32 x with
  | .nan n => fnPlain (f32NanOf n)
  | .inf n => fnPlain (if n then 0 else 0x7F800000)
  | .fin s m e => if m = 0 then fnPlain 0x3F800000 else exp2Fin lin s m e

def fnLog2 (lin : Bool) (x : Nat) : FnOut :=
  match f32 x with
  | .nan n => fnPlain (f32NanOf n)
  | .inf n => if n then fnDomain else fnPlain 0x7F800000
  | .fin s m e =>
    if m = 0 then fnPlain 0xFF800000
    else if s then fnDomain
    else
      let (k, p, ex) := normalise m e
      let (b, i) := tabEval 1 lin k p
      ⟨rn (addNum (ofInt false ex 0) (f32 b)), false, false, false, [(1, i)]⟩

def fnRcp (lin : Bool) (x : Nat) : FnOut :=
  match f32 x with
  | .nan n => fnPlain (f32NanOf n)
  | .inf n => fnPlain (if n then 0x80000000 else 0)
  | .fin s m e =>
    if m = 0 then fnPlain (if s then 0xFF800000 else 0x7F800000)
    else
      let (k, p, ex) := normalise m e
      let (b, i) := tabEval 2 lin k p
      let y := rn (scale2 b (-ex))
      ⟨(if s then f32Neg y else y), false, isInf y, false, [(2, i)]⟩

def fnRsq (lin : Bool) (x : Nat) : FnOut :=
  match f32 x with
  | .nan n => fnPlain (f32NanOf n)
  | .inf n => if n then fnDomain else fnPlain 0
  | .fin s m e =>
    if m = 0 then fnPlain (if s then 0xFF800000 else 0x7F800000)
    else if s then fnDomain
    else
      let (k, p, ex) := normalise m e
      let (b, i) := tabEval 3 lin k p
      let y := fmul b (if ex % 2 = 0 then 0x3F800000 else 0x3F3504F3)
      ⟨rn (scale2 y (-(ex / 2))), false, false, false, [(3, i)]⟩

/-- E(rn(−a × L)), without its flags (R358). -/
def expNeg (lin : Bool) (a : Nat) : FnOut := fnExp2 lin (fmul (f32Neg a) l2e)

/-- Whether |x| lies below n. -/
def absLt (x : Nat) (n : Int) : Bool := ltNum false (f32 (f32Abs x)) (ofInt false n 0)

/-- T_k(|x|). -/
def tabAbs (k : Nat) (lin : Bool) (x : Nat) : FnOut :=
  match f32 (f32Abs x) with
  | .fin _ m e =>
    let (num, p) := asFrac m e
    let (b, i) := tabEval k lin num p
    ⟨b, false, false, false, [(k, i)]⟩
  | _ => fnPlain 0

def fnSig (lin : Bool) (x : Nat) : FnOut :=
  match f32 x with
  | .nan n => fnPlain (f32NanOf n)
  | .inf n => fnPlain (if n then 0 else 0x3F800000)
  | .fin s m _ =>
    let v := if absLt x 8 then tabAbs 4 lin x else expNeg lin (f32Abs x)
    let y := if s || m == 0 then v.bits else fsub 0x3F800000 v.bits
    ⟨y, false, false, isZero y, v.used⟩

def fnTanh (lin : Bool) (x : Nat) : FnOut :=
  match f32 x with
  | .nan n => fnPlain (f32NanOf n)
  | .inf n => fnPlain (if n then 0xBF800000 else 0x3F800000)
  | .fin s _ _ =>
    if flt (f32Abs x) 0x39800000 then fnPlain (x % 2 ^ 32)
    else
      let v := if absLt x 4 then tabAbs 5 lin x else
        let t := fnExp2 lin (fmul (fmul 0xC0000000 (f32Abs x)) l2e)
        { t with bits := fsub 0x3F800000 (fmul 0x40000000 t.bits) }
      ⟨(if s then f32Neg v.bits else v.bits), false, false, false, v.used⟩

def fnSoftplus (lin : Bool) (x : Nat) : FnOut :=
  match f32 x with
  | .nan n => fnPlain (f32NanOf n)
  | .inf n => fnPlain (if n then 0 else 0x7F800000)
  | .fin s _ _ =>
    let g := if absLt x 8 then tabAbs 6 lin x else expNeg lin (f32Abs x)
    let y := fadd (if s then 0 else x % 2 ^ 32) g.bits
    ⟨y, false, isInf y, isZero y, g.used⟩

def fnSilu (lin : Bool) (x : Nat) : FnOut :=
  match f32 x with
  | .nan n => fnPlain (f32NanOf n)
  | .inf n => fnPlain (if n then 0x80000000 else 0x7F800000)
  | .fin _ m _ =>
    let v := fnSig lin x
    let y := fmul x v.bits
    ⟨y, false, isInf y, isZero y && m != 0, v.used⟩

/-- K and C of R342: the FP32 values nearest √(2/π) and 0.044715. -/
def geluK : Nat := rn (ratNum false (isqrtBits 201 ((2 * fxOne * fxOne * fxOne / fxPi).toNat) 0) fxOne.toNat)
def geluC : Nat := rn (ratNum false 44715 1000000)

def fnGelu (lin : Bool) (x : Nat) : FnOut :=
  match f32 x with
  | .nan n => fnPlain (f32NanOf n)
  | .inf n => fnPlain (if n then 0x80000000 else 0x7F800000)
  | .fin s m _ =>
    if !absLt x 16 then { fnPlain (if s then 0x80000000 else x % 2 ^ 32) with unf := s }
    else
      let u := fmul geluK (fadd x (fmul geluC (fmul x (fmul x x))))
      let t := fnTanh lin u
      let y := fmul (fmul 0x3F000000 x) (fadd 0x3F800000 t.bits)
      ⟨y, false, false, isZero y && m != 0, t.used⟩

/-- x − round(x), ties to even, as a signed numerator over 2^p. -/
def turnRest (s : Bool) (m p : Nat) : Int :=
  let v := signedM s m
  v - roundEven v (2 ^ p) * 2 ^ p

def fnSin (lin : Bool) (x : Nat) : FnOut :=
  match f32 x with
  | .nan n => fnPlain (f32NanOf n)
  | .inf _ => fnDomain
  | .fin s m e =>
    let (num, p) := asFrac m e
    let t := turnRest s num p
    let a := t.natAbs
    if t = 0 then fnPlain (if s then 0x80000000 else 0)
    else
      let u := if 4 * a ≤ 2 ^ p then a * 2 else 2 ^ p - 2 * a
      let (b, i) := tabEval 7 lin u (p + 1)
      ⟨(if t < 0 then f32Neg b else b), false, false, false, [(7, i)]⟩

def fnCos (lin : Bool) (x : Nat) : FnOut :=
  match f32 x with
  | .nan n => fnPlain (f32NanOf n)
  | .inf _ => fnDomain
  | .fin s m e =>
    let (num, p) := asFrac m e
    if m = 0 || !absLt x (2 ^ 23) then fnPlain 0x3F800000
    else
      let a := (turnRest s num p).natAbs
      let low := decide (4 * a ≤ 2 ^ p)
      let u : Nat × Nat :=
        if low then
          match f32 (rn (ratNum false (2 ^ p - 4 * a) (4 * 2 ^ p))) with
          | .fin _ k g => asFrac k g
          | _ => (0, 0)
        else (4 * a - 2 ^ p, p + 2)
      let (b, i) := tabEval 7 lin u.1 u.2
      ⟨(if low then b else f32Neg b), false, false, false, [(7, i)]⟩

/-- The function of a code of R341. -/
def sfuFn (code : Nat) (lin : Bool) (x : Nat) : FnOut :=
  match code with
  | 0 => fnExp2 lin x
  | 1 => fnLog2 lin x
  | 2 => fnRcp lin x
  | 3 => fnRsq lin x
  | 4 => fnSig lin x
  | 5 => fnTanh lin x
  | 6 => fnSoftplus lin x
  | 7 => fnSilu lin x
  | 8 => fnGelu lin x
  | 9 => fnSin lin x
  | _ => fnCos lin x

/-! ## Row statistics (R349 to R352) -/

/-- A partial result of mode 0: count, mean, sum of squared deviations. -/
structure Welford where
  n : Nat
  mean : Nat
  m2 : Nat
  deriving DecidableEq, Repr

/-- Welford's update in FP32, rounded at each operation (assumption 21). -/
def welfordStep (w : Welford) (x : Nat) : Welford :=
  let n := w.n + 1
  let d := fsub x w.mean
  let mean := fadd w.mean (fdiv d (i2f n))
  ⟨n, mean, fadd w.m2 (fmul d (fsub x mean))⟩

/-- The combination of two partial results. -/
def welfordMerge (a b : Welford) : Welford :=
  if b.n = 0 then a
  else if a.n = 0 then b
  else
    let n := i2f ((a.n + b.n : Nat) : Int)
    let d := fsub b.mean a.mean
    let mean := fadd a.mean (fmul d (fdiv (i2f b.n) n))
    let c := fmul (fmul d d) (fdiv (fmul (i2f a.n) (i2f b.n)) n)
    ⟨a.n + b.n, mean, fadd (fadd a.m2 b.m2) c⟩

/-- Merge neighbours pairwise until one is left; `k` levels. -/
def mergeTree {α : Type} (f : α → α → α) (d : α) : Nat → List α → α
  | 0, l => l.headD d
  | k + 1, l => mergeTree f d k ((List.range (l.length / 2)).map (fun i => f (l.getD (2 * i) d) (l.getD (2 * i + 1) d)))

/-- The valid elements of lane `l`, in rising index. -/
def laneElems (xs : List (Option Nat)) (l : Nat) : List Nat :=
  ((List.range ((xs.length + 127) / 128)).filterMap (fun j => xs.getD (128 * j + l) none))

/-- The IEEE 754 sum of elements of which one is infinite and none is NaN. -/
def infSum (l : List Nat) : Nat :=
  let pos := l.any (fun b => isInf b && !f32Sign b)
  let neg := l.any (fun b => isInf b && f32Sign b)
  if pos && neg then f32Nan else if pos then 0x7F800000 else 0xFF800000

/-- Lanes 0 to 3 of vstat; `xs` holds `none` where the mask excludes an element. -/
def rowStats (mode1 : Bool) (eps : Nat) (xs : List (Option Nat)) : Nat × Nat × Nat × Nat × Bool × List (Nat × Nat) :=
  let valid := xs.filterMap id
  let n := valid.length
  let rsq (v : Nat) : FnOut := fnRsq false (fadd v eps)
  if n = 0 then
    let r := fnRsq false eps
    (0, 0, r.bits, 0, true, r.used)
  else match firstNan (valid.map f32) with
    | some g => (f32NanOf g, f32NanOf g, f32NanOf g, i2f n, false, [])
    | none =>
      let inf := valid.any isInf
      if mode1 then
        let lane (l : Nat) : Nat := (laneElems xs l).foldl (fun a x => ffma x x a) 0
        let sum := mergeTree fadd 0 7 ((List.range 128).map lane)
        if inf then (infSum valid, f32Nan, f32Nan, i2f n, false, [])
        else
          let ms := fdiv sum (i2f n)
          let r := rsq ms
          (0, ms, r.bits, i2f n, false, r.used)
      else
        let lane (l : Nat) : Welford := (laneElems xs l).foldl welfordStep ⟨0, 0, 0⟩
        let w := mergeTree welfordMerge ⟨0, 0, 0⟩ 7 ((List.range 128).map lane)
        if inf then (infSum valid, f32Nan, f32Nan, i2f n, false, [])
        else
          let var := fdiv w.m2 (i2f n)
          let r := rsq var
          (w.mean, var, r.bits, i2f n, false, r.used)

/-! ## Soft max (R353, R354) -/

/-- The largest element in the lane order; NaN dominates, +0 above −0. -/
def rowMax (xs : List Nat) : Nat :=
  let lane (l : Nat) : Option Nat := (laneElems (xs.map some) l).foldl (fun a x => match a with
    | none => some x
    | some y => some (fmax y x)) none
  let pick (a b : Option Nat) : Option Nat := match a, b with
    | some x, some y => some (fmax x y)
    | some x, none => some x
    | none, y => y
  let m := (mergeTree pick none 7 ((List.range 128).map lane)).getD 0
  if isNan m then f32NanOf (f32Sign m) else m

/-- One exponential of vexps. -/
def expElem (lin : Bool) (m x : Nat) : FnOut :=
  if m = 0xFF800000 then fnPlain 0 else fnExp2 lin (fmul (fsub x m) l2e)

/-- The sum of a row in the order of R350. -/
def rowSum (xs : List Nat) : Nat :=
  mergeTree fadd 0 7 ((List.range 128).map (fun l => (laneElems (xs.map some) l).foldl fadd 0))

/-- vcorr. -/
def corrFactor (lin : Bool) (mOld mNew : Nat) : FnOut :=
  if mOld % 2 ^ 32 = mNew % 2 ^ 32 ∧ !isNan mOld then fnPlain 0x3F800000
  else if feq mOld mNew then fnPlain 0x3F800000
  else fnExp2 lin (fmul (fsub mOld mNew) l2e)

end Sys2Proof.Machine
end

