-- ==== Sys2Proof/Machine/Access.lean ====
section
/-! DEFINITION. The address map, who may reach which register block, the ranges of register fields, and what a write
does by its access code (02_package_and_islands.md R60 to R64 and R645, 07_cox_and_crew.md R207 to R209,
00_scope.md R8, R9 and R646). -/

namespace Sys2Proof.Machine

/-! ## Where a device address leads -/

/-- A device address leads to HBM, to a scratchpad, to a register block, or nowhere. -/
inductive Place where
  | hbm
  | spad (s : Nat)
  | reg (b : Block) (off : Nat)
  | none
  deriving DecidableEq, Repr

def hbmEnd : Nat := 0x800000000
def spadBase : Nat := 0x1000000000
def spadPitch : Nat := 0x1000000
def spadLen : Nat := 0x800000
def regBase : Nat := 0x2000000000

/-- Device address of local offset `o` of scull `s`. -/
def spadAddr (s o : Nat) : Nat := spadBase + s * spadPitch + o

/-- HBM stack of a device address: bit 12 (R60). -/
def stackOf (a : Nat) : Nat := a / 4096 % 2

/-- Per-scull, per-eight or single blocks (R61, R62). -/
def perScull (b : Block) : Bool :=
  [Block.scl, .arr, .sch, .vec, .sfu, .scn, .seq, .dma].contains b
def perEight (b : Block) : Bool := b == .mmu || b == .mem

/-- Whether offset `o` of block `b` is mapped: the holes of R209 and R474, and the sub-blocks of a fenced scull. -/
def mapped (s : State) (b : Block) (o : Nat) : Bool :=
  if b == .cox || b == .svc then decide (o < 0x2000)
  else if perScull b then live s (o / 0x1000)
  else true

/-- The place of a device address (R60, R63). -/
def placeOf (s : State) (a : Nat) : Place :=
  if a < hbmEnd then .hbm
  else if spadBase ≤ a ∧ a < spadBase + 16 * spadPitch then
    let k := (a - spadBase) / spadPitch
    if (a - spadBase) % spadPitch < spadLen && live s k then .spad k else .none
  else if regBase ≤ a ∧ a < regBase + 26 * 0x10000 then
    match allBlocks[(a - regBase) / 0x10000]? with
    | some b => if mapped s b ((a - regBase) % 0x10000) then .reg b ((a - regBase) % 0x10000) else .none
    | none => .none
  else .none

/-! ## Who may reach a register (R207 to R209) -/

/-- The sculls of the instances of a context, by the masks in force. -/
def ctxMask (s : State) (c : Nat) : BitVec 16 :=
  ((image s).models.filter (fun m => m.ctx == c)).foldl (fun m x => m ||| maskOf s x.inst) 0

/-- The rows SNS to MEM of R208 that the stern core and the host may read. -/
def deviceBlock (b : Block) : Bool :=
  [Block.sns, .axl, .stp, .img, .pwr, .svc, .rfx, .thm, .opl, .chg, .mem].contains b

/-- Whether offset `o` of the COX block lies in mailbox area `m`. -/
def inArea (o m : Nat) : Bool := decide (0x1000 + m * 0x100 ≤ o ∧ o < 0x1100 + m * 0x100)

/-- Which mailbox areas a requester reaches (COX row of R208). -/
def areaAllowed (rq : Requester) (o : Nat) : Bool :=
  match rq with
  | .ctx _ => (List.range 12).any (inArea o)
  | .stern => (List.range 14).any (inArea o) || inArea o 15
  | .host | .jtag => inArea o 14
  | .cox => true

/-- R208 as the fabric checks it (R430). Host writes are narrowed further by R576. -/
def mayReach (s : State) (rq : Requester) (b : Block) (o : Nat) (write : Bool) : Bool :=
  match rq with
  | .cox => true
  | .jtag => b == .cox && areaAllowed .jtag o
  | .ctx c =>
    if b == .stk || b == .id || b == .flt then !write
    else if perScull b then (ctxMask s c.val).getLsbD (o / 0x1000)
    else b == .cox && areaAllowed (.ctx c) o
  | .stern =>
    if b == .stk || b == .id || b == .mmu then !write
    else if deviceBlock b then !write || (b == .sns && o == 0x384)
    else if b == .cox then areaAllowed .stern o || (!write && decide (o < 0x1000))
    else true
  | .host =>
    if b == .mmu then false
    else if b == .cox then areaAllowed .host o || (!write && decide (o < 0x1000))
    else !write || b == .hst || b == .tel

/-- The stamped requester ID (R206). -/
def reqId (rq : Requester) : Nat :=
  match rq with
  | .ctx c => c.val
  | .stern => 0x40
  | .host => 0x41
  | .jtag => 0x42
  | .cox => 0x43

/-! ## Refused accesses -/

/-- Scope 12 of R585: the requester, by its stamped ID. -/
def scRequester : Nat := 12

/-- The host's refused access: DENIED (R576). -/
def denied (s : State) : State := flag s .hstSticky 0 0

/-- An access refused by the rights or the map: ADDR_FAULT at the requester (R63, R207), or DENIED for the host. -/
def addrFault (s : State) (rq : Requester) : State :=
  if rq = .host then denied s else raiseNow s cAddrFault scRequester (reqId rq)

/-- Perform a write of a register that only some requesters may make. -/
def guarded (s : State) (rq : Requester) (b : Block) (o : Nat) (f : State → State) : State :=
  if rq != .host && mayReach s rq b o true then f s else addrFault s rq

/-! ## Ranges (R646) -/

/-- OSR of a modulator channel. -/
def modOsr (s : State) (n : Nat) : Nat := 2 ^ rdf s .snsModCfg n 3 0

/-- The two conditions of R79 on SNS_MCLK and the enabled modulator channels. -/
def mclkOk (s : State) : Bool :=
  let cyc := rdf s .snsMclk 0 19 0
  !rdb s .snsMclk 0 31 ||
    (decide (periodNs s ≤ cyc * 200) && decide (cyc * 40 ≤ periodNs s) &&
      (List.range 48).all (fun n => !rdb s .snsModCfg n 31 || cyc % modOsr s n == 0))

/-- Whether every field of `v` lies in the range the register's chapter states. DESIGN CHOICE (assumption 101): ALT 16 to
30 of RFX_BANKb_CFG are out of range, although the chapter names no CFG_REJ for them. -/
def rangeOk (s : State) (r : Reg) (i : Nat) (v : Word) : Bool :=
  let f := fget v
  match r with
  | .stkCfg => f 5 4 != 3
  | .stkPeriod => decide (15625 ≤ f 23 0 ∧ f 23 0 ≤ 10000000 ∧ finishNs s + 1250 ≤ f 23 0)
  | .stkFinish => decide (2500 ≤ f 23 0 ∧ f 23 0 + 1250 ≤ periodNs s)
  | .stkSyncWin => decide (20 ≤ f 12 0 ∧ f 12 0 ≤ 5000)
  | .snsMclk => mclkOk (wr s .snsMclk 0 v)
  | .snsModCfg =>
    (decide (f 28 24 ≤ 11) || f 28 24 == 31) && decide (f 21 16 ≤ 23) && f 9 8 != 3 &&
      decide (4 ≤ f 3 0 ∧ f 3 0 ≤ 9) && mclkOk (wr s .snsModCfg i v)
  | .snsVibCfg => f 2 2 == 0 || f 5 4 != 0
  | .snsAeRate => decide (1 ≤ f 14 0 ∧ f 14 0 * 500 ≤ periodNs s)
  | .snsVibRate => decide (1 ≤ f 14 0 ∧ f 14 0 * 1000000 ≤ periodNs s * 256)
  | .snsCalReq => decide (f 9 8 ≤ 1)
  | .axlTray => f 7 0 != 0
  | .axlCfg =>
    f 27 24 != 0 &&
      (f 31 31 == 0 || decide (22 ≤ f 21 12 ∧ f 21 12 ≤ 640 ∧ 22 ≤ f 9 0 ∧ f 9 0 ≤ 640))
  | .stpCfg => f 28 16 != 0
  | .rfxCfg => f 23 16 != 0 && f 7 0 != 0
  | .rfxBankCfg => decide (f 20 16 ≤ 15) && (decide (f 28 24 ≤ 15) || f 28 24 == 31)
  | .thmThrot => decide (f 15 8 < f 7 0 ∧ f 7 0 ≤ 110)
  | .thmFfTau => decide (1 ≤ f 15 0 ∧ f 15 0 ≤ 10000)
  | .oplCfg =>
    f 31 31 == 0 || (decide (2 ≤ (List.range 8).countP (fun j => bget v (16 + j))) && bget v (16 + f 2 0))
  | .oplTime => decide (20 ≤ f 12 0 ∧ f 12 0 ≤ 5000 ∧ f 12 0 * 4 ≤ periodNs s)
  | .telSize => decide (6 ≤ f 4 0 ∧ f 4 0 ≤ 20)
  | _ => true

/-- The CFG_REJ flag of a block; CFG_IGN in the TEL block (R646). -/
def rejFlag (b : Block) : Option (Reg × Nat) :=
  match b with
  | .stk => some (.stkSticky, 3)
  | .sns => some (.snsSticky, 0)
  | .axl => some (.axlSticky, 0)
  | .stp => some (.stpSticky, 0)
  | .svc => some (.svcSticky, 0)
  | .rfx => some (.rfxSticky, 0)
  | .thm => some (.thmSticky, 0)
  | .opl => some (.oplSticky, 0)
  | .tel => some (.telSticky, 1)
  | _ => none

/-- Refuse a write whole: set the block's CFG_REJ flag (R646). -/
def rejectWrite (s : State) (b : Block) : State :=
  match rejFlag b with
  | some (r, n) => flag s r 0 n
  | none => s

/-- The defined bits of a register. -/
def regMask (r : Reg) : Word := BitVec.ofNat 32 (regDesc r).mask

/-- A 1 in a reserved bit sets RSVD_WR (R9). -/
def reservedCheck (s : State) (r : Reg) (v : Word) : State :=
  if v &&& ~~~ regMask r = 0 then s else flag s .fltSticky 0 1

/-- Set a writable register: a value out of range is refused whole (R646). -/
def rangedWrite (s : State) (r : Reg) (i : Nat) (v : Word) : State :=
  if rangeOk s r i (v &&& regMask r) then wr s r i (v &&& regMask r) else rejectWrite s (regDesc r).blk

/-- What a write of `v` does by the register's access code. A WO register acts elsewhere (Machine/Bus.lean). -/
def codeWrite (s : State) (r : Reg) (i : Nat) (v : Word) : State :=
  match (regDesc r).acc with
  | .ro | .wo => s
  | .w1c => wr s r i (rd s r i &&& ~~~ v)
  | .rw => rangedWrite s r i v
  | .rwl => if s.run then flag s .fltSticky 0 0 else rangedWrite s r i v

/-- A write to a register without a row of its own. DESIGN CHOICE (assumption 102): RSVD_WR is set before the write takes
effect, so a W1C write to FLT_STICKY that sets a reserved bit and carries a 1 in RSVD_WR leaves RSVD_WR clear. -/
def plainWrite (s : State) (r : Reg) (i : Nat) (v : Word) : State := codeWrite (reservedCheck s r v) r i v

/-- A write to a reserved register performs nothing; any 1 sets RSVD_WR (R645). -/
def reservedWrite (s : State) (v : Word) : State := if v = 0 then s else flag s .fltSticky 0 1

/-- Width and alignment (R64). -/
def aligned32 (a bytes : Nat) : Bool := bytes == 4 && a % 4 == 0

/-! ## Register-load lists (R158, R190) -/

/-- The register that a register-load entry names, when its block's chapter lists it. -/
def loadTarget (e : RegLoad) : Option (Reg × Nat) :=
  match allBlocks[e.k]? with
  | some b => regFind e.off (regsOf b)
  | none => none

/-- Whether applying the entry sets a CFG_REJ flag. -/
def loadRejects (s : State) (e : RegLoad) : Bool :=
  match loadTarget e with
  | some (r, i) =>
    r == .snsCalReq || ((regDesc r).acc == .rwl && !rangeOk s r i (e.val &&& regMask r))
  | none => true

/-- Apply one register-load entry. A write of SNS_CAL_REQ before Run sets CFG_REJ (R102). -/
def applyLoad (s : State) (e : RegLoad) : State :=
  match loadTarget e with
  | some (r, i) => if r == .snsCalReq then flag (reservedCheck s r e.val) .snsSticky 0 0 else plainWrite s r i e.val
  | none => s

/-- Apply one entry of an image that comes into force in Run, whatever locks its register (assumption 36). -/
def forceLoad (s : State) (e : RegLoad) : State :=
  match loadTarget e with
  | some (r, i) => if (regDesc r).acc = .rwl then rangedWrite (reservedCheck s r e.val) r i e.val else s
  | none => s

/-- Apply a list in its order: the state after it, and whether some write set a CFG_REJ flag. -/
def applyList (s : State) : List RegLoad → State × Bool
  | [] => (s, false)
  | e :: es =>
    let (t, bad) := applyList (applyLoad s e) es
    (t, loadRejects s e || bad)

end Sys2Proof.Machine
end

