-- ==== Sys2Proof/Machine/Operands.lean ====
section
/-! DEFINITION. The operand forms of an instruction (13_instruction_set.md R392 to R394): the fields of the 56 bits below
the major opcode, the registers they name, and the control registers of a context (R398). -/

namespace Sys2Proof.Machine

/-! ## Fields (R392) -/

/-- Bits [hi:lo] of the bits below the major opcode. -/
def ib (w : BitVec 56) (hi lo : Nat) : Nat := w.toNat / 2 ^ lo % 2 ^ (hi + 1 - lo)

def iMinor (w : BitVec 56) : Nat := ib w 55 48
/-- REG and IMM: rd; BR: ra. -/
def iRd (w : BitVec 56) : Nat := ib w 47 42
/-- REG and IMM: ra; BR: rb. -/
def iRa (w : BitVec 56) : Nat := ib w 41 36
def iRb (w : BitVec 56) : Nat := ib w 35 30
def iRc (w : BitVec 56) : Nat := ib w 29 24
def iFn (w : BitVec 56) : Nat := ib w 23 0
/-- IMM: imm, as the field's bits and signed; BR: off. -/
def iImmBits (w : BitVec 56) : Nat := ib w 35 0
def iImm (w : BitVec 56) : Int := signed 36 (ib w 35 0)

/-- TILE fields. -/
def tMask (w : BitVec 56) : Nat := ib w 47 44
def tM (w : BitVec 56) : Nat := ib w 43 40 + 1
def tC0 (w : BitVec 56) : Nat := ib w 39 36
def tN (w : BitVec 56) : Nat := 32 * (ib w 35 33 + 1)
def tK (w : BitVec 56) : Nat := 8 * (ib w 32 26 + 1)
def tP (w : BitVec 56) : Nat := ib w 25 24 + 1
def tAcc (w : BitVec 56) : Bool := ib w 23 23 == 1
def tTile (w : BitVec 56) : Nat := ib w 22 20
def tAfmt (w : BitVec 56) : Nat := ib w 19 16
def tWfmt (w : BitVec 56) : Nat := ib w 15 12
def tGA (w : BitVec 56) : Nat := ib w 11 8
def tVme (w : BitVec 56) : Bool := ib w 7 7 == 1

/-- DRN fields. -/
def dA (w : BitVec 56) : Nat := ib w 47 46
def dN (w : BitVec 56) : Nat := ib w 45 43
def dRel (w : BitVec 56) : Bool := ib w 42 42 == 1
def dFmt (w : BitVec 56) : Nat := ib w 41 38
def dRtz (w : BitVec 56) : Bool := ib w 37 37 == 1
def dSat (w : BitVec 56) : Bool := ib w 36 36 == 1
def dSbv (w : BitVec 56) : Bool := ib w 35 35 == 1
def dClp (w : BitVec 56) : Bool := ib w 34 34 == 1
def dQ (w : BitVec 56) : Nat := ib w 33 29
def dGS (w : BitVec 56) : Nat := ib w 28 25
def dGSC (w : BitVec 56) : Nat := ib w 24 21
def dGBI (w : BitVec 56) : Nat := ib w 20 17
def dGLO (w : BitVec 56) : Nat := ib w 16 13

/-- WLD fields. -/
def wA (w : BitVec 56) : Nat := ib w 47 46
def wR0 (w : BitVec 56) : Nat := ib w 45 38
def wN (w : BitVec 56) : Nat := ib w 37 30 + 1
def wFmt (w : BitVec 56) : Nat := ib w 29 26
def wGS (w : BitVec 56) : Nat := ib w 25 22

/-- The whole 64-bit instruction word, for the trap record (R410). -/
def instrWord (major : Nat) (w : BitVec 56) : DWord := BitVec.ofNat 64 (major * 2 ^ 56 + w.toNat)

/-! ## Scalar registers (R393, R401) -/

def sDefault (_k : Nat) : Scalar := Scalar.zero
def eDefault (_k : Nat) : Elem := Elem.zero

/-- The window that s0 to s15 name (R401). -/
def curWin (c : Ctx) : Nat := if c.tw && c.hd == 0 then 7 else c.cwp

/-- A scalar register number is 0 to 31. -/
def scalarOk (n : Nat) : Bool := decide (n < 32)

/-- Scalar register `n`: g0 to g15, then s0 to s15 of the current frame. -/
def sGet (c : Ctx) (n : Nat) : Scalar :=
  if n < 16 then Tab.get sDefault c.g n else Tab.get sDefault c.win (curWin c * 16 + (n - 16))

def sSet (c : Ctx) (n : Nat) (v : Scalar) : Ctx :=
  if n < 16 then { c with g := Tab.set id sDefault n v c.g }
  else { c with win := Tab.set id sDefault (curWin c * 16 + (n - 16)) v c.win }

/-- The value of a scalar register as a number. -/
def sVal (c : Ctx) (n : Nat) : Nat := (sGet c n).val.toNat

/-! ## The scoreboard's numbers for registers (R247) -/

def rnS (c : Ctx) (n : Nat) : Nat := if n < 16 then n else 16 + curWin c * 16 + (n - 16)
def rnG (n : Nat) : Nat := n
def rnV (n : Nat) : Nat := 1000 + n
def rnT (a n : Nat) : Nat := 2000 + a * 8 + n
def rnC (n : Nat) : Nat := 3000 + n

/-! ## Engine register files (R251, R263) -/

/-- Lane `i` of v`n`, element `i` of c`n`, element of column `col` and row `row` of tile tA.n. -/
def vKey (n i : Nat) : Nat := n * 128 + i
def cKey (n i : Nat) : Nat := n * 1024 + i
def tKey (a n col row : Nat) : Nat := ((a * 8 + n) * 16 + col) * 256 + row

def vGet (c : Ctx) (n i : Nat) : Elem := Tab.get eDefault c.v (vKey n i)
def cGet (c : Ctx) (n i : Nat) : Elem := Tab.get eDefault c.c (cKey n i)
def tGet (c : Ctx) (a n col row : Nat) : Elem := Tab.get eDefault c.t (tKey a n col row)

/-- The 128 lanes of v`n`. -/
def vAll (c : Ctx) (n : Nat) : List Elem := (List.range 128).map (vGet c n)

/-- Write all lanes of v`n`; its group comes into use (R262). -/
def vPut (c : Ctx) (n : Nat) (l : List Elem) : Ctx :=
  { c with v := Tab.setMany eDefault (vKey n 0) l c.v, inuseV := c.inuseV ||| (1#8 <<< (n / 8)) }

/-- Write one lane. -/
def vPut1 (c : Ctx) (n i : Nat) (e : Elem) : Ctx :=
  { c with v := Tab.set id eDefault (vKey n i) e c.v, inuseV := c.inuseV ||| (1#8 <<< (n / 8)) }

/-- Write `l` into c`n` from element `i`; the register comes into use. -/
def cPut (c : Ctx) (n i : Nat) (l : List Elem) : Ctx :=
  { c with c := Tab.setMany eDefault (cKey n i) l c.c, inuseC := c.inuseC ||| (1#8 <<< n) }

def vLive (c : Ctx) (n : Nat) : Bool := c.inuseV.getLsbD (n / 8)
def cLive (c : Ctx) (n : Nat) : Bool := c.inuseC.getLsbD n
def tLive (c : Ctx) (a n : Nat) : Bool := c.inuseT.getLsbD (8 * a + n)

/-- Drop the entries of keys in [lo, hi). -/
def dropKeys {α : Type} (lo hi : Nat) (t : Table Nat α) : Table Nat α :=
  t.filter (fun e => !(decide (lo ≤ e.1) && decide (e.1 < hi)))

/-- Release a vector group, a tile or a carry register: dead resources read zero (R263). -/
def releaseV (c : Ctx) (g : Nat) : Ctx :=
  { c with v := dropKeys (g * 1024) ((g + 1) * 1024) c.v, inuseV := c.inuseV &&& ~~~ (1#8 <<< g) }
def releaseC (c : Ctx) (n : Nat) : Ctx :=
  { c with c := dropKeys (cKey n 0) (cKey (n + 1) 0) c.c, inuseC := c.inuseC &&& ~~~ (1#8 <<< n) }
def releaseT (c : Ctx) (k : Nat) : Ctx :=
  { c with t := dropKeys (k * 4096) ((k + 1) * 4096) c.t, inuseT := c.inuseT &&& ~~~ (1#32 <<< k) }

/-! ## Control registers (R398) -/

/-- SEQ_CTL. -/
def seqCtl (c : Ctx) : DWord :=
  BitVec.ofNat 64 ((if c.nte then 1 else 0) + (if c.tw then 2 else 0) + c.cwp % 8 * 4 + c.live % 8 * 32 + c.hd % 256 * 256)

/-- The control registers that R398 lists. -/
def crListed (n : Nat) : Bool := decide (n < 5) || decide (8 ≤ n ∧ n < 16)

/-- Control register `n`; zero for a number that is not listed. -/
def crGet (c : Ctx) (n : Nat) : DWord :=
  if n = 0 then seqCtl c
  else if n = 1 then c.tvec
  else if n = 2 then c.spillBase
  else if n = 3 then c.spillPtr
  else if n = 4 then c.spillLim
  else if n = 8 then c.trecH
  else if 9 ≤ n ∧ n < 16 then c.trecD.getD (n - 9) 0
  else 0

/-- What a cwr of `v` leaves, or `none` where the Write column does not allow it. -/
def crSet (c : Ctx) (n : Nat) (v : DWord) : Option Ctx :=
  if n = 0 then some { c with nte := v.getLsbD 0 }
  else if n = 1 then if v.toNat % 4096 = 0 then some { c with tvec := v } else none
  else if n = 2 then
    if c.spillBase = 0 ∧ v.toNat % 128 = 0 then some { c with spillBase := v, spillPtr := v } else none
  else if n = 4 then
    if c.spillLim = 0 ∧ v.toNat % 128 = 0 ∧ c.spillBase.toNat < v.toNat then some { c with spillLim := v } else none
  else if n = 8 then
    if c.tw then some { c with trecH := BitVec.ofNat 64 (c.trecH.toNat / 2 ^ 48 * 2 ^ 48 + v.toNat % 2 ^ 48) } else none
  else none

end Sys2Proof.Machine
end

