-- ==== Sys2Proof/Machine/Contexts.lean ====
section
/-! DEFINITION. Contexts on their units: which context may issue, the engine queues and scoreboards
(08_scull.md R243 to R249, R270), due traps (13_instruction_set.md R407 to R417), and reporting of memory errors. -/

namespace Sys2Proof.Machine

/-- The stern core's unit number. -/
def sternUnit : Nat := 16

/-- The eight of a unit; the stern core's accesses are counted in eight 0 (assumption 14). -/
def eightOf (u : Nat) : Nat := if u = 16 then 0 else u / 8

/-- The key of the context that runs on unit `u`. -/
def runKey (s : State) (u : Nat) : Option Nat :=
  if u = sternUnit then some (ctxKey 16 0) else (scullAt s u).running.map (ctxKey u)

/-- The stamped requester of a context key (R206). -/
def reqOfKey (k : Nat) : Requester := if k / 64 = 16 then .stern else .ctx (Fin.ofNat 64 (k % 64))

/-- Its requester ID. -/
def idOfKey (k : Nat) : Nat := if k / 64 = 16 then 0x40 else k % 64

/-! ## Engine queues (R243) -/

def queueOf (x : Scull) (e : Engine) : List QEntry :=
  match e with
  | .array => x.qArray
  | .schuss => x.qSchuss
  | .vector => x.qVector
  | .scan => x.qScan
  | .dma => x.qDma

def setQueue (x : Scull) (e : Engine) (q : List QEntry) : Scull :=
  match e with
  | .array => { x with qArray := q }
  | .schuss => { x with qSchuss := q }
  | .vector => { x with qVector := q }
  | .scan => { x with qScan := q }
  | .dma => { x with qDma := q }

def queueDepth (e : Engine) : Nat :=
  match e with
  | .array => 8
  | .schuss => 8
  | .vector => 16
  | .scan => 4
  | .dma => 8

def allEngines : List Engine := [.array, .schuss, .vector, .scan, .dma]

/-- A DMA channel of a unit. -/
def chAt (x : Scull) (n : Nat) : Channel := Tab.get (fun _ => Channel.idle) x.channels n
def setCh (x : Scull) (n : Nat) (c : Channel) : Scull :=
  { x with channels := Tab.set id (fun _ => Channel.idle) n c x.channels }

/-- An interrupted or running scan of a context holds its instruction. -/
def scanEntry (c : Ctx) : List QEntry :=
  match c.scan with
  | some k => [k.entry]
  | none => []

/-- Every instruction of context key `k` that is issued and not complete, the held set apart. -/
def inFlight (s : State) (k : Nat) : List QEntry :=
  let x := scullAt s (k / 64)
  (allEngines.map (queueOf x)).flatten.filter (fun q => q.ctx == k % 64)
    ++ ((List.range 4).filterMap (fun n => (chAt x n).entry)).filter (fun q => q.ctx == k % 64)
    ++ scanEntry (ctxAt s k)

/-! ## Scoreboards (R247 to R249, R270) -/

/-- Two byte ranges [a, b) overlap. -/
def rangesMeet (a b : Nat × Nat) : Bool := decide (a.1 < b.2) && decide (b.1 < a.2)

/-- A byte range widened outward to 64-byte granules. -/
def granules (a n : Nat) : Nat × Nat := (a / 64 * 64, (a + n + 63) / 64 * 64)

def optMeet (a : Option (Nat × Nat)) (b : Option (Nat × Nat)) : Bool :=
  match a, b with
  | some x, some y => rangesMeet x y
  | _, _ => false

/-- A register conflict with an earlier instruction (R247). -/
def regConflict (rs ws : List Nat) (q : QEntry) : Bool :=
  (rs ++ ws).any (fun r => q.ws.contains r) || ws.any (fun r => q.rs.contains r)

/-- A range conflict with an earlier instruction (R249). -/
def rangeConflict (rd wr : Option (Nat × Nat)) (q : QEntry) : Bool :=
  optMeet rd q.wr || optMeet wr q.wr || optMeet wr q.rd

/-- Range scoreboard entries held on a scull. -/
def rangesHeld (s : State) (u : Nat) : Nat :=
  let x := scullAt s u
  let qs := (allEngines.map (queueOf x)).flatten ++ (List.range 4).filterMap (fun n => (chAt x n).entry)
    ++ (match runKey s u with
        | some k => scanEntry (ctxAt s k)
        | none => [])
  (qs.map (fun q => (if q.rd.isSome then 1 else 0) + (if q.wr.isSome then 1 else 0))).sum

/-- Whether an instruction with these registers and ranges may issue beside what is in flight. -/
def mayIssue (s : State) (k : Nat) (rs ws : List Nat) (rd wr : Option (Nat × Nat)) : Bool :=
  let fl := inFlight s k
  let need := (if rd.isSome then 1 else 0) + (if wr.isSome then 1 else 0)
  !fl.any (fun q => regConflict rs ws q || rangeConflict rd wr q)
    && decide (rangesHeld s (k / 64) + need ≤ 32) && decide (rangesHeld s (k / 64) < 32)

/-! ## Due traps (R407, R412, R417) -/

/-- The trap that is due next: execution traps first, the oldest first; then channel traps, the lower NUM and the lower
channel first; the issue trap last. While TW = 1 only what the handler raised can be taken. -/
def trapRank (d : DueTrap) : Nat :=
  match d.kind with
  | .exec => d.seq
  | .channel => 2 ^ 64 + d.num * 8 + d.chan
  | .issue => 2 ^ 65

def leastTrap (l : List DueTrap) : Option DueTrap :=
  l.foldl (fun b d => match b with
    | none => some d
    | some x => if trapRank d < trapRank x then some d else some x) none

def nextTrap (c : Ctx) : Option DueTrap := leastTrap (if c.tw then c.due.filter (·.byHandler) else c.due)

/-- Make a trap due on context key `k`. -/
def addTrap (s : State) (k : Nat) (d : DueTrap) : State :=
  updCtx s k (fun c => { c with due := c.due ++
    [{ d with byHandler := c.tw && decide (c.entrySeq ≤ d.seq) && d.kind != .channel, at_ := s.now }] })

def tIllegal : Nat := 0x01
def tMisaligned : Nat := 0x02
def tSpadRange : Nat := 0x03
def tPageFault : Nat := 0x04
def tXlate : Nat := 0x05
def tPoison : Nat := 0x06
def tNan : Nat := 0x07
def tWeight : Nat := 0x08
def tOverflow : Nat := 0x09
def tUnderflow : Nat := 0x0A
def tExhausted : Nat := 0x0B
def tSpill : Nat := 0x0C
def tSwtrap : Nat := 0x0D
def tDouble : Nat := 0x0E

/-- The detail words of R440. -/
def memDetails (pc : DWord) (d1 src chan : Nat) (write fetch : Bool) (reason : Nat) (dev desc : Nat) : List DWord :=
  [pc, BitVec.ofNat 64 d1,
   BitVec.ofNat 64 (src % 16 + chan % 4 * 16 + (if write then 64 else 0) + (if fetch then 128 else 0) + reason % 8 * 256),
   BitVec.ofNat 64 dev, BitVec.ofNat 64 desc, 0, 0]

/-- Pad detail words to seven. -/
def padDetails (l : List DWord) : List DWord := l ++ List.replicate (7 - l.length) 0

/-- Context key `k` is not halted or waiting, and its scull is live and not leaving it. -/
def canRun (s : State) (u k : Nat) : Bool :=
  let c := ctxAt s k
  s.run && c.released && !c.waitDone && (c.halt == .none) && (u == sternUnit || (live s u && !(scullAt s u).preempting))

/-- The context that may take an instruction now on unit `u`: no trap is to be taken first. -/
def issuing (s : State) (u : Nat) : Option Nat :=
  match runKey s u with
  | none => none
  | some k => if canRun s u k && (nextTrap (ctxAt s k)).isNone then some k else none

/-- A window trap is being entered on unit `u` (R245). -/
def windowTrapDue (s : State) (u : Nat) : Bool :=
  match runKey s u with
  | none => false
  | some k =>
    canRun s u k && (match nextTrap (ctxAt s k) with
      | some d => d.num == tOverflow || d.num == tUnderflow
      | none => false)

/-- A stalled sequencer cycle (R245). -/
def stall (s : State) (u : Nat) : Host.Outcome State Fault Refusal :=
  .next (if u < 16 then bump s .sclIssueStall u else s)

/-- The engines of a scull start nothing new while a trap is to be taken or the context is to leave. -/
def stopping (s : State) (u : Nat) : Bool :=
  (scullAt s u).preempting ||
    (match runKey s u with
     | some k => (nextTrap (ctxAt s k)).isSome || (ctxAt s k).halt != .none
     | none => true)

/-- The context whose scan runs on unit `u`. -/
def scanKey (s : State) (u : Nat) : Option Nat :=
  (s.ctxs.find? (fun e => e.1 / 64 == u && (match e.2.scan with
    | some k => k.running
    | none => false))).map (·.1)

/-- The serving scull of a reflex bank: SHADOW, or ALT when SHADOW is fenced (R491); `none` when neither is live. -/
def servingOf (s : State) (b : Nat) : Option Nat :=
  let sh := rdf s .rfxBankCfg b 20 16
  let alt := rdf s .rfxBankCfg b 28 24
  if live s sh then some sh else if alt < 16 && live s alt then some alt else none

/-- A reflex job waits for the schuss path of scull `u` (R300, R305). -/
def jobWaits (s : State) (u : Nat) : Bool :=
  (List.range 4).any (fun b => !(bankAt s b).jobs.isEmpty && servingOf s b == some u)

/-- Engine `e` is free to start an instruction of context key `k`: the scan engine is not while a scan runs, or one of
that context is interrupted (R377, R414); a reflex job goes before a sch.mv that has not started (R305). -/
def engineFree (s : State) (u k : Nat) (e : Engine) : Bool :=
  e != .dma && (e != .scan || ((scanKey s u).isNone && (ctxAt s k).scan.isNone)) && (e != .schuss || !jobWaits s u)

/-- A tile instruction starts only when its activation block is complete (R291). -/
def awaitsBlock (q : QEntry) : Bool := q.major == 0x30

/-- A scan in stream mode runs on unit `u`. -/
def streamRuns (s : State) (u : Nat) : Bool :=
  match scanKey s u with
  | some k => (match (ctxAt s k).scan with
    | some x => x.w0.getLsbD 43
    | none => false)
  | none => false

/-- The running stream scan binds DMA channel 3 as its feeder, once that is idle (R370). -/
def bindFeeder (s : State) (u : Nat) : State :=
  match scanKey s u with
  | some k =>
    if streamRuns s u && (chAt (scullAt s u) 3).state == 0 then
      updScull s u (fun x => setCh x 3 { Channel.idle with state := 4, ctx := k % 64 })
    else s
  | none => s

/-- A started scn.run leaves the queue and runs. -/
def beginScan (s : State) (u : Nat) : State :=
  match (scullAt s u).qScan with
  | q :: qs =>
    if q.started && q.major == 0x70 && (scanKey s u).isNone then
      let a (i : Nat) : DWord := q.args.getD i 0
      let k : Scan := ⟨a 0, a 1, a 2, a 3, q, 0, true, 0, s.now⟩
      bindFeeder (updCtx (updScull s u (fun x => { x with qScan := qs })) (ctxKey u q.ctx) (fun c => { c with scan := some k })) u
    else s
  | [] => s

/-- Put an instruction into its engine's queue; it starts when it is first and nothing stops the engine. A dma.go is
started by its channel, a tile instruction by the fetch of its block. -/
def enqueue (s : State) (u : Nat) (q : QEntry) : State :=
  let free := engineFree s u (ctxKey u q.ctx) q.engine && !stopping s u && !awaitsBlock q
  let old := queueOf (scullAt s u) q.engine
  let s1 := updScull s u (fun x => setQueue x q.engine (old ++ [{ q with started := old.isEmpty && free }]))
  if q.engine = .scan ∧ old.isEmpty then beginScan s1 u else s1

/-- Issue again, in order, as many instructions of a list as R245 to R249 let through; the rest stays. -/
def reissueList (s : State) (u k : Nat) : List QEntry → State × List QEntry
  | [] => (s, [])
  | q :: qs =>
    if decide ((queueOf (scullAt s u) q.engine).length < queueDepth q.engine) && mayIssue s k q.rs q.ws q.rd q.wr then
      reissueList (enqueue s u q) u k qs
    else (s, q :: qs)

/-- The held set is issued again before anything else once TW is clear (R409). -/
def reissue (s : State) (u k : Nat) : State :=
  let c := ctxAt s k
  if c.tw || c.held.isEmpty || (nextTrap c).isSome then s
  else
    let (t, rest) := reissueList s u k c.held
    updCtx t k (fun x => { x with held := rest })

/-- Mark the first entry of a queue started. -/
def startHead : List QEntry → List QEntry
  | [] => []
  | q :: qs => { q with started := true } :: qs

/-- Start the next instruction of engine `e` unless the engine is to stop (R246). -/
def startNext (s : State) (u : Nat) (e : Engine) : State :=
  match queueOf (scullAt s u) e with
  | [] => s
  | q :: _ =>
    if stopping s u || !engineFree s u (ctxKey u q.ctx) e || awaitsBlock q then s
    else beginScan (updScull s u (fun x => setQueue x e (startHead (queueOf x e)))) u

/-- After an instruction has completed: the engine's next one, then what is held (R246, R409). -/
def afterEngine (s : State) (u : Nat) (e : Engine) : State :=
  let s2 := startNext s u e
  match runKey s2 u with
  | some k => reissue s2 u k
  | none => s2

/-- Take the completed head off a queue, and start the next instruction. -/
def popQueue (s : State) (u : Nat) (e : Engine) : State :=
  afterEngine (updScull s u (fun x => setQueue x e ((queueOf x e).drop 1))) u e

/-! ## Memory errors (R425, R456) -/

/-- A correctable error is counted; more than 1,000 on a stack within 1 s set CE_STORM and raise HBM_CE_STORM. -/
def countCe (s : State) (a : Nat) : State :=
  if a < hbmEnd then
    let e := stackOf a
    let s1 := if s.run then bump s .memCeCnt e else s
    let times := ((Tab.get (fun _ => ([] : List Nat)) s1.ceTimes e).filter (fun t => decide (s1.now < t + 1000000000))) ++ [s1.now]
    let s2 := { s1 with ceTimes := Tab.set id (fun _ => []) e (if 1000 < times.length then [] else times) s1.ceTimes }
    if 1000 < times.length then
      raise (flag s2 .memSticky e 2) cHbmCeStorm scStack e
        (BitVec.ofNat 64 ((rd s2 .memUeAddrLo e).toNat + 2 ^ 32 * (rd s2 .memUeAddrHi e).toNat))
    else s2
  else if s.run then bump s .memSpdCeCnt ((a - spadBase) / spadPitch / 8) else s

/-- An uncorrectable word: poisoned, its address recorded and counted. -/
def countUe (s : State) (a : Nat) : State :=
  let e := if a < hbmEnd then stackOf a else (a - spadBase) / spadPitch / 8
  let w := a / 8 * 8
  let s1 := wr (wr (poisonWord s a) .memUeAddrLo e (BitVec.ofNat 32 w)) .memUeAddrHi e (BitVec.ofNat 32 (w / 2 ^ 32))
  if a < hbmEnd then flag (if s.run then bump s1 .memUeCnt e else s1) .memSticky e 0
  else flag (if s.run then bump s1 .memSpdUeCnt e else s1) .memSticky e 1

/-- What the error-correcting code finds when the word at `a` is read. A word that is already poisoned stays so. -/
def eccRead (s : State) (a : Nat) (ecc : Ecc) : State :=
  match ecc with
  | .clean => s
  | .corrected => countCe s a
  | .uncorrectable => countUe s a

end Sys2Proof.Machine
end

