-- ==== Sys2Proof/Machine/Crypto.lean ====
section
/-! DEFINITION. The functions of external standards that the spec names by number (05_boathouse_image.md R153 to R155, R169;
07_cox_and_crew.md R226, R231): SHA-384, HMAC and HKDF, AES-256 with GCM and key wrap, and ECDSA and ECDH over P-384 (assumption 6: PRESUMED, the standards' text is outside the
spec). -/

namespace Sys2Proof.Machine

/-! ## Numbers -/

/-- `a ^ e mod m`, by the bits of `e` from the lowest, `n` of them. -/
def powMod (m : Nat) : Nat → Nat → Nat → Nat
  | 0, _, _ => 1 % m
  | n + 1, a, e =>
    let r := powMod m n (a * a % m) (e / 2)
    if e % 2 = 1 then a * r % m else r

/-- The greatest `r + d` with `d < 2 ^ n` whose `k`-th power is at most `x`. -/
def rootFrom (k x : Nat) : Nat → Nat → Nat
  | 0, r => r
  | n + 1, r => rootFrom k x n (if (r + 2 ^ n) ^ k ≤ x then r + 2 ^ n else r)

/-- A byte string as a number, most significant byte first. -/
def beNat (bs : List Byte) : Nat := bs.foldl (fun a b => a * 256 + b.toNat) 0

/-- The `n` low bytes of a number, most significant byte first. -/
def beBytes (n v : Nat) : List Byte := (bytesOf n v).reverse

/-- A list cut into pieces of `k`, `n` of them. -/
def pieces {α : Type} (k : Nat) : Nat → List α → List (List α)
  | 0, _ => []
  | n + 1, l => l.take k :: pieces k n (l.drop k)

/-! ## SHA-384 (FIPS 180-4) -/

def primesTo (n : Nat) : List Nat :=
  (List.range n).filter (fun p => decide (2 ≤ p) && (List.range p).all (fun d => decide (d < 2) || p % d != 0))

/-- The first 64 bits of the fractional part of the `k`-th root of `p`. -/
def rootBits (k p : Nat) : Nat := rootFrom k (p * 2 ^ (64 * k)) 69 0 % 2 ^ 64

/-- The 80 round constants, from the cube roots of the first 80 primes. -/
def shaK : List Nat := (primesTo 410).map (rootBits 3)

/-- The initial value, from the square roots of the ninth to sixteenth primes. -/
def shaInit : List Nat := ((primesTo 54).drop 8).map (rootBits 2)

def rotr64 (n x : Nat) : Nat := x / 2 ^ n + x % 2 ^ n * 2 ^ (64 - n)

/-- The message schedule, newest word first, extended by `n` words. -/
def shaExtend : Nat → List Nat → List Nat
  | 0, w => w
  | n + 1, w =>
    let s0 (x : Nat) := Nat.xor (Nat.xor (rotr64 1 x) (rotr64 8 x)) (x / 2 ^ 7)
    let s1 (x : Nat) := Nat.xor (Nat.xor (rotr64 19 x) (rotr64 61 x)) (x / 2 ^ 6)
    shaExtend n ((s1 (w.getD 1 0) + w.getD 6 0 + s0 (w.getD 14 0) + w.getD 15 0) % 2 ^ 64 :: w)

/-- One round on the eight working variables. -/
def shaRound (v : List Nat) (kw : Nat × Nat) : List Nat :=
  match v with
  | [a, b, c, d, e, f, g, h] =>
    let big1 := Nat.xor (Nat.xor (rotr64 14 e) (rotr64 18 e)) (rotr64 41 e)
    let ch := Nat.xor (Nat.land e f) (Nat.land (2 ^ 64 - 1 - e) g)
    let t1 := h + big1 + ch + kw.1 + kw.2
    let big0 := Nat.xor (Nat.xor (rotr64 28 a) (rotr64 34 a)) (rotr64 39 a)
    let maj := Nat.xor (Nat.xor (Nat.land a b) (Nat.land a c)) (Nat.land b c)
    [(t1 + big0 + maj) % 2 ^ 64, a, b, c, (d + t1) % 2 ^ 64, e, f, g]
  | _ => v

/-- One block of 128 bytes. -/
def shaBlock (h : List Nat) (block : List Byte) : List Nat :=
  let w := (shaExtend 64 ((pieces 8 16 block).map beNat).reverse).reverse
  (h.zip ((shaK.zip w).foldl shaRound h)).map (fun e => (e.1 + e.2) % 2 ^ 64)

def sha384 (m : List Byte) : List Byte :=
  let pad := (239 - m.length % 128) % 128
  let all := m ++ (0x80 : Byte) :: List.replicate pad 0 ++ beBytes 16 (8 * m.length)
  (((pieces 128 (all.length / 128) all).foldl shaBlock shaInit).take 6).flatMap (beBytes 8)

/-- HMAC-SHA-384 (FIPS 198-1). -/
def hmac (key m : List Byte) : List Byte :=
  let k := slice (if 128 < key.length then sha384 key else key) 0 128
  sha384 (k.map (· ^^^ 0x5C) ++ sha384 (k.map (· ^^^ 0x36) ++ m))

/-- HKDF-SHA-384 (RFC 5869) for at most 48 bytes of output. -/
def hkdf (salt ikm info : List Byte) (n : Nat) : List Byte := (hmac (hmac salt ikm) (info ++ [1])).take n

/-! ## P-384: ECDSA (FIPS 186-5) and ECDH (SP 800-56A) -/

def p384 : Nat := 2 ^ 384 - 2 ^ 128 - 2 ^ 96 + 2 ^ 32 - 1
def p384b : Nat :=
  0xb3312fa7e23ee7e4988e056be3f82d19181d9c6efe8141120314088f5013875ac656398d8a2ed19d2a85c8edd3ec2aef
def p384n : Nat :=
  0xffffffffffffffffffffffffffffffffffffffffffffffffc7634d81f4372ddf581a0db248b0a77aecec196accc52973

/-- A point of the curve; `none` is the point at infinity. -/
abbrev Point := Option (Nat × Nat)

def p384g : Point := some
  (0xaa87ca22be8b05378eb1c71ef320ad746e1d3b628ba79b9859f741e082542a385502f25dbf55296c3a545e3872760ab7,
   0x3617de4a96262c6f5d9e98bf9292dc29f8f41dbd289a147ce9da3113b5f0b8c00a60b1ce1d7e819d7a431d7c90ea0e5f)

def invP (a : Nat) : Nat := powMod p384 384 a (p384 - 2)

/-- The third point on the line of slope `l` through the points of abscissae `x1`, `x2`, reflected. -/
def chord (l x1 y1 x2 : Nat) : Point :=
  let x3 := (l * l + 2 * p384 - x1 - x2) % p384
  some (x3, (l * (x1 + p384 - x3) + p384 - y1) % p384)

def addPoint (a b : Point) : Point :=
  match a, b with
  | none, q => q
  | q, none => q
  | some (x1, y1), some (x2, y2) =>
    if x1 = x2 then
      if (y1 + y2) % p384 = 0 then none
      else chord ((3 * x1 * x1 + p384 - 3) * invP (2 * y1 % p384) % p384) x1 y1 x2
    else chord ((y2 + p384 - y1) * invP ((x2 + p384 - x1) % p384) % p384) x1 y1 x2

/-- `k` times a point, by the `n` low bits of `k`. -/
def mulPoint : Nat → Nat → Point → Point
  | 0, _, _ => none
  | n + 1, k, q =>
    let r := mulPoint n (k / 2) (addPoint q q)
    if k % 2 = 1 then addPoint q r else r

/-- A public key Qx ‖ Qy (R154), if it is a point of the curve. -/
def keyPoint (key : List Byte) : Point :=
  let x := beNat (slice key 0 48)
  let y := beNat (slice key 48 48)
  if x < p384 ∧ y < p384 ∧ y * y % p384 = (x * x * x + (p384 - 3) * x + p384b) % p384 then some (x, y) else none

/-- Verification of a signature r ‖ s by a key Qx ‖ Qy over SHA-384 of a message. -/
def ecdsaVerify (key msg sig : List Byte) : Bool :=
  let r := beNat (slice sig 0 48)
  let t := beNat (slice sig 48 48)
  match keyPoint key with
  | none => false
  | some q =>
    let w := powMod p384n 384 t (p384n - 2)
    let u := beNat (sha384 msg) * w % p384n
    decide (1 ≤ r ∧ r < p384n ∧ 1 ≤ t ∧ t < p384n)
      && (match addPoint (mulPoint 384 u p384g) (mulPoint 384 (r * w % p384n) (some q)) with
          | some (x, _) => x % p384n == r
          | none => false)

/-- The public key Qx ‖ Qy of a private key. -/
def publicKey (priv : List Byte) : List Byte :=
  match mulPoint 384 (beNat priv) p384g with
  | some (x, y) => beBytes 48 x ++ beBytes 48 y
  | none => List.replicate 96 0

/-- The ECDH shared secret: the abscissa of the product, or none where the other side's key is no point. -/
def ecdh (priv key : List Byte) : Option (List Byte) :=
  (mulPoint 384 (beNat priv) (keyPoint key)).map (fun q => beBytes 48 q.1)

/-! ## AES-256 (FIPS 197) -/

/-- Product in GF(2^8) by x^8 + x^4 + x^3 + x + 1, over the `n` low bits of `b`. -/
def gmul : Nat → Nat → Nat → Nat
  | 0, _, _ => 0
  | n + 1, a, b =>
    let r := gmul n (if a < 128 then 2 * a else Nat.xor (2 * a) 0x11B) (b / 2)
    if b % 2 = 1 then Nat.xor a r else r

/-- The S-box: the inverse, then the affine map. -/
def sboxOf (x : Nat) : Nat :=
  let y := ((List.range 256).find? (fun y => gmul 8 x y == 1)).getD 0
  let rot (n : Nat) : Nat := (y * 2 ^ n) % 256 + y / 2 ^ (8 - n)
  Nat.xor (Nat.xor (Nat.xor (Nat.xor (Nat.xor y (rot 1)) (rot 2)) (rot 3)) (rot 4)) 0x63

def sbox : List Nat := (List.range 256).map sboxOf
def sub (x : Nat) : Nat := sbox.getD x 0
def unsub (x : Nat) : Nat := (sbox.findIdx? (· == x)).getD 0

def xorList (a b : List Nat) : List Nat := List.zipWith Nat.xor a b

/-- The key schedule: words of four bytes, newest first; `n` more words, the next being word `i`. -/
def keyWords : Nat → Nat → List (List Nat) → List (List Nat)
  | 0, _, w => w
  | n + 1, i, w =>
    let prev := w.headD []
    let t :=
      if i % 8 = 0 then xorList ((prev.drop 1 ++ prev.take 1).map sub) [2 ^ (i / 8 - 1), 0, 0, 0]
      else if i % 8 = 4 then prev.map sub else prev
    keyWords n (i + 1) (xorList (w.getD 7 []) t :: w)

/-- The 15 round keys of a 32-byte key. -/
def roundKeys (key : List Byte) : List (List Nat) :=
  let ws := (keyWords 52 8 (pieces 4 8 ((slice key 0 32).map BitVec.toNat)).reverse).reverse
  (pieces 4 15 ws).map List.flatten

/-- Byte `i` of a permuted state: byte `f i`. -/
def permute (f : Nat → Nat) (st : List Nat) : List Nat := (List.range 16).map (fun i => st.getD (f i) 0)

/-- A matrix of circulant row `c` times each column. -/
def mixWith (c : List Nat) (st : List Nat) : List Nat :=
  (List.range 16).map (fun i =>
    ((List.range 4).map (fun j => gmul 8 (st.getD (i / 4 * 4 + j) 0) (c.getD ((j + 4 - i % 4) % 4) 0))).foldl Nat.xor 0)

/-- Encrypt one block. -/
def aesBlock (rks : List (List Nat)) (b : List Nat) : List Nat :=
  let round (last : Bool) (st k : List Nat) : List Nat :=
    let t := permute (fun i => (i + 4 * (i % 4)) % 16) (st.map sub)
    xorList (if last then t else mixWith [2, 3, 1, 1] t) k
  let mid := ((rks.drop 1).take 13).foldl (round false) (xorList b (rks.getD 0 []))
  round true mid (rks.getD 14 [])

/-- Decrypt one block. -/
def aesUnblock (rks : List (List Nat)) (b : List Nat) : List Nat :=
  let back (st : List Nat) : List Nat := (permute (fun i => (i + 12 * (i % 4)) % 16) st).map unsub
  let first := back (xorList b (rks.getD 14 []))
  let mid := (((rks.drop 1).take 13).reverse).foldl (fun st k => back (mixWith [14, 11, 13, 9] (xorList st k))) first
  xorList mid (rks.getD 0 [])

/-! ## GCM (SP 800-38D) and key wrap (SP 800-38F) -/

/-- Product in GF(2^128), blocks as numbers with the first bit highest, over the `n` bits of `x` below bit `n`. -/
def ghashMul : Nat → Nat → Nat → Nat
  | 0, _, _ => 0
  | n + 1, x, v =>
    let r := ghashMul n x (if v % 2 = 0 then v / 2 else Nat.xor (v / 2) (0xE1 * 2 ^ 120))
    if x.testBit n then Nat.xor v r else r

/-- Bytes padded with zeros to whole blocks of 16, as blocks. -/
def blocks16 (bs : List Byte) : List (List Byte) :=
  let n := ceilDiv bs.length 16
  pieces 16 n (slice bs 0 (16 * n))

def ghash (h : Nat) (bs : List (List Byte)) : Nat := bs.foldl (fun y b => ghashMul 128 (Nat.xor y (beNat b)) h) 0

/-- The cipher of a block of bytes, as a number. -/
def cipher (rks : List (List Nat)) (b : List Byte) : Nat :=
  (aesBlock rks (b.map BitVec.toNat)).foldl (fun a x => a * 256 + x) 0

/-- The counter block of a 12-byte initialisation vector. -/
def counterBlock (iv : List Byte) (n : Nat) : List Byte := slice iv 0 12 ++ beBytes 4 n

/-- Open a ciphertext whose last 16 bytes are its tag. -/
def gcmOpen (key iv aad ct : List Byte) : Option (List Byte) :=
  let n := ct.length - 16
  let body := ct.take n
  let rks := roundKeys key
  let h := cipher rks (List.replicate 16 0)
  let lens := beBytes 8 (8 * aad.length) ++ beBytes 8 (8 * n)
  let tag := Nat.xor (ghash h (blocks16 aad ++ blocks16 body ++ [lens])) (cipher rks (counterBlock iv 1))
  if 16 ≤ ct.length ∧ beNat (ct.drop n) = tag then
    some (((blocks16 body).zipIdx.flatMap (fun e =>
      beBytes 16 (Nat.xor (beNat e.1) (cipher rks (counterBlock iv (e.2 + 2)))))).take n)
  else none

/-- One step of unwrapping: step `t` on the register A and semiblock `i`. -/
def unwrapStep (rks : List (List Nat)) (n : Nat) (st : Nat × List (List Nat)) (t : Nat) : Nat × List (List Nat) :=
  let i := (t - 1) % n
  let a := (beBytes 8 (Nat.xor st.1 t)).map BitVec.toNat
  let b := aesUnblock rks (a ++ st.2.getD i [])
  ((b.take 8).foldl (fun x y => x * 256 + y) 0, st.2.set i (b.drop 8))

/-- AES key unwrap (KW): the key data, or none where the integrity check fails. -/
def keyUnwrap (kek wrapped : List Byte) : Option (List Byte) :=
  let n := wrapped.length / 8 - 1
  let r := pieces 8 n ((wrapped.drop 8).map BitVec.toNat)
  let out := ((List.range (6 * n)).map (· + 1)).reverse.foldl (unwrapStep (roundKeys kek) n) (beNat (wrapped.take 8), r)
  if out.1 = 0xA6A6A6A6A6A6A6A6 then some (out.2.flatten.map (BitVec.ofNat 8)) else none

/-- The provisioning wrapping key of R226; none where the ephemeral key is no point of the curve. -/
def provisioningKey (priv ephemeral serial : List Byte) : Option (List Byte) :=
  let info : List Byte := [0x4B, 0x51, 0x37, 0x32, 0x31, 0x36, 0x2D, 0x4B, 0x45, 0x4B]
  (ecdh priv ephemeral).map (fun z => hkdf serial z info 32)

end Sys2Proof.Machine
end

