-- ==== Sys2Proof/Machine/Links.lean ====
section
/-! DEFINITION. Axis links and stop lines (04_axis_links_and_stop_lines.md): frame checks, the link state machine, what
is latched and delivered at a catch, the upstream frame, and the stop-line logic. -/

namespace Sys2Proof.Machine

/-! ## Stop lines (R135 to R137) -/

def lineOn (s : State) (n : Nat) : Bool := rdb s .stpCfg n 31
def lineSet (s : State) (n : Nat) : Bool := rdb s .stpState 0 n
/-- This tray is active on link `n` (R131). -/
def activeOn (s : State) (n : Nat) : Bool := rdb s .axlStat n 2

/-- The level of the STOPn ball, true for high: high-impedance (none) before the STP list takes effect and with EN = 0, else
driven at the level that POL selects for its state (R137, R147). -/
def stopBall (s : State) (n : Nat) : Option Bool :=
  if s.driven && lineOn s n then some (lineSet s n != rdb s .stpCfg n 30) else none

/-- STOP_ANY follows the enabled lines (R137). -/
def settleAny (s : State) : State :=
  wrb s .stpState 0 12 ((List.range 12).any (fun n => lineOn s n && lineSet s n))

/-- The level of the STOP_ANY ball: released in reset (R642), pulled low until the first finish in Run, then
as STP_STATE.ANY (R147). -/
def stopAnyLow (s : State) : Bool := !s.inReset && (!s.firstFinish || rdb s .stpState 0 12)

/-- A source requests a stop on line `n` (R135). A tray that is not active holds the line deasserted (R131). Before Run
the HOLD count stays met (R147). -/
def setStop (s : State) (n : Nat) : State :=
  let s1 := updLine s n (fun l => { l with since := strokeNat s, asked := true, met := !s.run })
  if lineOn s n && activeOn s n then settleAny (flag s1 .stpState 0 n) else s1

/-- A stop output of a REFLEX instance acts on every line the AXIS section maps it to (R135, R643). -/
def setStopOutput (s : State) (i out : Nat) : State :=
  forEach ((image s).axis.filter (fun e => e.kind == 3 && e.inst == i && e.out == out)) (fun e t => setStop t e.link) s

/-- Raise all stop outputs of an instance. -/
def setAllStops (s : State) (i : Nat) : State :=
  match modelOf s i with
  | some m => forEach (List.range m.stopOuts) (fun o t => setStopOutput t i o) s
  | none => s

/-- The stop outputs that an instance raises now. -/
def setStops (s : State) (i : Nat) (outs : BitVec 12) : State :=
  forEach ((List.range 12).filter (fun o => outs.getLsbD o)) (fun o t => setStopOutput t i o) s

/-- Assert every enabled line whatever requests it (R45, R605). -/
def assertAllLines (s : State) : State :=
  settleAny (forEach ((List.range 12).filter (lineOn s)) (fun n t => flag t .stpState 0 n) s)

/-- Header byte 2 of a frame: FLAGS. -/
def frameFlag (f : List Byte) (n : Nat) : Bool := ((f.getD 2 0)).getLsbD n

/-- Whether the valid frame latched in this stroke carries STOP_CLR. -/
def stopClr (s : State) (n : Nat) : Bool :=
  match (linkAt s n).latched with
  | some f => frameFlag f 2
  | none => false

/-- R131, R136 and R142 for one line at a finish edge. -/
def releaseLine (s : State) (n : Nat) : State :=
  let l := lineAt s n
  let s1 := putLine s n { l with asked := false }
  if !activeOn s n then wrb s1 .stpState 0 n false
  else if !lineSet s n then s1
  else
    let held := l.met || decide (rdf s .stpCfg n 28 16 ≤ strokeNat s - l.since)
    if stopClr s n && !l.asked && held then wrb s1 .stpState 0 n false
    else if stopClr s n then flag s1 .stpSticky 0 3 else s1

/-- Before Run no line can be released: a STOP_CLR of the frame latched in the stroke is ignored (R142, R147). -/
def ignoreClears (s : State) : State :=
  if (List.range 12).any (fun n => activeOn s n && lineSet s n && stopClr s n) then flag s .stpSticky 0 3 else s

/-- A stop request counts for the stroke in which it is made (R136): the catch starts the next. -/
def catchLines (s : State) : State :=
  forEach (List.range 12) (fun n t => updLine t n (fun l => { l with asked := false })) s

/-- The release of the lines at a finish edge. -/
def releaseLines (s : State) : State := settleAny (forEach (List.range 12) (fun n t => releaseLine t n) s)

/-- Stop-line readback that contradicts the drive for 200 ns (R145). The run of clean strokes starts anew. -/
def execStopReadbackFault (n : Fin 12) (s : State) : Host.Outcome State Fault Refusal :=
  let s1 := updLine s n.val (fun l => { l with flt := true, readbackRun := 0 })
  .next (raiseNow (flag s1 .stpSticky 0 1) cStopLine scLink n.val)

/-! ## Frames (R117 to R119, R125) -/

def linkOn (s : State) (n : Nat) : Bool := rdb s .axlCfg n 31
def linkState (s : State) (n : Nat) : Nat := rdf s .axlStat n 1 0
def setLinkState (s : State) (n st : Nat) : State := wrf s .axlStat n 1 0 st
def trayId (s : State) : Nat := rdf s .axlTray 0 7 0

/-- Counters of links count since Run. -/
def countRun (s : State) (r : Reg) (i : Nat) : State := if s.run then bump s r i else s

/-- The CRC, LINK and LEN checks of a downstream frame; `f` holds the bytes between SOF and EOF, so L is two more. -/
def frameOk (n : Nat) (f : List Byte) : Bool :=
  decide (20 ≤ f.length) && decide (f.length + 2 ≤ 640)
    && natOf (f.drop (f.length - 4)) == (crc32 (f.take (f.length - 4))).toNat
    && field f 1 1 == n && field f 8 2 == f.length + 2

/-- What arrives now comes after t = -300 ns and meets the catch after the next (R21, R123, R141). -/
def afterWindow (s : State) : Bool := decide (periodNs s < strokeNs s + 300)

/-- An invalid frame: discarded and counted; the window remembers that one came (R124, R125). -/
def invalidFrame (s : State) (n : Nat) : State :=
  let s1 := updLink s n (fun l =>
    if afterWindow s then { l with nextInvalid := true, newest := .none }
    else { l with win := { l.win with invalid := true }, newest := .none })
  countRun s1 .axlCrcCnt n

/-- The stroke of the next catch: before Run every catch counts as stroke 0 (R648). -/
def targetStroke (s : State) : Nat := if s.run then strokeNat s + 1 else 0

/-- A valid frame enters the window of the catch of stroke `n`: the window after it, where the frame stands, and whether
AXL_SEQ_CNT counts it. DESIGN CHOICE (assumptions 109 and 110): a second frame tagged n - 1 is counted like a second one
tagged n; before Run a frame tagged 0xFFFFFFFF is one tagged n - 1. -/
def windowTake (w : Window) (n tag : Nat) (f : List Byte) : Window × FrameSpot × Bool :=
  if tag = n % 2 ^ 32 then
    if w.onTime.isNone then ({ w with onTime := some f }, .onTime, false) else (w, .none, true)
  else if tag = (n + 2 ^ 32 - 1) % 2 ^ 32 then
    if w.lateFrame.isNone then ({ w with lateFrame := some f }, .lateTag, false) else (w, .none, true)
  else (w, .none, true)

/-- A valid frame is judged by its TAG. -/
def takeFrame (k : Nat) (f : List Byte) (s : State) : State :=
  let l := linkAt s k
  let (w, spot, seqErr) := windowTake l.win (targetStroke s) (field f 4 4) f
  let s1 := putLink s k { l with win := w, newest := spot }
  if seqErr then countRun s1 .axlSeqCnt k else s1

/-- A downstream DATA frame received whole (R119, R123, R125). One that arrives after t = -300 ns is judged when its window
starts, at the catch: only then is the stroke of the catch after it known (R648). -/
def execDownstreamData (n : Fin 12) (frame : List Byte) (s : State) : Host.Outcome State Fault Refusal :=
  let k := n.val
  if !linkOn s k || linkState s k = 0 then unchanged s
  else if !frameOk k frame || field frame 0 1 != 1 || frame.length + 2 != rdf s .axlCfg k 9 0 then
    .next (invalidFrame s k)
  else if afterWindow s then
    .next (updLink s k (fun l => { l with nextFrames := l.nextFrames ++ [frame], newest := .nextWindow }))
  else .next (takeFrame k frame s)

/-- A code error or ABT inside a frame, or a frame that ends without EOF (R115, R125, R140). -/
def execCodeError (n : Fin 12) (s : State) : Host.Outcome State Fault Refusal :=
  if linkOn s n.val && linkState s n.val != 0 then .next (invalidFrame s n.val) else unchanged s

/-- The HELLO payload of this device (R122). -/
def ownHello (s : State) (n : Nat) : List Byte :=
  bytesOf 1 1 ++ bytesOf 1 (rdf s .axlTray 0 8 8) ++ bytesOf 2 (rdf s .axlCfg n 21 12) ++ bytesOf 2 (rdf s .axlCfg n 9 0)
    ++ bytesOf 4 (periodNs s) ++ bytesOf 2 0

/-- What a link loss does to the stop line (R135). -/
def lossStop (s : State) (n : Nat) : State := if rdb s .stpCfg n 29 then setStop s n else s

/-- Become active or standby by the ACTIVE_ID of a valid frame (R131, R133). A tray that becomes active while it claims
has taken over; one that becomes standby holds its stop line deasserted, once the first finish in Run has ended the
assertion of R147. -/
def roleByFrame (s : State) (n : Nat) (f : List Byte) : State :=
  let id := field f 3 1
  let s1 := wrf s .axlStat n 15 8 id
  if id = trayId s then
    let s2 := wrb s1 .axlStat n 2 true
    if s.claiming && !activeOn s n then flag s2 .axlSticky 0 3 else s2
  else if s.firstFinish then settleAny (wrb (wrb s1 .axlStat n 2 false) .stpState 0 n false)
  else wrb s1 .axlStat n 2 false

/-- A downstream HELLO (R127, R129 to R131): it names the active tray, and a mismatching one is counted in any state. -/
def execDownstreamHello (n : Fin 12) (frame : List Byte) (s : State) : Host.Outcome State Fault Refusal :=
  let k := n.val
  if !linkOn s k || linkState s k = 0 then unchanged s
  else if !frameOk k frame || field frame 0 1 != 2 || frame.length + 2 != 34 then .next (invalidFrame s k)
  else
    let fits := decide (slice frame 16 12 = ownHello s k)
    let s0 := roleByFrame s k frame
    let s1 := if fits then s0 else flag (countRun s0 .axlHelloCnt k) .axlSticky 0 2
    let s2 := updLink s1 k (fun l => { l with syncRun := 0, missRun := 0 })
    if linkState s k = 1 then .next (if fits then setLinkState s2 k 2 else s1)
    else
      let s3 := setLinkState s2 k 1
      .next (lossStop (if linkState s k = 3 then flag s3 .axlSticky 0 1 else s3) k)

/-- 64 consecutive valid code groups with comma alignment: TRAIN to HELLO (R127). -/
def execLinkAligned (n : Fin 12) (s : State) : Host.Outcome State Fault Refusal :=
  if linkOn s n.val && linkState s n.val == 0 then .next (setLinkState s n.val 1) else unchanged s

/-- Every enabled link is in RUN: AXL_HANDSHAKE ends (R597). -/
def allLinksRun (s : State) : Bool := (List.range 12).all (fun n => !linkOn s n || linkState s n == 3)

/-- Four consecutive strokes with a valid DATA frame: SYNC to RUN (R127, R201). -/
def execLinkToRun (n : Fin 12) (s : State) : Host.Outcome State Fault Refusal :=
  if linkOn s n.val && linkState s n.val == 2 && decide (4 ≤ (linkAt s n.val).syncRun) then
    let s1 := setLinkState (updLink s n.val (fun l => { l with missRun := 0 })) n.val 3
    .next (if allLinksRun s1 then endCode s1 cAxlHandshake else s1)
  else unchanged s

/-- LOST_N consecutive strokes without a valid frame: RUN to TRAIN (R128). -/
def execLinkLost (n : Fin 12) (s : State) : Host.Outcome State Fault Refusal :=
  let k := n.val
  if linkOn s k && linkState s k == 3 && decide (rdf s .axlCfg k 27 24 ≤ (linkAt s k).missRun) then
    let s1 := setLinkState (updLink s k (fun l => { l with syncRun := 0, missRun := 0 })) k 0
    .next (lossStop (raiseNow (flag s1 .axlSticky 0 1) cAxlLost scLink k) k)
  else unchanged s

/-! ## At a catch (R123, R124, R131, R133) -/

/-- Device addresses of an instance's input and output buffers. -/
def inAddr (s : State) (i : Nat) : Nat := (instAt s i).inBase
def outAddr (s : State) (i : Nat) : Nat := (instAt s i).outBase

/-- The block of a GUARD or TREND instance waits for the step that takes it (R458). -/
def takesBlocks (s : State) (i : Nat) : Bool :=
  match modelOf s i with
  | some m => m.cls == .guard || m.cls == .trend
  | none => false

/-- The latched block of a GUARD or TREND instance, IN_LEN bytes. -/
def blockOfInst (s : State) (i : Nat) : List Byte :=
  slice (instAt s i).block 0 (match modelOf s i with
    | some m => m.inLen
    | none => 0)

/-- What a catch delivers to offset `off` of an instance's input: into its input buffer, or into the block that a GUARD or TREND
step takes later. -/
def putInput (s : State) (i off : Nat) (bs : List Byte) : State :=
  if takesBlocks s i then updInst s i (fun x => { x with block := splice (blockOfInst s i) off bs })
  else memWrite s (inAddr s i + off) bs

/-- The frame status word of R124. -/
def statusWord (valid late missing crc : Bool) (tag : Nat) : Nat :=
  (if valid then 2 ^ 63 else 0) + (if late then 2 ^ 62 else 0) + (if missing then 2 ^ 61 else 0)
    + (if crc then 2 ^ 60 else 0) + tag % 2 ^ 32

/-- Deliver one map entry of a link whose latched frame is `f` (R124, R166). DESIGN CHOICE (assumption 111): CRC says that an
invalid frame came in the window, MISSING that no valid frame is latched, and both may be set; with a frame latched in
SYNC, VALID is clear while LATE and TAG stand. -/
def deliverEntry (valid late crc : Bool) (f : Option (List Byte)) (e : AxisMap) (s : State) : State :=
  let bytes := f.getD []
  if e.kind = 1 then
    let st := statusWord valid late (!f.isSome) crc (field bytes 4 4)
    putInput s e.inst e.bufOff (bytesOf 8 st ++ slice (if valid then bytes else []) 2 14 ++ [0, 0])
  else if e.kind = 2 then putInput s e.inst e.bufOff (slice (if valid then bytes.drop 16 else []) e.frameOff e.len)
  else s

/-- HB_RUN: consecutive frames with HB_MISS, at most 3 (R133). -/
def hbByFrame (s : State) (n : Nat) (f : List Byte) : State :=
  wrf s .axlStat n 17 16 (if frameFlag f 1 then Nat.min 3 (rdf s .axlStat n 17 16 + 1) else 0)

/-- Deliver the entries of a link from what is latched on it. -/
def deliverLink (s : State) (n : Nat) (valid late crc : Bool) (f : Option (List Byte)) : State :=
  forEach ((image s).axis.filter (fun e => e.link == n && (e.kind == 1 || e.kind == 2))) (deliverEntry valid late crc f) s

/-- Latch and deliver on one enabled link at a catch. The window of the next catch starts with what arrived after
t = -300 ns. -/
def catchLink (s : State) (n : Nat) : State :=
  if !linkOn s n then s
  else
    let l := linkAt s n
    let late := l.win.onTime.isNone && l.win.lateFrame.isSome
    let f := if l.win.onTime.isSome then l.win.onTime else l.win.lateFrame
    let discarded := l.win.onTime.isSome && l.win.lateFrame.isSome
    let good := f.isSome
    let s1 := putLink s n
      { l with
        latched := f, win := { Window.empty with invalid := l.nextInvalid }, nextFrames := [], nextInvalid := false
        newest := .none, before := ⟨rd s .axlStat n, lineSet s n, l.missRun⟩, sos := l.sos + 1
        syncRun := if linkState s n = 2 && good then l.syncRun + 1 else 0
        missRun := if linkState s n = 3 && !good then l.missRun + 1 else 0 }
    let s2 := if late || discarded then countRun s1 .axlLateCnt n else s1
    let s3 := match f with
      | some b => hbByFrame (roleByFrame s2 n b) n b
      | none => countRun s2 .axlMissCnt n
    forEach l.nextFrames (takeFrame n) (deliverLink s3 n (good && linkState s n == 3) late l.win.invalid f)

/-- A word of the frame latched at this catch fails its bridge parity (R72, R125): the frame is invalid, so what the catch did
on its word is undone, its stroke has no valid frame, and its fields are bubbles. A second bad word finds none latched. -/
def dropLatched (s : State) (n : Nat) : State :=
  let l := linkAt s n
  if l.latched.isNone then s
  else
    let stat := fput (rd s .axlStat n) 31 2 (fget l.before.stat 31 2)
    let s1 := putLink (wr s .axlStat n stat) n
      { l with latched := none, syncRun := 0, missRun := if linkState s n = 3 then l.before.missRun + 1 else 0 }
    let s2 := if l.before.line then settleAny (flag s1 .stpState 0 n) else s1
    deliverLink (countRun (countRun s2 .axlCrcCnt n) .axlMissCnt n) n false false true none

/-- A word of the frame received last fails its bridge parity: the frame leaves its window. -/
def dropNewest (s : State) (n : Nat) : State :=
  let drop (f : Link → Link) : State := invalidFrame (updLink s n f) n
  match (linkAt s n).newest with
  | .none => s
  | .onTime => drop (fun l => { l with win := { l.win with onTime := none } })
  | .lateTag => drop (fun l => { l with win := { l.win with lateFrame := none } })
  | .nextWindow => drop (fun l => { l with nextFrames := l.nextFrames.dropLast })

/-- All links at a catch. -/
def catchLinks (s : State) : State := forEach (List.range 12) (fun n t => catchLink t n) s

/-- The tray is active on some enabled link. -/
def trayActive (s : State) : Bool := (List.range 12).any (fun n => linkOn s n && activeOn s n)

/-- A link is dual-homed on a tray with DH_EN. -/
def dualHomed (s : State) (n : Nat) : Bool := linkOn s n && rdb s .axlCfg n 30 && rdb s .axlTray 0 9

/-- The triggers of R133 and R538: three consecutive HB_MISS frames on one dual-homed link, or three heartbeats missed by
the other end of a mirror of which this tray, being standby, is the receiving one, whichever way the mirror flows. -/
def claimTrigger (s : State) : Bool :=
  let self := rdf s .oplCfg 0 2 0
  let missed (m : Nat) : Bool := decide (3 ≤ Tab.get zeroDefault s.misses m)
  (List.range 12).any (fun n => dualHomed s n && rdf s .axlStat n 17 16 == 3)
    || (image s).chans.any (fun c => c.typ == 1 && ((c.dst == self && missed c.src) || (c.src == self && missed c.dst)))

/-- A standby tray sets CLAIM (R133). DESIGN CHOICE (assumption 112): a tray that is active on one of its links is not
standby. -/
def execClaim (s : State) : Host.Outcome State Fault Refusal :=
  if rdb s .axlTray 0 9 && !trayActive s && claimTrigger s then .next { s with claiming := true } else unchanged s

/-! ## At a finish (R120, R121, R126) -/

/-- The record of one KIND 0 entry: header, control word, data (R121). -/
def recordBytes (s : State) (e : AxisMap) : List Byte :=
  let x := instAt s e.inst
  bytesOf 8 x.header.toNat ++ bytesOf 4 ((if x.shownStop then 2 ^ 31 else 0) + e.len % 2 ^ 16) ++ slice x.shown e.bufOff e.len

/-- FLAGS of the upstream header. -/
def upFlags (s : State) (n : Nat) : Nat :=
  (if activeOn s n then 1 else 4) + (if s.claiming && dualHomed s n && !activeOn s n then 2 else 0) + (if rdb s .stkStatus 0 2 then 8 else 0)
    + (if lineSet s n then 16 else 0) + (if linkState s n = 3 then 0 else 32)

/-- A whole upstream frame between SOF and EOF. -/
def upFrame (s : State) (n typ len recs : Nat) (payload : List Byte) : List Byte :=
  let stroke := if s.run then strokeNat s % 2 ^ 32 else 2 ^ 32 - 1
  let body := bytesOf 1 typ ++ bytesOf 1 n ++ bytesOf 1 (upFlags s n) ++ bytesOf 1 (trayId s) ++ bytesOf 4 stroke
    ++ bytesOf 2 len ++ bytesOf 1 recs ++ bytesOf 5 0 ++ slice payload 0 (len - 22)
  body ++ bytesOf 4 (crc32 body).toNat

/-- Whether REPLACE_TRAY stops the DATA frames of link `n` (R604). -/
def dataStopped (s : State) (n : Nat) : Bool := s.holding.contains cReplaceTray && dualHomed s n && activeOn s n

/-- The frame that leaves on link `n` at a finish: none in TRAIN or on a disabled link (R127). -/
def finishFrame (s : State) (n : Nat) : List Byte :=
  let es := (image s).axis.filter (fun e => e.kind == 0 && e.link == n)
  if !linkOn s n then []
  else match linkState s n with
    | 0 => []
    | 1 => upFrame s n 0x12 34 0 (ownHello s n)
    | _ =>
      if dataStopped s n then []
      else if s.run then upFrame s n 0x11 (rdf s .axlCfg n 21 12) es.length ((es.map (recordBytes s)).flatten)
      else upFrame s n 0x11 (rdf s .axlCfg n 21 12) 0 []

/-- The upstream frames of a finish (R126). -/
def sendFrames (s : State) : State :=
  forEach (List.range 12) (fun n t => updLink t n (fun l => { l with sent := finishFrame s n })) s

/-- A line whose readback has agreed for 64 strokes releases STOP_LINE (R597). Called at each catch. -/
def catchReadback (s : State) : State :=
  let s1 := forEach (List.range 12) (fun n t => updLine t n (fun l =>
    if l.flt then (if 64 ≤ l.readbackRun then { l with flt := false, readbackRun := 0 }
      else { l with readbackRun := l.readbackRun + 1 }) else l)) s
  if s1.holding.contains cStopLine && (List.range 12).all (fun n => !(lineAt s1 n).flt) then endCode s1 cStopLine else s1

end Sys2Proof.Machine
end

