-- ==== Sys2Proof/Machine/Sense.lean ====
section
/-! DEFINITION. Sense channels (03_sense_inputs.md): the sample word, settling, overrange, open and short detection,
delivery of a stroke's block at a catch, and the calibrations of Run. -/

namespace Sys2Proof.Machine

/-! ## Channels -/

/-- Channels 0 to 47 are modulators, 48 to 55 AE, 56 to 63 VIB. -/
def isMod (c : Nat) : Bool := decide (c < 48)
def isAe (c : Nat) : Bool := decide (48 ≤ c ∧ c < 56)
def isVib (c : Nat) : Bool := decide (56 ≤ c ∧ c < 64)

def chanOn (s : State) (c : Nat) : Bool :=
  if isMod c then rdb s .snsModCfg c 31
  else if isAe c then rdb s .snsAeCfg (c - 48) 31
  else rdb s .snsVibCfg (c - 56) 31

/-- An enabled VIB channel in IEPE mode. -/
def iepeOn (s : State) (c : Nat) : Bool := isVib c && chanOn s c && rdb s .snsVibCfg (c - 56) 2

/-- Outputs per stroke of a channel (R75). -/
def outputsOf (s : State) (c : Nat) : Nat :=
  if isMod c then rdf s .snsMclk 0 19 0 / modOsr s c
  else if isAe c then rdf s .snsAeRate 0 14 0
  else rdf s .snsVibRate 0 14 0

/-- Nominal instant of output `k`, rounded down to a whole ns (R75). -/
def instantOf (s : State) (c k : Nat) : Nat := k * periodNs s / outputsOf s c

/-- Sinc order of a modulator channel (R80). -/
def sincOrder (s : State) (c : Nat) : Nat := rdf s .snsModCfg c 9 8 + 3

/-- Group delay of a channel in ns, to the nearest with ties upward; 0 when disabled (R81, R83, R86). -/
def groupDelay (s : State) (c : Nat) : Nat :=
  let half (num den : Nat) : Nat := if den = 0 then 0 else (2 * num + den) / (2 * den)
  if !chanOn s c then 0
  else if isMod c then half (sincOrder s c * (modOsr s c - 1) * periodNs s) (2 * rdf s .snsMclk 0 19 0)
  else if isAe c then 600
  else half (20 * periodNs s + 1200 * outputsOf s c) (outputsOf s c)

/-- The key of output `k` of channel `c` in the tables of words. -/
def wordKey (c k : Nat) : Nat := c * 65536 + k

def noWord (_k : Nat) : DWord := 0

/-- A sample word (R89, R90). -/
def mkWord (value : Nat) (valid settle ovr opn short late : Bool) (c ts : Nat) : DWord :=
  let b (x : Bool) (n : Nat) : Nat := if x then 2 ^ n else 0
  BitVec.ofNat 64 (value % 2 ^ 24 * 2 ^ 40 + b valid 39 + b settle 38 + b ovr 37 + b opn 36 + b short 35 + b late 34
    + c % 64 * 2 ^ 24 + ts % 2 ^ 24)

/-! ## The stroke of the sense die (R20, R111) -/

/-- Strokes that the sense die has run from its internal oscillator since STK_REFCLK was lost. -/
def innerStrokes (s : State) : Nat := if s.refLost then strokeNs s / periodNs s else 0

/-- Start of the stroke in progress on the sense die: the catch edge, or that of the internal stroke (R111). -/
def senseStart (s : State) : Nat := s.catchAt + innerStrokes s * periodNs s

/-! ## Conversion (R80 to R86, R95, R96, R108) -/

/-- The sums of every `n` consecutive elements, starting at each element that has `n - 1` after it. -/
def boxSums (n : Nat) (l : List Nat) : List Nat :=
  (List.range (l.length + 1 - n)).map (fun i => ((l.drop i).take n).sum)

/-- `p` cascaded box sums of length `n`: the sinc filter of order `p` (R80). -/
def sincSums (n : Nat) : Nat → List Nat → List Nat
  | 0, l => l
  | p + 1, l => sincSums n p (boxSums n l)

/-- Length of the filter window of a modulator channel, in MCLK cycles. -/
def filterLen (s : State) (c : Nat) : Nat := sincOrder s c * (modOsr s c - 1) + 1

/-- The window of a modulator output is full: the decimator has sampled that many bits since it restarted. -/
def filterFull (s : State) (c : Nat) (x : SenseChan) : Bool := decide (filterLen s c ≤ x.bits.length)

/-- x = 2d - 1 as a fraction: d is the density of ones in the window, weighted by the sinc kernel (R81). -/
def densityOf (s : State) (c : Nat) (x : SenseChan) : Int × Nat :=
  let osr := modOsr s c
  let p := sincOrder s c
  let ones := ((sincSums osr p ((x.bits.take (filterLen s c)).map (fun b => if b then 1 else 0))).headD 0)
  (2 * (ones : Int) - (osr ^ p : Nat), osr ^ p)

/-- The longest run of identical bits, given the level and length of the run that the list continues. -/
def longestRun : Bool → Nat → List Bool → Nat
  | _, n, [] => n
  | b, n, x :: xs => if x == b then longestRun b (n + 1) xs else Nat.max n (longestRun x 1 xs)

/-- The window contains a run of 32 identical bits (R96). -/
def stuckRun (s : State) (c : Nat) (x : SenseChan) : Bool := decide (32 ≤ longestRun true 0 (x.bits.take (filterLen s c)))

/-- The window contains a transition (R108). -/
def hasTransition (s : State) (c : Nat) (x : SenseChan) : Bool :=
  let w := x.bits.take (filterLen s c)
  w.contains true && w.contains false

/-- The run of one level after one more bit. -/
def levelAfter (r : Bool × Nat) (b : Bool) : Bool × Nat := if r.2 ≠ 0 ∧ r.1 = b then (b, r.2 + 1) else (b, 1)

/-- A modulator channel samples the bits of one output, oldest first (R80). -/
def sampleBits (s : State) (c : Nat) (bs : List Bool) (x : SenseChan) : SenseChan :=
  let r := bs.foldl levelAfter (x.level, x.levelRun)
  { x with bits := (bs.reverse ++ x.bits).take (filterLen s c), level := r.1, levelRun := r.2 }

/-- Full scale of an analog channel in 1/16 V (R82, R85). -/
def fullScale (s : State) (c : Nat) : Nat :=
  if isAe c then 40 / 2 ^ rdf s .snsAeCfg (c - 48) 1 0
  else (if rdb s .snsVibCfg (c - 56) 2 then 80 else 160) / 2 ^ rdf s .snsVibCfg (c - 56) 1 0

/-- The code of an analog channel of `n` bits for `num / den` volts, before it saturates. DESIGN CHOICE (assumption 104):
rounded to nearest, ties to even. -/
def adcCode (s : State) (c n : Nat) (num : Int) (den : Nat) : Int := roundEven (num * 16 * 2 ^ (n - 1)) (den * fullScale s c)

/-- The code before offset subtraction, the code after it, and whether it was clamped (R81, R84, R86, R95); `x` is the
channel with the bits of this output. A modulator window that reaches back beyond a restart has a free value
(assumption 105). -/
def codeOf (s : State) (c : Nat) (x : SenseChan) (smp : Sample) : Int × Int × Bool :=
  if isMod c then
    let raw := if filterFull s c x then roundEven ((densityOf s c x).1 * 2 ^ rdf s .snsModCfg c 21 16) (densityOf s c x).2
      else signed 24 (freshWord s).1.toNat
    let code := raw - signed 24 (rdf s .snsModOfs c 23 0)
    let cl := clampInt (-8388608) 8388607 code
    (raw, cl, decide (cl ≠ code))
  else
    let n := if isAe c then 16 else 24
    let raw := adcCode s c n smp.num smp.den
    let cl := clampInt (-(2 ^ (n - 1))) (2 ^ (n - 1) - 1) raw
    (raw, cl * 2 ^ (24 - n), decide (cl ≠ raw))

/-- An IEPE flag appears or goes: SNS_IEPE_STAT shows the live state, IEPE_FLT that it occurred (R88). DESIGN CHOICE
(assumption 106): each bias reading at which OPEN or SHORT stands counts as an occurrence, so a cleared IEPE_FLT sets again. -/
def showIepe (s : State) (c : Nat) : State :=
  let x := chanAt s c
  let s1 := wrb (wrb s .snsIepeStat 0 (c - 56) x.openNow) .snsIepeStat 0 (8 + (c - 56)) x.shortNow
  if x.openNow || x.shortNow then flag s1 .snsSticky 0 2 else s1

/-! ## Calibration results (R99 to R102) -/

/-- Write RESULT and CHAN; a non-zero code sets CAL_ABORT. -/
def calResult (s : State) (c code : Nat) : State :=
  let s1 := wr s .snsCalStat 0 (BitVec.ofNat 32 (c % 64 * 2 ^ 16 + code % 2 ^ 16))
  if code = 0 then s1 else flag s1 .snsSticky 0 3

/-- End the running calibration with a code. -/
def endCal (s : State) (c code : Nat) : State :=
  calResult { s with
    cal := none
    calEnd := s.cal.map (fun k => ⟨s.now, c, k.iepe, rd s .snsVibBias (c - 56)⟩) } c code

/-- An IEPE calibration of the channel aborts (R101). -/
def abortIepe (s : State) (c : Nat) : State :=
  match s.cal with
  | some k => if k.iepe && k.chan == c then endCal s c cWrongState else s
  | none => s

/-- The running current-offset window meets the output of an instant (R99): one that fails a condition aborts it. The
window starts with the first output whose instant follows the request. -/
def calOutput (s : State) (c : Nat) (instant : Nat) (raw : Int) (clean : Bool) : State :=
  match s.cal with
  | some k =>
    if k.iepe || k.chan != c || decide (1024 ≤ k.count) || decide (instant ≤ k.since) then s
    else if clean then { s with cal := some { k with count := k.count + 1, codes := raw :: k.codes, newest := instant } }
    else endCal s c cWrongState
  | none => s

/-! ## SAMPLE_OUTPUT -/

/-- The group of a modulator channel has an MCLK readback fault that a whole stroke of agreement has not ended (R109). -/
def mclkBad (s : State) (c : Nat) : Bool := decide (innerStrokes s < Tab.get zeroDefault s.mclkFlt (c / 12))

/-- A modulator channel is dead: 1,024 MCLK cycles sampled one level (R108). -/
def deadMod (c : Nat) (x : SenseChan) : Bool := isMod c && decide (1024 ≤ x.levelRun)

/-- The state of the flags of a channel after one output: settle, overrange and open, with their counts; `x` is the channel
with the bits of this output. -/
def sampleFlags (s : State) (c k : Nat) (x : SenseChan) (clamped : Bool) : SenseChan × Bool × Bool × Bool × Bool :=
  let cond := clamped || (isMod c && stuckRun s c x)
  let ovr := cond || decide (0 < x.ovrLeft)
  let x1 := { x with ovrPrev := cond, ovrLeft := if cond then 4 else x.ovrLeft - 1 }
  let dead := deadMod c x
  let x2 := if isMod c then
      { x1 with openLeft := if dead then 4 else if hasTransition s c x then x.openLeft - 1 else if 0 < x.openLeft then 4 else 0 }
    else x1
  let opn := (isMod c && mclkBad s c) || x.failed || x.openNow || dead || (isMod c && decide (0 < x.openLeft))
  let inTime := decide (senseStart s + instantOf s c k < x.settleUntil)
  let settle := inTime || decide (0 < x.settleAfter) || decide (0 < x.settleLeft) || x.disturbed
  let x3 := { x2 with
    settleLeft := x.settleLeft - 1, disturbed := false
    settleAfter := if inTime then x.settleAfter else x.settleAfter - 1 }
  (x3, ovr, opn, settle, cond && !x.ovrPrev)

/-- The numerical neighbours of an AE or VIB channel of its kind (R98). -/
def neighbours (c : Nat) : List Nat :=
  if isMod c then [] else ([c - 1, c + 1].filter (fun d => isAe c && isAe d || isVib c && isVib d))

/-- A word with SETTLE set and VALID clear. -/
def settleWord (w : DWord) : DWord := (w ||| (1#64 <<< 38)) &&& ~~~ (1#64 <<< 39)

/-- An overdriven channel disturbs the output of a neighbour at the same instant: one staged already, else its next
(R98; assumption 107). -/
def disturb (k : Nat) (d : Nat) (s : State) : State :=
  if !chanOn s d then s
  else
    let w := Tab.get noWord s.staged (wordKey d k)
    if w = 0 then updChan s d (fun x => { x with disturbed := true })
    else updChan { s with staged := Tab.set id noWord (wordKey d k) (settleWord w) s.staged } d
      (fun x => { x with word := settleWord x.word })

/-- An enabled channel produces output `k` (R75 to R98, R108). A modulator channel brings the bits of one output. -/
def execSampleOutput (chan : Fin 64) (k : Nat) (smp : Sample) (s : State) : Host.Outcome State Fault Refusal :=
  let c := chan.val
  if !chanOn s c || decide (outputsOf s c ≤ k) || (isMod c && smp.bits.length != modOsr s c) then unchanged s
  else
    let x0 := if isMod c then sampleBits s c smp.bits (chanAt s c) else chanAt s c
    let (raw, code, clamped) := codeOf s c x0 smp
    let (x, ovr, opn, settle, onset) := sampleFlags s c k x0 clamped
    let short := x.shortNow
    let valid := !(settle || opn || short)
    let ts := instantOf s c k
    let word := mkWord (unsigned 24 code) valid settle ovr opn short false c ts
    let slot := if smp.late then mkWord 0 false false false false false true c ts else word
    let s0 := if isMod c && !filterFull s c x0 then (freshWord s).2 else s
    let s1 := putChan s0 c { x with word := word }
    let s2 := if onset then flag s1 .snsOvr (c / 32) (c % 32) else s1
    let s3 := { s2 with
      staged := Tab.set id noWord (wordKey c k) slot s2.staged
      lateWords := if smp.late then Tab.set id zeroDefault c (Tab.get zeroDefault s2.lateWords c + 1) s2.lateWords
        else s2.lateWords }
    let turn := x.ovrPrev != x0.ovrPrev
    let s4 := if turn then forEach (neighbours c) (disturb k) s3 else s3
    .next (calOutput s4 c (senseStart s + ts) raw (valid && !ovr && !smp.late))

/-- A late word reaches staging: it enters no block and is counted once (R77). -/
def execLateWordArrival (chan : Fin 64) (s : State) : Host.Outcome State Fault Refusal :=
  let n := Tab.get zeroDefault s.lateWords chan.val
  if n = 0 then unchanged s
  else
    let s1 := { s with lateWords := Tab.set id zeroDefault chan.val (n - 1) s.lateWords }
    .next (flag (countRun s1 .snsLateCnt 0) .snsSticky 0 1)

/-! ## IEPE (R87, R101, R110) -/

/-- Counts of consecutive readings, and the flags they set or clear. VIEPE below its limit keeps OPEN (R110). -/
def biasStep (viepeOk : Bool) (now mv : Nat) (x : SenseChan) : SenseChan :=
  let good := decide (1000 ≤ mv ∧ mv ≤ 22000) && viepeOk
  let x1 := { x with
    highRun := if 22000 < mv then x.highRun + 1 else 0
    lowRun := if mv < 1000 then x.lowRun + 1 else 0
    goodRun := if good then x.goodRun + 1 else 0 }
  let x2 := { x1 with openNow := x1.openNow || decide (2 ≤ x1.highRun), shortNow := x1.shortNow || decide (2 ≤ x1.lowRun) }
  if (x2.openNow || x2.shortNow) && decide (10 ≤ x2.goodRun) then
    { x2 with openNow := false, shortNow := false, settleUntil := Nat.max x2.settleUntil (now + 20000), settleAfter := 3 }
  else x2

/-- The bias of a VIB channel is compared: in IEPE mode, and after a change to voltage mode until the clearing rule has ended
OPEN and SHORT (R87, R107). -/
def biasRead (s : State) (c : Nat) : Bool :=
  iepeOn s c || (chanOn s c && ((chanAt s c).openNow || (chanAt s c).shortNow))

/-- The bias reading of VIB `v`, every 100 µs (R87); OPEN or SHORT aborts an IEPE calibration of the channel (R101). -/
def execIepeBiasReading (v : Fin 8) (mv : Nat) (s : State) : Host.Outcome State Fault Refusal :=
  let c := 56 + v.val
  if !biasRead s c then unchanged s
  else
    let x0 := chanAt s c
    let x1 := biasStep (!s.viepeLow) s.now mv x0
    let x := if iepeOn s c then x1 else { x1 with openNow := x1.openNow && x0.openNow, shortNow := x1.shortNow && x0.shortNow }
    let s1 := showIepe (putChan s c x) c
    .next (if x.openNow || x.shortNow then abortIepe s1 c else s1)

/-- An IEPE channel carries OPEN, which aborts its calibration (R101, R110). -/
def openChan (s : State) (c : Nat) : State :=
  abortIepe (showIepe (updChan s c (fun x => { x with openNow := true, goodRun := 0 })) c) c

/-- A channel that is in IEPE mode while VIEPE is low (R110). -/
def openIfLow (s : State) (c : Nat) : State := if s.viepeLow && iepeOn s c then openChan s c else s

/-- Every IEPE channel carries OPEN (R110). -/
def openIepe (s : State) : State :=
  forEach ((List.range 8).filter (fun v => iepeOn s (56 + v))) (fun v t => openChan t (56 + v)) s

/-- VIEPE falls below 21 V (R110): recorded in the PWR block. -/
def execViepeLow (s : State) : Host.Outcome State Fault Refusal :=
  .next (openIepe { flag (wrb s .pwrRail 0 10 false) .pwrSticky 0 2 with viepeLow := true })

/-- VIEPE returns: the channels recover as R87 describes. -/
def execViepeReturn (s : State) : Host.Outcome State Fault Refusal :=
  .next { wrb s .pwrRail 0 10 true with viepeLow := false }

/-- MCLKg reads back against its drive (R109): its twelve channels carry OPEN until a whole stroke agrees, one of the
catches or, without STK_REFCLK, of the internal strokes. -/
def execMclkReadbackFault (g : Fin 4) (s : State) : Host.Outcome State Fault Refusal :=
  .next { flag s .snsSticky 0 5 with mclkFlt := Tab.set id zeroDefault g.val (innerStrokes s + 2) s.mclkFlt }

/-! ## Calibration requests (R99, R101, R102, R106) -/

/-- The stern core writes SNS_CAL_REQ (R102). Before Run the write is refused; while BUSY it is ignored (R106);
a channel that cannot be calibrated is refused at once; otherwise the calibration starts. DESIGN CHOICE (assumption 108):
RESULT keeps its value beside BUSY and the new CHAN. -/
def calRequest (s : State) (iepe : Bool) (c : Nat) : State :=
  if !s.run then flag s .snsSticky 0 0
  else if s.cal.isSome then flag s .snsSticky 0 4
  else
    let refused :=
      if iepe then !iepeOn s c || (chanAt s c).openNow || (chanAt s c).shortNow
      else !isMod c || !chanOn s c || rdf s .snsModCfg c 28 24 == 31 || rd s .snsCalNoiseMax 0 == 0
        || rd s .snsCalDeltaMax 0 == 0
    if refused then calResult s c cWrongState
    else
      let s1 := wr s .snsCalStat 0 (BitVec.ofNat 32 (2 ^ 31 + c % 64 * 2 ^ 16 + rdf s .snsCalStat 0 15 0))
      { s1 with cal := some ⟨iepe, c, 0, [], s.now, false, 0⟩ }

/-- Only the stern core may make the write in Run; any other requester meets ADDR_FAULT (R102, R207). Before Run Cox, which
applies the lists, meets the refusal of R102. -/
def calWrite (s : State) (rq : Requester) (iepe : Bool) (c : Nat) : State :=
  if rq = .stern ∨ (rq = .cox ∧ s.run = false) then calRequest s iepe c else addrFault s rq

/-- CAL_CURRENT_OFFSET (R99). -/
def execCalCurrentOffset (rq : Requester) (chan : Fin 64) (s : State) : Host.Outcome State Fault Refusal :=
  .next (calWrite s rq false chan.val)

/-- CAL_IEPE (R101). -/
def execCalIepe (rq : Requester) (chan : Fin 64) (s : State) : Host.Outcome State Fault Refusal :=
  .next (calWrite s rq true chan.val)

/-- The sum and the sum of squares of the codes of a window. -/
def sums : List Int → Int × Int
  | [] => (0, 0)
  | x :: xs => let (a, b) := sums xs; (a + x, b + x * x)

/-- The window of 1,024 outputs has ended and its last output is latched (R99, R100). -/
def execCalOffsetWindowEnd (s : State) : Host.Outcome State Fault Refusal :=
  match s.cal with
  | some k =>
    if k.iepe || decide (k.count < 1024) || !k.caught then unchanged s
    else
      let (sm, sq) := sums k.codes
      let noise : Int := rdf s .snsCalNoiseMax 0 23 0
      let mean := roundEven sm 1024
      let loaded := signed 24 (Tab.get (fun _ => (0 : Word)) s.ofsLoaded k.chan).toNat
      let delta : Int := rdf s .snsCalDeltaMax 0 23 0
      if noise * noise * 1024 * 1024 < 1024 * sq - sm * sm then .next (endCal s k.chan cWrongState)
      else if delta < (mean - loaded) ∨ delta < (loaded - mean) then .next (endCal s k.chan cCalRange)
      else .next { endCal s k.chan 0 with ofsPending := some (k.chan, BitVec.ofNat 32 (unsigned 24 mean)) }
  | none => unchanged s

/-- The 10 ms of an IEPE calibration end: the bias is published (R101). -/
def execCalIepeDone (mv : Nat) (s : State) : Host.Outcome State Fault Refusal :=
  match s.cal with
  | some k =>
    if !k.iepe || decide (s.now < k.since + 10000000) then unchanged s
    else .next (endCal (wrf s .snsVibBias (k.chan - 56) 15 0 mv) k.chan 0)
  | none => unchanged s

/-! ## At a catch -/

/-- The word that slot `k` of channel `c` delivers at a catch (R91): the staged one; else a word with VALID clear, with
SETTLE when the catch stepped. -/
def slotWord (s : State) (stepped : Bool) (c k : Nat) : DWord :=
  let w := Tab.get noWord s.staged (wordKey c k)
  if w = 0 then mkWord 0 false stepped false false false false c (instantOf s c k) else w

/-- The words of a channel for the stroke that ends. -/
def chanWords (s : State) (stepped : Bool) (c : Nat) : List DWord :=
  (List.range (outputsOf s c)).map (slotWord s stepped c)

/-- Write a channel's words where one map entry puts them (R165). -/
def deliverWords (stepped : Bool) (e : SenseMap) (s : State) : State :=
  if chanOn s e.chan then
    putInput s e.inst e.bufOff ((chanWords s stepped e.chan).map (fun w => bytesOf 8 w.toNat)).flatten
  else s

/-- The mapped words of a STROKE instance's block and how many of them are valid (R471; assumption 12). -/
def validWords (s : State) (i : Nat) : Nat × Nat :=
  let ws := (((image s).sense.filter (fun e => e.inst == i && chanOn s e.chan)).map
    (fun e => (List.range (outputsOf s e.chan)).map (fun k => Tab.get noWord s.words (wordKey e.chan k)))).flatten
  (ws.countP (fun w => w.getLsbD 39), ws.length)

/-- The same of blocks that a GUARD or TREND step takes. -/
def validIn (s : State) (i : Nat) (blocks : List (List Byte)) : Nat × Nat :=
  let bits := (blocks.map (fun b => ((image s).sense.filter (fun e => e.inst == i && chanOn s e.chan)).map
    (fun e => (List.range (outputsOf s e.chan)).map (fun k => (field b (e.bufOff + 8 * k + 4) 1).testBit 7)))).flatten.flatten
  (bits.countP (· == true), bits.length)

/-- The calibration's check at a catch (R99): the link's latched frame must report the bridge disabled. -/
def catchCal (s : State) : State :=
  match s.cal with
  | some k =>
    if k.iepe || k.caught then s
    else
      let ok := match (linkAt s (rdf s .snsModCfg k.chan 28 24)).latched with
        | some f => !frameFlag f 0
        | none => false
      if ok then { s with cal := some { k with caught := decide (1024 ≤ k.count) } } else endCal s k.chan cWrongState
  | none => s

/-- A calibrated offset takes effect at the catch after it (R100). -/
def catchOffset (s : State) : State :=
  match s.ofsPending with
  | some (c, v) => { wr s .snsModOfs c v with ofsPending := none }
  | none => s

/-- A whole stroke of agreeing MCLK readback ends its fault (R109). -/
def catchMclk (s : State) : State :=
  let f (t : Table Nat Nat) (g : Nat) := Tab.set id zeroDefault g (Tab.get zeroDefault s.mclkFlt g - 1) t
  { s with mclkFlt := (List.range 4).foldl f s.mclkFlt }

/-- After 64 strokes without a sense-bridge parity error SENSE_LINK ends (R597). -/
def catchBridge (s : State) : State :=
  let clean := if s.bridgeStroke = 0 then s.bridgeClean + 1 else 0
  let s1 := { s with bridgeStroke := 0, bridgeClean := clean }
  if s1.holding.contains cSenseLink && decide (64 ≤ clean) then endCode s1 cSenseLink else s1

/-- The whole-stroke key list of all channels: what the block of the stroke just ended holds. -/
def blockOf (s : State) (stepped : Bool) : Table Nat DWord :=
  ((List.range 64).filter (chanOn s)).foldl (fun t c =>
    (List.range (outputsOf s c)).foldl (fun u k => Tab.set id noWord (wordKey c k) (slotWord s stepped c k) u) t) []

/-- Latch and move the block of the stroke just ended into the instance input buffers (R20, R91). Before Run no block is
delivered (R191). -/
def catchBlock (s : State) (stepped : Bool) : State :=
  let s1 := if s.run then forEach (image s).sense (fun e t => deliverWords stepped e t) s else s
  { s1 with words := blockOf s stepped, staged := [] }

/-- Every decimator restarts at a catch edge that steps, or at stage 12, with the settling of R92 and R93. -/
def restartChannels (s : State) : State :=
  forEach ((List.range 64).filter (chanOn s)) (fun c t => updChan t c (fun x =>
    { x with
      settleLeft := if isMod c then sincOrder s c else 0
      bits := []
      settleUntil := s.now + 20000, settleAfter := 3 })) s

/-- Every sense channel at a catch. -/
def catchSense (s : State) (stepped : Bool) : State :=
  let s1 := catchBridge (catchMclk (catchOffset (catchCal (catchBlock s stepped))))
  if stepped then restartChannels s1 else s1

/-! ## Bridge parity (R72) -/

/-- A parity error on the sense bridge: counted in FLT_BRIDGE; the 17th of a stroke asserts FAULT_N with SENSE_LINK. -/
def senseParity (s : State) : State :=
  let s1 := bumpf s .fltBridge 0 15 0 1
  let s2 := { s1 with bridgeStroke := s1.bridgeStroke + 1, bridgeClean := 0 }
  if s2.bridgeStroke = 17 then raiseNow s2 cSenseLink scDevice 0 else s2

/-- A bad word of an instant is one of the window of the channel's current-offset calibration (R99). -/
def inCalWindow (s : State) (c instant : Nat) : Bool :=
  match s.cal with
  | some k => !k.iepe && k.chan == c && decide (k.since < instant ∧ instant ≤ k.newest ∧ 0 < k.count)
  | none => false

/-- Clear VALID of the last staged word of a channel, and of its reflex-path word (R72); a current-offset calibration whose
window holds that output aborts (R99). -/
def parityWord (s : State) (c : Nat) : State :=
  let clr (w : DWord) : DWord := w &&& ~~~ (1#64 <<< 39)
  match s.staged.reverse.find? (fun e => e.1 / 65536 == c) with
  | some (k, w) =>
    let s1 := if inCalWindow s c (senseStart s + instantOf s c (k % 65536)) then endCal s c cWrongState else s
    updChan { s1 with staged := Tab.set id noWord k (clr w) s1.staged } c (fun x => { x with word := clr x.word })
  | none => s

end Sys2Proof.Machine
end

