-- ==== Sys2Proof/Machine/Image.lean ====
section
/-! DEFINITION. The boathouse image (05_boathouse_image.md): the slots of the flash, header and section-table checks,
the framing and content of every section type, and the acceptance order of R171. -/

namespace Sys2Proof.Machine

/-! ## Flash and slots (R148, R149) -/

def eraseDefault (_a : Nat) : Byte := 0xFF

/-- A slot's base and length: slot B starts at half the density, at most at 0x2000_0000. -/
def slotLen (f : Flash) : Nat := if 30 ≤ f.densLog2 then 0x20000000 else 2 ^ (f.densLog2 - 1)
def slotBase (f : Flash) (k : Nat) : Nat := if k = 0 then 0 else slotLen f

/-- `n` bytes at offset `o` of slot `k`. -/
def flashRead (s : State) (k o n : Nat) : List Byte := Tab.getMany eraseDefault s.flash.bytes (slotBase s.flash k + o) n

/-! ## Failures (R171) -/

/-- Where and with what code a slot fails. -/
structure SlotFail where
  step : Nat
  code : Nat
  sect : Nat
  deriving DecidableEq, Repr

/-- The first failure of a list of checks. -/
def firstFail : List (Bool × SlotFail) → Option SlotFail
  | [] => none
  | (ok, f) :: rest => if ok then firstFail rest else some f

/-- All bytes of a range are zero. -/
def zeros (bs : List Byte) (o n : Nat) : Bool := (slice bs o n).all (· == 0)

/-! ## Header and section table (R152, R155, R156) -/

def headerOk (s : State) (h : List Byte) : Bool :=
  field h 0 4 == 0x4B514248 && field h 4 2 == 1 && field h 6 2 == 256 && field h 8 2 == rdf s .idPart 0 15 0
    && decide (field h 0xA 1 ≤ rdf s .idStep 0 7 0) && decide (field h 0xC 1 ≤ 64) && zeros h 0xD 1
    && decide (8 ≤ field h 0xE 2 ∧ field h 0xE 2 ≤ 520) && decide (field h 0x10 4 ≤ slotLen s.flash) && zeros h 0x20 128

/-- One entry of the section table. -/
def parseEntry (b : List Byte) : SectEntry :=
  ⟨field b 0 1, field b 1 1, field b 2 2, field b 4 4, field b 8 4, slice b 0x10 48⟩

def parseTable (tab : List Byte) (n : Nat) : List SectEntry :=
  (List.range n).map (fun i => parseEntry (slice tab (64 * i) 64))

def tCox : Nat := 1
def tCrew : Nat := 2
def tModel : Nat := 3
def tSched : Nat := 4
def tSense : Nat := 5
def tAxis : Nat := 6
def tRfx : Nat := 7
def tOpl : Nat := 8
def tCarry : Nat := 9
def tSec : Nat := 10

/-- Least and greatest count of a section type (R160). -/
def typeCount (t : Nat) : Nat × Nat :=
  if t = tModel then (1, 256) else if t = tOpl then (0, 1) else if t = tCarry then (0, 256) else (1, 1)

def encAllowed (t : Nat) : Bool := t == tCrew || t == tModel || t == tRfx || t == tCarry
def isEnc (e : SectEntry) : Bool := e.flags % 2 == 1
def isVendor (e : SectEntry) : Bool := e.flags / 2 % 2 == 1

/-- Two sections overlap. -/
def overlap (a b : SectEntry) : Bool := decide (a.off < b.off + b.len) && decide (b.off < a.off + a.len)

/-- No pair of a list is related. -/
def noPair {α : Type} (f : α → α → Bool) : List α → Bool
  | [] => true
  | x :: xs => xs.all (fun y => !f x y) && noPair f xs

/-- The rules of R155 and R156 that step 2 checks. -/
def entryOk (n imageLen : Nat) (b : List Byte) (e : SectEntry) : Bool :=
  decide (1 ≤ e.typ ∧ e.typ ≤ 10) && decide (e.flags < 4) && (isVendor e == (e.typ == tCox))
    && (!isEnc e || encAllowed e.typ) && (isEnc e || e.nonceRef == 0xFFFF) && decide (e.off % 4096 = 0)
    && decide (0x100 + 64 * n ≤ e.off) && decide (32 ≤ e.len) && zeros b 0xC 4 && decide (e.off + e.len ≤ imageLen)
    && (e.typ != tCox || decide (e.len ≤ 448 * 1024)) && (e.typ != tSec || decide (e.len ≤ 64 * 1024))

def tableOk (imageLen : Nat) (tab : List Byte) (es : List SectEntry) : Bool :=
  (es.head?.map (·.typ) == some tSec)
    && (List.range es.length).all (fun i => entryOk es.length imageLen (slice tab (64 * i) 64)
        (parseEntry (slice tab (64 * i) 64)))
    && ((List.range 10).map (· + 1)).all (fun t =>
        let c := es.countP (fun e => e.typ == t)
        decide ((typeCount t).1 ≤ c ∧ c ≤ (typeCount t).2))
    && noPair overlap es
    && noPair (fun a b => isEnc a && isEnc b && a.nonceRef == b.nonceRef) es

/-! ## Section framing (R157, R158) -/

/-- The prologue of a section. -/
structure Prologue where
  typ : Nat
  rlCount : Nat
  rlOff : Nat
  tabCount : Nat
  tabOff : Nat
  dataOff : Nat
  dataLen : Nat
  deriving DecidableEq, Repr

def parsePrologue (d : List Byte) : Prologue :=
  ⟨field d 0 1, field d 4 4, field d 8 4, field d 0xC 4, field d 0x10 4, field d 0x14 4, field d 0x18 4⟩

/-- Bytes of one table entry of a section type. -/
def entrySize (t : Nat) : Nat :=
  if t = tCrew then 32 else if t = tModel then 24 else if t = tSched then 64 else if t = tSense then 8
  else if t = tAxis then 12 else if t = tRfx then 32 else if t = tOpl then 32 else if t = tCarry then 16 else 12

/-- Blocks that a section's register-load list may name (R160). -/
def listBlocks (t : Nat) : List Block :=
  if t = tSched then [.svc] else if t = tSense then [.sns] else if t = tAxis then [.stk, .axl, .stp]
  else if t = tRfx then [.rfx, .thm] else if t = tOpl then [.opl] else []

def prologueOk (t : Nat) (d : List Byte) : Bool :=
  let p := parsePrologue d
  decide (32 ≤ d.length) && p.typ == t && field d 1 1 == 1 && zeros d 2 2 && zeros d 0x1C 4 && ((listBlocks t) != [] || p.rlCount == 0)
    && decide (p.rlOff % 8 = 0) && decide (p.tabOff % 8 = 0) && decide (p.rlOff + 8 * p.rlCount ≤ d.length)
    && decide (p.tabOff + entrySize t * p.tabCount ≤ d.length) && decide (p.dataOff + p.dataLen ≤ d.length)

/-- The table entries of a section, as byte strings. -/
def tableRows (t : Nat) (d : List Byte) : List (List Byte) :=
  let p := parsePrologue d
  (List.range p.tabCount).map (fun i => slice d (p.tabOff + entrySize t * i) (entrySize t))

/-- The register-load list of a section. -/
def loadRows (d : List Byte) : List (List Byte) :=
  let p := parsePrologue d
  (List.range p.rlCount).map (fun i => slice d (p.rlOff + 8 * i) 8)

def parseLoad (b : List Byte) : RegLoad := ⟨field b 0 1, field b 2 2, BitVec.ofNat 32 (field b 4 4)⟩

def loadRowOk (t : Nat) (b : List Byte) : Bool :=
  let e := parseLoad b
  zeros b 1 1 && decide (e.off % 4 = 0) && (loadTarget e).isSome
    && (match allBlocks[e.k]? with | some k => (listBlocks t).contains k | none => false)

def listOk (t : Nat) (d : List Byte) : Bool := (loadRows d).all (loadRowOk t)
def loadsOf (d : List Byte) : List RegLoad := (loadRows d).map parseLoad

/-- Bytes named by SRC_OFF: 0xFFFF_FFFF is zero fill (an empty list). -/
def srcBytes (d : List Byte) (off len : Nat) : List Byte := if off = 0xFFFFFFFF then [] else slice d off len
def srcOk (d : List Byte) (off len : Nat) : Bool := off == 0xFFFFFFFF || decide (off + len ≤ d.length)

/-- First context address of the pages that Cox keeps for itself (R429). -/
def vaddrEnd : Nat := 0xEFFFF0000

/-! ## Section types -/

/-- A CREW load record (R162); context 64 stands for the stern core. -/
def parseCrew (d b : List Byte) : CrewRec :=
  { context := if field b 0 1 = 0xFF then 64 else field b 0 1, attr := field b 1 1, len := field b 4 4,
    vaddr := field b 8 8, bytes := srcBytes d (field b 0x10 4) (field b 4 4) }

def crewExec (c : CrewRec) : Bool := c.attr % 2 == 1
def crewWritable (c : CrewRec) : Bool := c.attr / 2 % 2 == 1
def crewEntry (c : CrewRec) : Bool := c.attr / 4 % 2 == 1

/-- The telemetry window in the stern core's address space (R581). -/
def telVaddr : Nat := 0xEF0000000
def telBytes : Nat := 0x4000000

def crewRowOk (d b : List Byte) : Bool :=
  let c := parseCrew d b
  (decide (field b 0 1 < 64) || field b 0 1 == 0xFF) && decide (c.attr < 8) && zeros b 2 2
    && decide (c.vaddr % 65536 = 0) && zeros b 0x14 12 && srcOk d (field b 0x10 4) c.len
    && decide (c.vaddr + c.len ≤ vaddrEnd) && (!crewEntry c || crewExec c)
    && (c.context != 64 || decide (c.vaddr + c.len ≤ telVaddr) || decide (telVaddr + telBytes ≤ c.vaddr))

/-- ENTRY records: at most one per context, and one for each context that holds code (R162). -/
def crewOk (cs : List CrewRec) : Bool :=
  noPair (fun a b => crewEntry a && crewEntry b && a.context == b.context) cs
    && cs.all (fun c => !crewExec c || cs.any (fun e => crewEntry e && e.context == c.context))

def parseClass (n : Nat) : Class :=
  match n with
  | 0 => .reflex
  | 1 => .stroke
  | 2 => .guard
  | _ => .trend

def parseRegion (d b : List Byte) : Region :=
  ⟨field b 0 8, field b 8 4, field b 0xC 1, field b 0xD 1, srcBytes d (field b 0x10 4) (field b 8 4)⟩

def regionPinned (r : Region) : Bool := r.attr % 2 == 1
def regionWritable (r : Region) : Bool := r.attr / 2 % 2 == 1
def regionSpad (r : Region) : Bool := r.attr / 4 % 2 == 1

def regionRowOk (cls : Class) (d b : List Byte) : Bool :=
  let r := parseRegion d b
  (decide (r.fmt ≤ 0xA) || r.fmt == 0xF) && decide (r.attr < 8) && zeros b 0xE 2 && zeros b 0x14 4
    && srcOk d (field b 0x10 4) r.len && (cls == .trend || regionPinned r)
    && (if regionSpad r then decide (r.vaddr % 64 = 0) && decide (r.vaddr + r.len ≤ spadLen)
        else decide (r.vaddr + r.len ≤ vaddrEnd))

/-- A carry-slot directory entry (R381). -/
def parseSlot (b : List Byte) : SlotDir := ⟨field b 0 8, field b 8 4, field b 0xC 1, field b 0xD 1 == 1⟩

/-- A MODEL section (R163). -/
def parseModel (sect : Nat) (d : List Byte) : Model :=
  let p := parsePrologue d
  { inst := field d 0x20 1, cls := parseClass (field d 0x21 1), ctx := field d 0x22 1,
    mask := BitVec.ofNat 16 (field d 0x24 2), stopOuts := field d 0x26 1, inLen := field d 0x28 4,
    outLen := field d 0x2C 4, stepVaddr := field d 0x30 8,
    regions := (tableRows tModel d).map (parseRegion d),
    slots := (List.range (field d 0x23 1)).map (fun i => parseSlot (slice d (p.dataOff + 16 * i) 16)), sect := sect }

def modelOk (d : List Byte) : Bool :=
  let cls := parseClass (field d 0x21 1)
  let p := parsePrologue d
  decide (64 ≤ d.length) && decide (field d 0x21 1 ≤ 3) && decide (field d 0x22 1 < 64) && decide (field d 0x23 1 ≤ 64) && (field d 0x24 2 != 0)
    && (if cls == .reflex then decide (field d 0x26 1 ≤ 12) else field d 0x26 1 == 0) && zeros d 0x27 1 && zeros d 0x38 8
    && decide (16 * field d 0x23 1 ≤ p.dataLen) && (tableRows tModel d).all (regionRowOk cls d)
    && (List.range (field d 0x23 1)).all (fun i =>
        decide (field d (p.dataOff + 16 * i + 0xD) 1 ≤ 1) && zeros d (p.dataOff + 16 * i + 0xE) 2)

/-- A SCHED entry (R461). -/
def parseSched (b : List Byte) : Sched :=
  { inst := field b 0 1, coast := field b 1 1 % 2 == 1, validMin := field b 2 1, order := field b 3 1,
    budget := field b 4 4, reserve := field b 8 4, limit := field b 0xC 4, frame := field b 0x10 2,
    trigInst := field b 0x12 1, trigOff := field b 0x14 4, coastVaddr := field b 0x18 8, heldVaddr := field b 0x20 8,
    coastNs := field b 0x28 4,
    alt := [BitVec.ofNat 16 (field b 0x2C 2), BitVec.ofNat 16 (field b 0x2E 2), BitVec.ofNat 16 (field b 0x30 2)] }

def schedRowOk (b : List Byte) : Bool := decide (field b 1 1 ≤ 1) && zeros b 0x13 1 && zeros b 0x32 14

def parseSense (b : List Byte) : SenseMap := ⟨field b 0 1, field b 1 1, field b 4 4⟩
def senseRowOk (b : List Byte) : Bool := decide (field b 0 1 < 64) && zeros b 2 2

def parseAxis (b : List Byte) : AxisMap :=
  ⟨field b 0 1, field b 1 1, field b 2 1, field b 3 1, field b 4 2, field b 6 2, field b 8 4⟩

def axisRowOk (b : List Byte) : Bool :=
  let e := parseAxis b
  decide (e.kind ≤ 3) && decide (e.link < 12) && (e.kind == 3 || e.out == 0) && (e.kind == 2 || e.frameOff == 0)
    && (e.kind == 0 || e.kind == 2 || e.len == 0)

/-- `n` signed numbers of `w` bytes at offset `o`. -/
def signedList (d : List Byte) (o w n : Nat) : List Int :=
  (List.range n).map (fun i => signed (8 * w) (field d (o + w * i) w))

/-- An RFX LAYER entry (R482). -/
def parseLayer (d b : List Byte) : Layer :=
  let base := (parsePrologue d).dataOff
  { bank := field b 1 1, inst := field b 2 1, order := field b 3 1, src := field b 4 1, fsLog2 := field b 5 1,
    stopRow := field b 6 1, stopOut := field b 7 1, stopThr := signed 8 (field b 8 1), inShift := field b 9 1,
    weights := signedList d (base + field b 0xC 4) 1 1024, bias := signedList d (base + field b 0x10 4) 2 32,
    chans := if field b 4 1 = 0 then (slice d (base + field b 0x14 4) 32).map BitVec.toNat else [],
    inOff := field b 0x14 4, outOff := field b 0x18 4 }

def layerRowOk (d b : List Byte) : Bool :=
  let l := parseLayer d b
  let p := parsePrologue d
  decide (l.bank < 4) && decide (l.order < 4) && decide (l.src ≤ 2) && decide (2 ≤ l.fsLog2 ∧ l.fsLog2 ≤ 5)
    && (decide (l.stopRow < 32) || (l.stopRow == 0xFF && l.stopOut == 0))
    && (if l.src = 0 then decide (l.inShift ≤ 23) else l.inShift == 0) && zeros b 0xA 2 && zeros b 0x1C 4
    && decide (field b 0xC 4 + 1024 ≤ p.dataLen) && decide (field b 0x10 4 + 64 ≤ p.dataLen)
    && (l.src != 0 || decide (l.inOff + 32 ≤ p.dataLen)) && (l.src != 1 || decide (l.inOff % 64 = 0))
    && (l.src != 2 || l.inOff == 0) && decide (l.outOff % 64 = 0) && l.weights.all (· != -128)
    && l.chans.all (fun c => decide (c < 64) || c == 0xFF)

/-- An RFX WAX entry (R482). -/
def parseWax (d b : List Byte) : Wax :=
  let base := (parsePrologue d).dataOff
  { bank := field b 1 1,
    codes := (List.range (34 * 32 * 16)).map (fun i => field d (base + field b 8 4 + 2 * i) 2),
    curve := signedList d (base + field b 0xC 4) 2 256 }

def waxRowOk (d b : List Byte) : Bool :=
  let w := parseWax d b
  let p := parsePrologue d
  decide (w.bank < 4) && zeros b 2 6 && zeros b 0x10 16 && decide (field b 8 4 + 34816 ≤ p.dataLen)
    && decide (field b 0xC 4 + 512 ≤ p.dataLen) && w.codes.all (fun c => decide (c ≤ 16383))
    && w.curve.getD 0 0 == 0

def rfxRowOk (d b : List Byte) : Bool :=
  if field b 0 1 = 0 then layerRowOk d b else field b 0 1 == 1 && waxRowOk d b

/-- An OPL CHANNEL entry (R530). -/
def parseChan (b : List Byte) : OplChan :=
  ⟨field b 1 1, field b 2 1, field b 3 1, field b 4 1, field b 5 1, field b 6 1, field b 7 1, field b 8 2,
   field b 0xC 4, field b 0x10 4, field b 0x14 4⟩

def oplRowOk (b : List Byte) : Bool :=
  if field b 0 1 = 0 then
    let c := parseChan b
    decide (c.chan < 64) && decide (c.typ ≤ 3) && decide (c.src < 8) && decide (c.dst < 8) && c.src != c.dst
      && zeros b 0xA 2 && zeros b 0x18 8
      && (if c.typ = 1 then c.lag == 0 && c.len == 0 && c.srcOff == 0 && c.dstOff == 0
          else decide (1 ≤ c.lag) && decide (1 ≤ c.period) && decide (c.len % 4096 = 0)
            && decide (4096 ≤ c.len ∧ c.len ≤ 1048576) && decide (c.srcOff % 64 = 0) && decide (c.dstOff % 64 = 0))
  else
    field b 0 1 == 1 && decide (field b 1 1 ≤ 1) && decide (field b 2 2 < 1024) && zeros b 4 28
      && decide (4 ≤ (List.range 10).countP (fun l => !(field b 2 2).testBit l))

def carryRowOk (d b : List Byte) : Bool := zeros b 2 2 && zeros b 0xC 4 && srcOk d (field b 8 4) (field b 4 4)

/-- A CARRY entry (R167); zero fill keeps its length. -/
def parseCarry (sect : Nat) (d b : List Byte) : CarryEntry :=
  let bs := srcBytes d (field b 8 4) (field b 4 4)
  ⟨field b 0 1, field b 1 1, if bs = [] then List.replicate (field b 4 4) 0 else bs, sect⟩

/-- Whether a section's own rules hold (R159). -/
def sectionOk (t : Nat) (d : List Byte) : Bool :=
  prologueOk t d && listOk t d &&
    (if t = tCrew then (tableRows t d).all (crewRowOk d) && crewOk ((tableRows t d).map (parseCrew d))
     else if t = tModel then modelOk d
     else if t = tSched then (tableRows t d).all schedRowOk
     else if t = tSense then (tableRows t d).all senseRowOk
     else if t = tAxis then (tableRows t d).all axisRowOk
     else if t = tRfx then (tableRows t d).all (rfxRowOk d)
     else if t = tOpl then (tableRows t d).all oplRowOk
     else if t = tCarry then (tableRows t d).all (carryRowOk d)
     else true)

/-- Enter a parsed section into the image. -/
def addSection (sect t : Nat) (d : List Byte) (g : Image) : Image :=
  let rows := tableRows t d
  if t = tCrew then { g with crew := rows.map (parseCrew d) }
  else if t = tModel then { g with models := g.models ++ [parseModel sect d] }
  else if t = tSched then { g with sched := rows.map parseSched, svcList := loadsOf d }
  else if t = tSense then { g with sense := rows.map parseSense, snsList := loadsOf d }
  else if t = tAxis then { g with axis := rows.map parseAxis, axisList := loadsOf d }
  else if t = tRfx then
    { g with
      layers := (rows.filter (fun b => field b 0 1 == 0)).map (parseLayer d)
      waxes := (rows.filter (fun b => field b 0 1 == 1)).map (parseWax d), rfxList := loadsOf d }
  else if t = tOpl then
    { g with
      chans := (rows.filter (fun b => field b 0 1 == 0)).map parseChan
      exclude := (rows.filter (fun b => field b 0 1 == 1)).map (fun b => (field b 1 1, field b 2 2)), oplList := loadsOf d }
  else if t = tCarry then { g with carry := g.carry ++ rows.map (parseCarry sect d) }
  else g

/-! ## Acceptance, steps 1 to 5 (R171) -/

/-- SEC (R168, R169): its framing and its keys, at most 1,024 nonces, and a zero wrapped key in an image without ENC
sections. -/
def secOk (es : List SectEntry) (d : List Byte) : Bool :=
  prologueOk tSec d && decide (0xA8 ≤ d.length) && decide ((parsePrologue d).tabCount ≤ 1024) && (es.any isEnc || zeros d 0x80 40)

def builderKeyOf (sec : List Byte) : List Byte := slice sec 0x20 96

/-- Number of blown bits of a thermometer field. -/
def blown (v : BitVec 64) : Nat := (List.range 64).countP (fun i => v.getLsbD i)

/-! Fuse fields (R223). -/

def FuseField.blank (f : FuseField) : Bool := f.val.all (· == 0) && f.crc == 0

/-- A field is blank or consistent with its CRC. -/
def FuseField.ok (f : FuseField) : Bool := f.blank || f.crc == crc32 f.val

/-- The fields that a CRC follows. -/
def fuseFields (f : Fuses) : List FuseField :=
  [f.vendorHash, f.serial, f.priv, f.idMap, f.builderHash, f.kek, f.dbgOff]

/-- The check of stage 3. -/
def fusesOk (f : Fuses) : Bool := (fuseFields f).all FuseField.ok

/-- DBG_OFF is blown. -/
def dbgOffBlown (f : Fuses) : Bool := f.dbgOff.val.headD 0 != 0

/-- The first entry whose NONCE_REF lies beyond the nonce table. -/
def badNonceRef (es : List SectEntry) (count : Nat) : Option Nat :=
  es.findIdx? (fun e => isEnc e && decide (count ≤ e.nonceRef))

/-- Steps 1 to 4 on slot `k`: what fails, or the image's header part. -/
def verifyHeader (s : State) (k : Nat) : Sum SlotFail Image :=
  let h := flashRead s k 0 256
  if !headerOk s h then .inl ⟨1, cImgFmt, 0⟩
  else
    let n := field h 0xE 2
    let tab := flashRead s k 0x100 (64 * n)
    let es := parseTable tab n
    if !tableOk (field h 0x10 4) tab es then .inl ⟨2, cImgFmt, 0⟩
    else
      let e0 := es.getD 0 (parseEntry [])
      let sec := flashRead s k e0.off e0.len
      let hashOk := s.fuses.builderHash.blank || decide (sha384 (builderKeyOf sec) = s.fuses.builderHash.val)
      let nonceFail := badNonceRef es (parsePrologue sec).tabCount
      match firstFail
        [(decide (sha384 sec = e0.digest), ⟨3, cImgDigest, 0⟩),
         (hashOk, ⟨3, cImgKey, 0⟩),
         (ecdsaVerify (builderKeyOf sec) (slice h 0 0xA0 ++ tab) (slice h 0xA0 96), ⟨3, cImgSig, 0⟩),
         (secOk es sec, ⟨3, cImgCfg, 0⟩),
         (nonceFail.isNone, ⟨3, cImgFmt, nonceFail.getD 0⟩),
         (decide (blown s.fuses.builderArc ≤ field h 0xC 1), ⟨4, cImgRollback, 0⟩)] with
      | some f => .inl f
      | none => .inr { Image.empty with
          slot := k, epoch := field h 0xB 1, bsvn := field h 0xC 1, imageLen := field h 0x10 4
          buildId := field h 0x14 8, sects := es, builderKey := builderKeyOf sec
          contentKey := slice sec 0x80 40, nonces := tableRows tSec sec, provisioning := slice sec 0xA8 0x89 }

/-- Index and bytes of the COX section. -/
def coxSectionOf (s : State) (g : Image) : Nat × SectEntry × List Byte :=
  let i := (g.sects.findIdx? (fun e => e.typ == tCox)).getD 0
  let e := g.sects.getD i (parseEntry [])
  (i, e, flashRead s g.slot e.off e.len)

/-- Step 5 (R161, R171). A VSVN above 64 breaks a rule of the section (R159; assumption 121). -/
def verifyCox (s : State) (g : Image) : Sum SlotFail Image :=
  let (i, e, d) := coxSectionOf s g
  let n := d.length - 96
  match firstFail
    [(decide (sha384 d = e.digest), ⟨5, cImgDigest, i⟩),
     (decide (sha384 (slice d 0 96) = s.fuses.vendorHash.val), ⟨5, cImgKey, i⟩),
     (ecdsaVerify (slice d 0 96) (d.take n) (d.drop n), ⟨5, cImgSig, i⟩),
     (decide (field d 0x60 1 ≤ 64), ⟨5, cImgCfg, i⟩),
     (decide (blown s.fuses.vendorArc ≤ field d 0x60 1), ⟨5, cImgRollback, i⟩)] with
  | some f => .inl f
  | none => .inr { g with vsvn := field d 0x60 1, cox := d }

/-! ## Step 7: reading every other section, and the checks between sections (R649) -/

/-- The content key of an image with ENC sections, unwrapped with the KEK (R169); none where it does not unwrap. -/
def contentKeyOf (kek : List Byte) (g : Image) : Option (List Byte) :=
  if g.sects.any isEnc then keyUnwrap kek g.contentKey else none

/-- Read and parse section `i`: digest, decryption with the content key, own rules. Without a key nothing opens. -/
def readSection (s : State) (key : Option (List Byte)) (g : Image) (i : Nat) : Sum SlotFail Image :=
  let e := g.sects.getD i (parseEntry [])
  if e.typ = tCox ∨ i = 0 then .inr g
  else
    let d := flashRead s g.slot e.off e.len
    if sha384 d ≠ e.digest then .inl ⟨7, cImgDigest, i⟩
    else
      let aad := flashRead s g.slot (0x100 + 64 * i) 16
      let plain := if isEnc e then
          key.bind (fun k => gcmOpen k (g.nonces.getD e.nonceRef []) aad d)
        else some d
      match plain with
      | none => .inl ⟨7, cImgTag, i⟩
      | some p => if sectionOk e.typ p then .inr (addSection i e.typ p g) else .inl ⟨7, cImgCfg, i⟩

def readSections (s : State) (key : Option (List Byte)) (g : Image) : List Nat → Sum SlotFail Image
  | [] => .inr g
  | i :: is =>
    match readSection s key g i with
    | .inl f => .inl f
    | .inr g' => readSections s key g' is

/-- Table index of the section of a type. -/
def sectIndex (g : Image) (t : Nat) : Nat := (g.sects.findIdx? (fun e => e.typ == t)).getD 0

def modelIn (g : Image) (i : Nat) : Option Model := g.models.find? (fun m => m.inst == i)

/-- The register store that the lists of an image leave, from reset values: what the checks between sections judge. -/
def configured (s : State) (g : Image) : State :=
  let base := { s with regs := [], run := false }
  let stk := g.axisList.filter (fun e => e.k == 0)
  let rest := g.axisList.filter (fun e => e.k != 0)
  (applyList (applyList (applyList (applyList base stk).1 g.snsList).1 rest).1 g.oplList).1

/-- Slots of a directory overlap. -/
def slotOverlap (a b : SlotDir) : Bool := decide (a.vaddr < b.vaddr + b.len) && decide (b.vaddr < a.vaddr + a.len)

/-- The writable region that holds a slot. -/
def slotRegion (m : Model) (d : SlotDir) : Option Region :=
  m.regions.find? (fun r => regionWritable r && decide (r.vaddr ≤ d.vaddr) && decide (d.vaddr + d.len ≤ r.vaddr + r.len))

/-- A MODEL's checks: its context's ENTRY record, its directory, and R462. -/
def modelCross (g : Image) (m : Model) : Bool :=
  g.crew.any (fun c => crewEntry c && c.context == m.ctx)
    && g.models.countP (fun n => n.inst == m.inst) == 1
    && m.slots.all (fun d => (slotRegion m d).isSome && decide (d.vaddr % 64 = 0) && decide (d.len % 64 = 0)
        && decide (64 ≤ d.len ∧ d.len ≤ 4194304) && (!d.mirror || d.ckpt != 0) && (m.cls != .stroke || d.ckpt == 1))
    && noPair slotOverlap m.slots

/-- Fields of a SCHED entry by class (R461). -/
def schedCross (g : Image) (e : Sched) : Bool :=
  match modelIn g e.inst with
  | none => false
  | some m =>
    let st := m.cls == .stroke
    let gd := m.cls == .guard
    let tr := m.cls == .trend
    let held := m.regions.any (fun r => regionPinned r && regionWritable r && !regionSpad r
      && decide (r.vaddr ≤ e.heldVaddr) && decide (e.heldVaddr + m.inLen ≤ r.vaddr + r.len))
    g.sched.countP (fun x => x.inst == e.inst) == 1
      && (!e.coast || st) && (st || e.order == 0) && (gd || tr || e.reserve == 0)
      && (!st || e.limit == 0) && (!gd || decide (e.limit ≤ 1000000)) && (!tr || decide (e.limit ≤ 16666666))
      && (if tr then decide (1 ≤ e.frame) else e.frame == 0)
      && (if gd then decide (e.trigOff % 4 = 0) && (match modelIn g e.trigInst with
            | some t => decide (e.trigOff + 4 ≤ t.outLen)
            | none => false)
          else e.trigInst == 0 && e.trigOff == 0)
      && (if e.coast then held else e.coastVaddr == 0 && e.heldVaddr == 0 && e.coastNs == 0)

def senseCross (t : State) (g : Image) (e : SenseMap) : Bool :=
  match modelIn g e.inst with
  | some m => chanOn t e.chan && decide (e.bufOff + 8 * outputsOf t e.chan ≤ m.inLen)
  | none => false

def axisCross (t : State) (g : Image) (e : AxisMap) : Bool :=
  match modelIn g e.inst with
  | some m =>
    let pay := rdf t .axlCfg e.link 21 12 - 22
    let same (k : Nat) := g.axis.filter (fun x => x.kind == k && x.link == e.link && x.inst == e.inst)
    linkOn t e.link
      && (match e.kind with
          | 0 => (same 0).length == 1 && decide (e.bufOff + e.len ≤ m.outLen)
              && decide (((g.axis.filter (fun x => x.kind == 0 && x.link == e.link)).map (fun x => x.len + 12)).sum ≤ pay)
          | 1 => (same 1).length == 1 && (same 2) != [] && decide (e.bufOff + 24 ≤ m.inLen)
          | 2 => (same 1) != [] && decide (e.bufOff + e.len ≤ m.inLen)
              && decide (e.frameOff + e.len + 22 ≤ rdf t .axlCfg e.link 9 0)
          | _ => m.cls == .reflex && decide (e.out < m.stopOuts))
  | none => false

def carryCross (g : Image) (e : CarryEntry) : Bool :=
  match modelIn g e.inst with
  | some m =>
    g.carry.countP (fun x => x.inst == e.inst && x.slot == e.slot) == 1
      && (match m.slots[e.slot]? with | some d => decide (e.bytes.length ≤ d.len) | none => false)
  | none => false

/-- Length of a context's window on scull `k` (R257). -/
def windowLen (g : Image) (ctx k : Nat) : Nat :=
  let ends := (g.models.filter (fun m => m.ctx == ctx && m.mask.getLsbD k)).map (fun m =>
    (m.regions.filter regionSpad).map (fun r => r.vaddr + r.len))
  (ends.flatten.foldl Nat.max 0 + 4095) / 4096 * 4096

/-- The lowest scull of a mask. -/
def lowestScull (m : BitVec 16) : Nat := (maskList m).headD 0

def layerCross (g : Image) (l : Layer) : Bool :=
  match modelIn g l.inst with
  | some m =>
    m.cls == .reflex && g.layers.countP (fun x => x.bank == l.bank) == 1
      && g.layers.countP (fun x => x.inst == l.inst && x.order == l.order) == 1
      && g.waxes.countP (fun w => w.bank == l.bank) == 1
      && (l.src != 2 || g.layers.any (fun x => x.inst == l.inst && x.order + 1 == l.order))
      && decide (l.outOff + 64 ≤ windowLen g m.ctx (lowestScull m.mask))
      && (l.stopRow == 0xFF || decide (l.stopOut < m.stopOuts))
  | none => false

def oplCross (t : State) (g : Image) (c : OplChan) : Bool :=
  let me := rdf t .oplCfg 0 2 0
  let member (j : Nat) : Bool := rdb t .oplCfg 0 (16 + j)
  let src := modelIn g c.srcInst
  let dst := modelIn g c.dstInst
  member c.src && member c.dst && g.chans.countP (fun x => x.chan == c.chan) == 1
    && (c.src != me || (match src with
        | some m => c.typ == 1 || decide (c.srcOff + c.len ≤ m.outLen)
        | none => false))
    && (c.dst != me || (match dst with
        | some m => c.typ == 1 || decide (c.dstOff + 64 + c.len ≤ m.inLen)
        | none => false))

/-- Table indices of the sections whose checks against others fail. -/
def crossFails (s : State) (g : Image) : List Nat :=
  let t := configured s g
  let bad (ok : Bool) (i : Nat) : List Nat := if ok then [] else [i]
  (g.models.map (fun m => bad (modelCross g m) m.sect)).flatten
    ++ bad (g.models.all (fun m => g.sched.any (fun e => e.inst == m.inst))) (sectIndex g tSched)
    ++ (g.sched.map (fun e => bad (schedCross g e) (sectIndex g tSched))).flatten
    ++ (g.sense.map (fun e => bad (senseCross t g e) (sectIndex g tSense))).flatten
    ++ (g.axis.map (fun e => bad (axisCross t g e) (sectIndex g tAxis))).flatten
    ++ (g.carry.map (fun e => bad (carryCross g e) e.sect)).flatten
    ++ (g.layers.map (fun l => bad (layerCross g l) (sectIndex g tRfx))).flatten
    ++ (g.waxes.map (fun w => bad (g.waxes.countP (fun x => x.bank == w.bank) == 1) (sectIndex g tRfx))).flatten
    ++ (g.chans.map (fun c => bad (oplCross t g c) (sectIndex g tOpl))).flatten

/-- Step 7 as a whole. -/
def readImage (s : State) (kek : List Byte) (g : Image) : Sum SlotFail Image :=
  match readSections s (contentKeyOf kek g) { g with crew := [], models := [], carry := [] } (List.range g.sects.length) with
  | .inl f => .inl f
  | .inr g' =>
    match crossFails s g' with
    | [] => .inr g'
    | i :: is => .inl ⟨7, cImgCfg, is.foldl Nat.min i⟩

/-- The fused KEK. -/
def kekOf (s : State) : List Byte := s.fuses.kek.val

end Sys2Proof.Machine
end

