-- ==== Sys2Proof/Machine/Mailbox.lean ====
section
/-! DEFINITION. Mailboxes and the services of Cox that need no other chapter (07_cox_and_crew.md): the four states,
taking a request, responses, INFO, flash services, the anti-rollback advance and debug unlock. -/

namespace Sys2Proof.Machine

/-- The uses of the mailboxes (R210); nobody requests through mailbox 15. -/
def mbUser (rq : Requester) (m : Nat) : Bool :=
  match rq with
  | .ctx _ => decide (m < 12)
  | .stern => decide (m < 14)
  | .host | .jtag => m == 14
  | .cox => false

/-- Who reaches the mailbox area at all (R208, R209). -/
def mbReach (rq : Requester) (m : Nat) : Bool := areaAllowed rq (0x1000 + m * 0x100)

def mbForeign (s : State) : State := flag s .coxSticky 0 0
def mbProto (s : State) : State := flag s .coxSticky 0 1

/-! ## The four states (R211, R212, R236) -/

/-- The endpoint answers the host: from the end of stage 3, but while PERST_N holds it in reset (R574). -/
def endpointUp (s : State) : Bool := !s.perst && decide (4 ≤ stageOf s)

/-- An access by the host comes only when the endpoint answers (R241). -/
def arrives (s : State) (rq : Requester) : Bool := rq != .host || endpointUp s

/-- A write of request word `i` of mailbox `m`. Before Run every mailbox but 14 stays FREE (R241): the write is ignored. -/
def mbWrite (s : State) (rq : Requester) (m i : Nat) (val : Word) : State :=
  if !mbReach rq m then addrFault s rq
  else if !mbUser rq m || (!s.run && m != 14) then mbForeign s
  else if mbState s m = 0 then
    wr (putMbox (setMb s m 1 (reqId rq)) m { mboxAt s m with opened := s.now }) .mbReq (m * 16 + i) val
  else if mbState s m = 1 ∧ mbOwner s m = reqId rq then wr s .mbReq (m * 16 + i) val
  else mbForeign s

def execMailboxRequestWrite (rq : Requester) (m : Fin 16) (i : Fin 16) (val : Word) (s : State) :
    Host.Outcome State Fault Refusal :=
  if arrives s rq then .next (mbWrite s rq m.val i.val val) else unchanged s

/-- DOORBELL. Before Run only mailbox 14 takes one (R241). -/
def mbDoorbell (s : State) (rq : Requester) (m : Nat) : State :=
  if !mbReach rq m then addrFault s rq
  else if (!s.run && m != 14) || mbState s m != 1 then mbProto s
  else if mbOwner s m != reqId rq then mbForeign s
  else putMbox (setMb s m 2 (reqId rq)) m { mboxAt s m with rung := s.now }

def execDoorbell (rq : Requester) (m : Fin 16) (s : State) : Host.Outcome State Fault Refusal :=
  if arrives s rq then .next (mbDoorbell s rq m.val) else unchanged s

/-- Free a mailbox; freeing mailbox 15 posts the next queued notice (R217). -/
def mbFree (s : State) (m : Nat) : State :=
  let s1 := setMb s m 0 0xFF
  if m = 15 then
    match s1.notices with
    | n :: rest => if coxHalted s1 then s1 else placeNotice { s1 with notices := rest } n
    | [] => s1
  else s1

/-- ACK. -/
def mbAck (s : State) (rq : Requester) (m : Nat) : State :=
  if !mbReach rq m then addrFault s rq
  else if mbState s m != 3 then mbProto s
  else if mbOwner s m != reqId rq then mbForeign s
  else mbFree s m

def execAck (rq : Requester) (m : Fin 16) (s : State) : Host.Outcome State Fault Refusal :=
  if arrives s rq then .next (mbAck s rq m.val) else unchanged s

/-- A write of CTL: DOORBELL, then ACK. -/
def mbControl (s : State) (rq : Requester) (m : Nat) (v : Word) : State :=
  let s1 := if bget v 0 then mbDoorbell s rq m else s
  if bget v 1 then mbAck s1 rq m else s1

def execMailboxOpenTimeout (m : Fin 16) (s : State) : Host.Outcome State Fault Refusal :=
  if mbState s m.val = 1 ∧ (mboxAt s m.val).opened + 1000000 ≤ s.now then
    .next (flag (mbFree s m.val) .coxSticky 0 2)
  else unchanged s

def execMailboxDoneTimeout (m : Fin 16) (s : State) : Host.Outcome State Fault Refusal :=
  if mbState s m.val = 3 ∧ (mboxAt s m.val).done + 100000000 ≤ s.now then
    .next (flag (mbFree s m.val) .coxSticky 0 2)
  else unchanged s

/-! ## Requests and answers (R213 to R218) -/

/-- The 64 bytes of the request area. -/
def reqBytes (s : State) (m : Nat) : List Byte :=
  ((List.range 16).map (fun i => bytesOf 4 (rd s .mbReq (m * 16 + i)).toNat)).flatten

def reqField (s : State) (m o n : Nat) : Nat := field (reqBytes s m) o n
def reqService (s : State) (m : Nat) : Nat := reqField s m 0 2

/-- Write the response of mailbox `m` and set DONE; vector 8 for mailbox 14 (R586). -/
def respond (s : State) (m status wait : Nat) (results : List Byte) : State :=
  let s1 := writeResponse s m (reqService s m) status (reqField s m 4 4) (mbOwner s m) wait results
  let s2 := putMbox (wrf s1 .mbStat m 1 0 3) m { mboxAt s1 m with done := s.now }
  if m = 14 then fireVector s2 8 else s2

/-- Answer the request that was taken. -/
def answer (s : State) (m status : Nat) (results : List Byte) : State :=
  respond { s with taken := none } m status 0 results

def classRank (c : Class) : Nat :=
  match c with
  | .reflex => 0
  | .stroke => 1
  | .guard => 2
  | .trend => 3

/-- A context ranks by the highest class of its instances (R214); one without instances as TREND. -/
def ctxRank (s : State) (c : Nat) : Nat :=
  (((image s).models.filter (fun m => m.ctx == c)).map (fun m => classRank m.cls)).foldl Nat.min 3

/-- Order in which Cox takes owners. -/
def ownerRank (s : State) (o : Nat) : Nat := if o < 64 then ctxRank s o else o - 0x40 + 4

/-- A BUSY mailbox whose request waits: not that of the long service that runs. -/
def waits (s : State) (m : Nat) : Bool := mbState s m == 2 && s.long.map (·.mailbox) != some m

/-- The mailbox that Cox takes next (R214): one BUSY for more than 1 ms before all others. -/
def nextRequest (s : State) : Option Nat :=
  let busy := (List.range 15).filter (waits s)
  let old := busy.filter (fun m => decide ((mboxAt s m).rung + 1000000 < s.now))
  let best (l : List Nat) (k : Nat → Nat) : Option Nat :=
    l.foldl (fun b m => match b with
      | none => some m
      | some x => if k m < k x then some m else some x) none
  match best old (fun m => (mboxAt s m).rung) with
  | some m => some m
  | none => best busy (fun m => ownerRank s (mbOwner s m))

def svInfo : Nat := 0x01
def svPtMap : Nat := 0x10
def svPtUnmap : Nat := 0x11
def svFlashErase : Nat := 0x20
def svFlashWrite : Nat := 0x21
def svChgStart : Nat := 0x30
def svArcAdvance : Nat := 0x40
def svFenceScull : Nat := 0x50
def svCtxRestart : Nat := 0x51
def svDbgChallenge : Nat := 0x60
def svDbgResponse : Nat := 0x61
def svDbgEnd : Nat := 0x62

def services : List Nat := [0x01, 0x10, 0x11, 0x20, 0x21, 0x30, 0x40, 0x50, 0x51, 0x60, 0x61, 0x62]
def longServices : List Nat := [0x20, 0x21, 0x30, 0x40, 0x50, 0x51, 0x61]

/-- The Who column of R218. -/
def mayAsk (v o : Nat) : Bool :=
  if v = 0x01 then true
  else if v = 0x10 ∨ v = 0x11 then decide (o ≤ 0x40)
  else if v = 0x20 ∨ v = 0x21 ∨ v = 0x30 ∨ v = 0x40 then o == 0x40 || o == 0x41
  else if v = 0x50 ∨ v = 0x51 then o == 0x40
  else o == 0x41 || o == 0x42

/-- The offsets of the request area that a service uses; the others are reserved (R213; assumption 13). -/
def usedArgs (v : Nat) : List (Nat × Nat) :=
  if v = 0x01 then [(8, 1)]
  else if v = 0x10 then [(8, 3), (12, 20)]
  else if v = 0x11 then [(8, 2), (12, 12)]
  else if v = 0x20 then [(8, 1), (12, 8)]
  else if v = 0x21 then [(8, 1), (12, 8), (24, 8)]
  else if v = 0x30 then [(8, 2)]
  else if v = 0x40 then [(8, 3)]
  else if v = 0x50 ∨ v = 0x51 ∨ v = 0x60 then [(8, 1)]
  else if v = 0x61 then [(8, 1), (16, 48)]
  else []

/-- No reserved byte of the request is set. -/
def reservedClear (b : List Byte) (v : Nat) : Bool :=
  (List.range 64).all (fun i =>
    decide (i < 2) || (decide (4 ≤ i) && decide (i < 8))
      || (usedArgs v).any (fun u => decide (u.1 ≤ i) && decide (i < u.1 + u.2)) || b.getD i 0 == 0)

/-- Whether a request on mailbox 14 comes less than 1 ms after the one before (R216). -/
def tooSoon (s : State) (m : Nat) : Bool :=
  match s.hostRing with
  | some t => m == 14 && decide ((mboxAt s m).rung < t + 1000000)
  | none => false

/-- Cox takes a request (R214 to R216, R218, R241): what it refuses at once it answers; the rest it serves. -/
def execTakeRequest (s : State) : Host.Outcome State Fault Refusal :=
  if coxHalted s || s.taken.isSome || decide (stageOf s < 5) then unchanged s
  else
    match nextRequest s with
    | none => unchanged s
    | some m =>
      let v := reqService s m
      let o := mbOwner s m
      if tooSoon s m then
        let wait := strokesOf s ((s.hostRing.getD 0) + 1000000 - s.now)
        .next (respond s m cRetryAfter wait [])
      else
        let s1 := if m = 14 then { s with hostRing := some (mboxAt s m).rung } else s
        if !s.run && v != svDbgChallenge && v != svDbgResponse then
          let s2 := if v = svChgStart then flag s1 .pwrSticky 0 4 else s1
          .next (respond s2 m cWrongState 0 [])
        else if !services.contains v then .next (respond s1 m cUnknownService 0 [])
        else if !mayAsk v o then .next (respond s1 m cNotPermitted 0 [])
        else if !reservedClear (reqBytes s m) v then .next (respond s1 m cBadArg 0 [])
        else .next { s1 with taken := some m }

/-- Run `f` on the mailbox whose request for service `v` was taken. -/
def serve (s : State) (v : Nat) (f : Nat → State) : State :=
  match s.taken with
  | some m => if reqService s m = v && !coxHalted s then f m else s
  | none => s

/-! ## Long services (R215, R217) -/

/-- Time for which the changeover has been paused (R43). -/
def chgPaused (s : State) : Nat := s.chg.pausedNs + (if s.chg.paused then s.now - s.chg.pausedAt else 0)

/-- When the bound of a long service passes; paused time extends that of a changeover (R43, R565). -/
def longEnd (s : State) (l : LongService) : Nat :=
  l.since + l.bound + (if l.service = svChgStart then chgPaused s else 0)

/-- Start a long service on mailbox `m`; while one runs a second is answered RETRY_AFTER with the strokes left. -/
def startLong (s : State) (m bound status : Nat) (results : List Byte) : State :=
  match s.long with
  | some l =>
    respond { s with taken := none } m cRetryAfter (strokesOf s (longEnd s l - s.now)) []
  | none =>
    let l : LongService := ⟨m, reqService s m, mbOwner s m, reqBytes s m, s.now, bound, status, results⟩
    wrb { s with long := some l, taken := none } .coxStat 0 7 true

/-- A long service ends: its answer, and a notice of its completion. -/
def endLong (s : State) (l : LongService) (status : Nat) (results : List Byte) : State :=
  let s1 := wrb { s with long := none } .coxStat 0 7 false
  let s2 := if mbState s1 l.mailbox = 2 then respond s1 l.mailbox status 0 results else s1
  notice s2 ⟨0x8000 + l.service, status, l.requester, results⟩

/-! ## INFO (R219) -/

def infoPage (s : State) (p : Nat) : List Byte :=
  if p = 0 then
    bytesOf 4 (Config.coxVersion (image s).cox) ++ bytesOf 1 (rdf s .imgStat 0 31 24) ++ bytesOf 1 (rdf s .imgStat 0 23 16)
      ++ bytesOf 1 (blown s.fuses.vendorArc) ++ bytesOf 1 (blown s.fuses.builderArc) ++ bytesOf 4 (rd s .coxStat 0).toNat
  else if p = 1 then slice (publicKey s.fuses.priv.val) 0 48
  else if p = 2 then slice (publicKey s.fuses.priv.val) 48 48
  else slice s.fuses.serial.val 0 16

def execInfo (s : State) : Host.Outcome State Fault Refusal :=
  .next (serve s svInfo (fun m =>
    let p := reqField s m 8 1
    if p ≤ 3 then answer s m 0 (infoPage s p) else answer s m cBadArg []))

/-! ## Flash services (R151, R178, R219, R221, R577) -/

/-- The slot in force, and whether a changeover runs. -/
def slotInForce (s : State) : Nat := rdf s .imgStat 0 0 0

/-- Refusals shared by FLASH_ERASE and FLASH_WRITE. -/
def flashRefusal (s : State) (slot off len : Nat) : Option Nat :=
  if slot ≤ 1 ∧ (slot = slotInForce s ∨ s.chg.active) then some cWrongState
  else if 1 < slot ∨ slotLen s.flash < off + len then some cFlashRange
  else none

def execFlashErase (s : State) : Host.Outcome State Fault Refusal :=
  .next (serve s svFlashErase (fun m =>
    let off := reqField s m 12 4
    let len := reqField s m 16 4
    if off % 65536 ≠ 0 ∨ len % 65536 ≠ 0 then answer s m cFlashRange []
    else match flashRefusal s (reqField s m 8 1) off len with
      | some c => answer s m c []
      | none => startLong s m (1000000 + len / 65536 * Config.eraseNs) 0 []))

/-- Change flash bytes: erasing sets ones, programming only clears bits. -/
def flashPut (s : State) (a : Nat) (bs : List Byte) : State :=
  { s with flash := { s.flash with bytes := Tab.setMany eraseDefault a bs s.flash.bytes } }

/-- The end of a flash service: the data is in the slot; where what reads back differs from it, as on bytes that were not
erased or where the flash failed (`ok` false), the service ends with FLASH_READ (R221). -/
def endFlash (s : State) (l : LongService) (ok : Bool) : State :=
  let a := slotBase s.flash (field l.args 8 1) + field l.args 12 4
  let n := field l.args 16 4
  let s1 :=
    if l.service = svFlashErase then flashPut s a (List.replicate n 0xFF)
    else flashPut s a (List.zipWith (· &&& ·) (Tab.getMany eraseDefault s.flash.bytes a n) l.results)
  let stored := l.service = svFlashErase || Tab.getMany eraseDefault s1.flash.bytes a n == slice l.results 0 n
  if ok && stored then endLong s1 l 0 (if l.service = svFlashWrite then bytesOf 4 n else []) else endLong s1 l cFlashRead []

/-! ## Anti-rollback advance (R228 to R230, R235) -/

/-- The count of a field, and the version in force that bounds it. -/
def arcCount (s : State) (vendor : Bool) : Nat := blown (if vendor then s.fuses.vendorArc else s.fuses.builderArc)
def arcVersion (s : State) (vendor : Bool) : Nat := rdf s .imgStat 0 (if vendor then 31 else 23) (if vendor then 24 else 16)

/-- Set the lowest `n` bits of a thermometer field. -/
def thermometer (n : Nat) : BitVec 64 := BitVec.ofNat 64 (2 ^ Nat.min n 64 - 1)

def setArc (s : State) (vendor : Bool) (n : Nat) : State :=
  { s with fuses := if vendor then { s.fuses with vendorArc := thermometer n }
                    else { s.fuses with builderArc := thermometer n } }

/-- Whether the slot not in force passes steps 1 to 5 against the new count (R229). -/
def otherSlotPasses (s : State) (vendor : Bool) (target : Nat) : Bool :=
  let t := setArc s vendor target
  match verifyHeader t (1 - slotInForce s) with
  | .inl _ => false
  | .inr g =>
    match verifyCox t g with
    | .inl _ => false
    | .inr _ => true

def execArcAdvance (s : State) : Host.Outcome State Fault Refusal :=
  .next (serve s svArcAdvance (fun m =>
    let fld := reqField s m 8 1
    let flags := reqField s m 9 1
    let target := reqField s m 10 1
    let vendor := fld == 1
    if s.chg.active then answer s m cWrongState []
    else if 1 < fld ∨ 1 < flags ∨ target ≤ arcCount s vendor ∨ arcVersion s vendor < target ∨ 64 < target then
      answer s m cBadArg []
    else startLong s m (45000000 + 2000000 * (target - arcCount s vendor)) 0 []))

/-- Unless SINGLE is set the other slot must pass (R229). -/
def arcChecks (l : LongService) : Bool := l.service == svArcAdvance && field l.args 9 1 != 1

/-- The end of an advance: the other slot would fail and no bit is blown; or every bit reads blown, or one does not (`ok` false) and the service ends with FUSE_ERR; the
bits blown before it stay (R230). Which bit failed is an open value. -/
def endArc (s : State) (l : LongService) (ok : Bool) : State :=
  let vendor := field l.args 8 1 == 1
  let target := field l.args 10 1
  let now := arcCount s vendor
  if arcChecks l && !otherSlotPasses s vendor target then endLong s l cArcNoFallback []
  else if ok then endLong (setArc s vendor target) l 0 (bytesOf 1 target)
  else
    let (w, s1) := freshWord s
    let s2 := setArc s1 vendor (now + w.toNat % Nat.max 1 (target - now))
    endLong (raiseNow s2 cFuseErr scDevice 0) l cFuseErr []

/-! ## Debug unlock (R231 to R234) -/

/-- Three AUTH_FAIL results since reset lock every debug request (R232). -/
def lockedOut (s : State) : Bool := decide (3 ≤ s.authFails)

def execDbgChallenge (s : State) : Host.Outcome State Fault Refusal :=
  .next (serve s svDbgChallenge (fun m =>
    let level := reqField s m 8 1
    if lockedOut s then answer s m cDebugLockout []
    else if level ≠ 1 ∧ level ≠ 2 then answer s m cBadArg []
    else if level = 1 ∧ dbgOffBlown s.fuses then answer s m cNotPermitted []
    else if level = 2 ∧ s.chg.active then answer s m cWrongState []
    else
      let block := slice (Config.nonce s.free) 0 28 ++ slice s.fuses.serial.val 0 16 ++ bytesOf 1 level ++ [0, 0, 0]
      answer { s with free := s.free + 1, challenge := some ⟨level, block, s.now, none, m⟩ } m 0 block))

/-- DBG_RESPONSE: part 0 carries r, part 1 carries s; the check ends with the long service. -/
def execDbgResponse (s : State) : Host.Outcome State Fault Refusal :=
  .next (serve s svDbgResponse (fun m =>
    let part := reqField s m 8 1
    let half := slice (reqBytes s m) 16 48
    if lockedOut s then answer s m cDebugLockout []
    else match s.challenge with
      | none => answer s m cWrongState []
      | some c =>
        if c.since + 10000000000 ≤ s.now then answer { s with challenge := none } m cWrongState []
        else if c.level = 2 ∧ s.chg.active then answer s m cWrongState []
        else match c.partR with
          | none =>
            if part = 0 then
              startLong (if s.long.isNone then { s with challenge := some { c with partR := some half } } else s) m 15000000 0 []
            else answer s m cWrongState []
          | some _ => if part = 1 then startLong s m 15000000 0 half else answer s m cWrongState []))

/-- Grant a debug level (R233, R234). Level 2 raises DEBUG_ACTIVE: in Run at the next catch, before Run at once, where it holds
start-up after stage 10 (R241). -/
def grant (s : State) (level : Nat) : State :=
  let s1 := wrf s .coxStat 0 5 4 level
  if level != 2 then s1
  else if s1.run then { s1 with debugAt := s1.now, debugDue := true }
  else raiseNow { s1 with debugAt := s1.now, debugHold := true } cDebugActive scDevice 0

/-- The vendor key: that of the COX section in force, or in stage 5, before a COX section has passed, the one in the slot
under check that the fused hash names. -/
def vendorKey (s : State) : List Byte :=
  let k := (coxSectionOf s (image s)).2.2.take 96
  if (image s).cox != [] then (image s).cox.take 96 else if sha384 k = s.fuses.vendorHash.val then k else []

/-- The end of a response: part 0 is only kept; part 1 is verified over the challenge block (R231). -/
def endDebug (s : State) (l : LongService) : State :=
  match s.challenge with
  | none => endLong s l cWrongState []
  | some c =>
    if field l.args 8 1 = 0 then endLong s l 0 (bytesOf 1 (rdf s .coxStat 0 5 4))
    else
      let key := if c.level = 1 then (image s).builderKey else vendorKey s
      let s1 := { s with challenge := none }
      if ecdsaVerify key c.block (c.partR.getD [] ++ l.results) then
        endLong (grant s1 c.level) l 0 (bytesOf 1 c.level)
      else endLong { s1 with authFails := s1.authFails + 1 } l cAuthFail []

/-- A challenge is valid for 10 s (R232). -/
def execChallengeExpiry (s : State) : Host.Outcome State Fault Refusal :=
  match s.challenge with
  | some c => if c.since + 10000000000 ≤ s.now then .next { s with challenge := none } else unchanged s
  | none => unchanged s

/-- Contexts that the debugger holds halted go on after the brk (R416): the end of its grant releases them, and the engines
of their sculls start what waits in their queues. -/
def resumeDebug (s : State) : State :=
  let s1 := forEach (s.ctxs.map (·.1))
    (fun k t => updCtx t k (fun c => { c with halt := if c.halt = .debug then .none else c.halt })) s
  let held (u : Nat) : Bool := match runKey s u with
    | some k => (ctxAt s k).halt == .debug
    | none => false
  forEach ((List.range 16).filter held) (fun u t => forEach allEngines (fun e v => startNext v u e) t) s1

/-- DBG_END withdraws level 1; at any other level it is answered WRONG_STATE (R233, R234). -/
def execDbgEnd (s : State) : Host.Outcome State Fault Refusal :=
  .next (serve s svDbgEnd (fun m =>
    if lockedOut s then answer s m cDebugLockout []
    else if rdf s .coxStat 0 5 4 ≠ 1 then answer s m cWrongState []
    else answer (resumeDebug (wrf s .coxStat 0 5 4 0)) m 0 []))

/-- ALIVE increments every 1 ms while Cox runs, and wraps (COX_STAT). -/
def execAliveTick (s : State) : Host.Outcome State Fault Refusal :=
  if coxHalted s || decide (s.now < s.aliveAt + 1000000) then unchanged s
  else .next { wrf s .coxStat 0 31 16 (rdf s .coxStat 0 31 16 + 1) with aliveAt := s.now }

end Sys2Proof.Machine
end

