-- ==== Sys2Proof/Machine/Views.lean ====
section
/-! DEFINITION. The registers whose contents follow the rest of the state: what a read of each finds. -/

namespace Sys2Proof.Machine

/-- The context that runs on scull `u`, if one does. -/
def shownCtx (s : State) (u : Nat) : Option Ctx :=
  if u < 16 then (scullAt s u).running.map (fun c => ctxAt s (ctxKey u c)) else none

/-- A field of the running context; zero when the scull is idle. -/
def ofCtx (s : State) (u : Nat) (f : Ctx → Nat) : Nat :=
  match shownCtx s u with
  | some c => f c
  | none => 0

/-- Place of the phase in STK_PHASE. -/
def phaseNum (p : Phase) : Nat :=
  match p with
  | .catch_ => 0
  | .drive => 1
  | .cutoff => 2
  | .recovery => 3

/-- STK_PHASE; frozen at the loss of STK_REFCLK (R45). -/
def phaseWord (s : State) : Nat :=
  if !s.timerOn && !s.refLost then 0
  else phaseNum s.phase * 2 ^ 24 + (if s.refLost then s.lossNs else strokeNs s) % 2 ^ 24

/-- The physical scull of logical scull `l` (R57). -/
def physical (s : State) (l : Nat) : Nat := if l < (s.fuses.idMap.val.headD 0).toNat then l else l + 1

def mapWord (s : State) (m : Nat) : Nat :=
  ((List.range 4).map (fun i => physical s (4 * m + i) * 256 ^ i)).sum

/-- The regatta stroke number RS (R534). -/
def regattaStroke (s : State) : Nat := unsigned 64 ((strokeNat s : Int) + s.rsOfs)

def bit (b : Bool) (n : Nat) : Nat := if b then 2 ^ n else 0

/-- SCL_STAT. -/
def sclStatWord (s : State) (u : Nat) : Nat :=
  let x := scullAt s u
  let work (e : Engine) : Bool := !(queueOf x e).isEmpty
  let scanBusy := ofCtx s u (fun c => if (match c.scan with | some k => k.running | none => false) then 1 else 0) == 1
  let dmaBusy := (List.range 4).any (fun n => (chAt x n).state == 1)
  bit x.running.isNone 30 + (x.running.getD 0) * 2 ^ 16 + bit (work .array) 0 + bit (work .schuss) 1 + bit (work .vector) 2
    + bit (work .scan || scanBusy) 3 + bit (work .dma || dmaBusy) 4

/-- SCL_QDEPTH. -/
def qdepthWord (s : State) (u : Nat) : Nat :=
  let x := scullAt s u
  rangesHeld s u * 2 ^ 20 + x.qDma.length * 2 ^ 16 + x.qScan.length * 2 ^ 13 + x.qVector.length * 2 ^ 8
    + x.qSchuss.length * 2 ^ 4 + x.qArray.length

/-- One array of a scull. -/
def arrAt (x : Scull) (a : Nat) : ArrayState := Tab.get (fun _ => ArrayState.reset) x.arrays a
/-- The context whose number the shadow plane carries: the one that last loaded it (R290). -/
def ArrayState.shadowOwner (v : ArrayState) : Nat := if v.active = 0 then v.loader1 else v.loader0
/-- Context `c` loads the shadow plane. -/
def ArrayState.load (v : ArrayState) (c : Nat) : ArrayState :=
  if v.active = 0 then { v with loader1 := c } else { v with loader0 := c }
def setArr (x : Scull) (a : Nat) (v : ArrayState) : Scull :=
  { x with arrays := Tab.set id (fun _ => ArrayState.reset) a v x.arrays }

/-- The mode an array runs in: that of the started tile instruction that names it (R281). -/
def arrMode (x : Scull) (a : Nat) : Nat :=
  match x.qArray.head? with
  | some q =>
    if q.started && q.major == 0x30 && (tMask q.w).testBit a then
      match iMinor q.w % 4 with
      | 0 => 1
      | 1 => 2
      | 2 => 1
      | _ => 3
    else 0
  | none => 0

/-- ARR_STAT and ARR_OWNER: an arr.wld in flight makes the shadow LOADING (R287). -/
def arrStatWord (s : State) (u : Nat) : Nat :=
  let x := scullAt s u
  let loading (a : Nat) : Bool := x.qArray.any (fun q => q.major == 0x31 && wA q.w == a)
  ((List.range 4).map (fun a => ((if loading a then 1 else (arrAt x a).shadow % 4) + arrMode x a * 4) * 16 ^ a)).sum

def arrOwnerWord (s : State) (u : Nat) : Nat :=
  let x := scullAt s u
  ((List.range 4).map (fun a => (match (arrAt x a).activeOwner with
    | some c => 128 + c % 64
    | none => 0) * 256 ^ a)).sum

/-- A window of context `c` on scull `u` (R256, R257): base and length. -/
def windowOf (s : State) (u c : Nat) : Nat × Nat := Tab.get (fun _ => (0, 0)) (scullAt s u).windows c

/-- The scan of the running context. -/
def shownScan (s : State) (u : Nat) : Option Scan :=
  match shownCtx s u with
  | some c => c.scan
  | none => none

def scnLenOf (k : Scan) : Nat := k.w0.toNat % 2 ^ 20 + 1

/-- SCN_STAT. -/
def scnStatWord (s : State) (u : Nat) : Nat :=
  match shownScan s u with
  | some k =>
    if k.running then
      let w := k.w0.toNat
      2 ^ 31 + bit (k.w0.getLsbD 43) 30 + bit (k.w0.getLsbD 43 && k.staged == 0) 29 + w / 2 ^ 60 % 4 * 2 ^ 27
        + w / 2 ^ 57 % 8 * 2 ^ 24 + w / 2 ^ 51 % 8 * 2 ^ 21
    else 0
  | none => 0

/-- SVC_ISTAT: zero for an instance that the image in force does not hold. -/
def istatWord (s : State) (i : Nat) : Nat :=
  match modelOf s i with
  | some m =>
    let x := instAt s i
    x.header.toNat / 2 ^ 53 % 8 * 2 ^ 29 + x.header.toNat / 2 ^ 40 % 2 ^ 13 * 2 ^ 16 + x.alt % 16 * 2 ^ 12 + Nat.min 4 x.pending.length * 2 ^ 9
      + bit x.running.isSome 8 + classRank m.cls
  | none => 0

/-- RFX_LANE_b_l. -/
def laneWord (s : State) (b l : Nat) : Nat :=
  let x := Tab.get (fun _ => Lane.reset) (bankAt s b).lanes l
  let ms := match x.heatedAt with
    | some t => Nat.min 65535 ((s.now - t) / 1000000)
    | none => 0
  x.st % 4 * 2 ^ 30 + (if x.st = 0 then x.input % 32 * 2 ^ 16 else 0) + ms

/-- FLT_STAT. -/
def fltWord (s : State) : Nat := bit s.pinFaultN 31 + s.holding.length % 256 * 2 ^ 16 + s.holding.headD 0

/-- What a read of a computed register finds. -/
def view (s : State) (r : Reg) (i : Nat) : Nat :=
  match r with
  | .stkCountLo => s.strokeNo.toNat
  | .stkPhase => phaseWord s
  | .idScullMap => mapWord s i
  | .snsGd => groupDelay s i
  | .coxPend => ((List.range 16).map (fun m => bit (mbState s m == 2) m)).sum
  | .sclStat => sclStatWord s i
  | .sclQdepth => qdepthWord s i
  | .sclInuseV => ofCtx s i (fun c => c.inuseV.toNat)
  | .sclInuseT => ofCtx s i (fun c => c.inuseT.toNat)
  | .sclInuseC => ofCtx s i (fun c => c.inuseC.toNat)
  | .sclSpwBase => match (scullAt s i).running with
    | some c => (windowOf s i c).1
    | none => 0
  | .sclSpwLen => match (scullAt s i).running with
    | some c => (windowOf s i c).2
    | none => 0
  | .arrStat => arrStatWord s i
  | .arrOwner => arrOwnerWord s i
  | .schStat =>
    let serves (b : Nat) : Bool := rdf s .rfxBankStat b 31 29 != 0 && rdf s .rfxBankStat b 28 24 == i
    bit ((scullAt s i).qSchuss.any (·.started)) 0 + ((List.range 4).map (fun b => bit (serves b) (b + 2))).sum
  | .scnStat => scnStatWord s i
  | .scnProg => match shownScan s i with
    | some k => k.prog
    | none => 0
  | .scnLen => match shownScan s i with
    | some k => scnLenOf k
    | none => 0
  | .seqStat => match shownCtx s i with
    | some c => (seqCtl c).toNat
    | none => 0x21
  | .seqCr =>
    let c := (shownCtx s (i / 32)).getD Ctx.reset
    let v := (crGet c (i / 2 % 16)).toNat
    if i % 2 = 0 then v else v / 2 ^ 32
  | .dmaChStat =>
    let c := chAt (scullAt s (i / 4)) (i % 4)
    (if c.state = 0 then 0 else c.ctx % 64 * 256) + c.state % 8
  | .dmaChDesc => (chAt (scullAt s (i / 4)) (i % 4)).desc.toNat / 16
  | .svcIstat => istatWord s i
  | .rfxLane => laneWord s (i / 34) (i % 34)
  | .oplRsLo => regattaStroke s
  | .fltStat => fltWord s
  | _ => 0

/-- What a read of a register returns: the view, masked to its defined bits, or the stored value; a WO register reads
zero (R8). -/
def regValue (s : State) (r : Reg) (i : Nat) : Word :=
  if (regDesc r).acc = .wo then 0
  else if (regDesc r).blk = .img ∧ !s.imgShown then regReset (r, i)
  else if (regDesc r).view then BitVec.ofNat 32 (view s r i) &&& regMask r
  else rd s r i

end Sys2Proof.Machine
end

