-- ==== Sys2Proof/Machine/Flags.lean ====
section
/-! DEFINITION. The sticky flags and counters that the engines set (08_scull.md R254, R259, R263, R275;
10_number_formats.md R322 to R338; 11_functions_norms_softmax.md R343, R352 to R360). -/

namespace Sys2Proof.Machine

/-- The numeric sticky flags of a conversion (R325, R338). -/
def cvtSticky (s : State) (u : Nat) (f : CvtFlags) : State :=
  let s1 := if f.infOut then flag s .vecNumSticky u 4 else s
  let s2 := if f.nanInt then flag s1 .vecNumSticky u 3 else s1
  if f.sat then flag s2 .vecNumSticky u 1 else s2

/-- Saturating additions of integer accumulation (R323). -/
def satAcc (s : State) (u n : Nat) : State :=
  if n = 0 then s else bumpBy (flag s .vecNumSticky u 0) .vecSatCnt u n

/-- An accumulation gave infinity from finite inputs (R322). -/
def infOut (s : State) (u : Nat) (b : Bool) : State := if b then flag s .vecNumSticky u 4 else s

/-- `n` NaNs written while NTE = 0 (R334). -/
def nanMasked (s : State) (u n : Nat) : State :=
  if n = 0 then s else bumpBy (flag s .vecNumSticky u 2) .vecNanCnt u n

/-- A dead resource was read or stored (R263). -/
def deadRead (s : State) (u : Nat) (b : Bool) : State := if b then flag s .sclSticky u 0 else s

/-- The flags of a function's result (R343, R358). -/
def fnSticky (s : State) (u : Nat) (r : FnOut) : State :=
  let s1 := if r.domain then flag s .sfuSticky u 0 else s
  let s2 := if r.ovf then flag s1 .sfuSticky u 1 else s1
  if r.unf then flag s2 .sfuSticky u 2 else s2

/-- EMPTY_ROW (R352, R354). -/
def emptyRow (s : State) (u : Nat) (b : Bool) : State := if b then flag s .sfuSticky u 3 else s

/-- Cycles that requests lost on the banks of scull `u`, and whether the 16-cycle rule decided a grant there (R259). -/
def bankLost (s : State) (u cycles : Nat) (starve : Bool) : State :=
  let s1 := if cycles = 0 then s else bumpBy s .sclBankConf u cycles
  if starve then flag s1 .sclSticky u 1 else s1

/-- What the run of an engine instruction lost. -/
def runLost (s : State) (u : Nat) (err : EngineErr) : State := bankLost s u err.bankLost err.starve

/-- What a scan or a transfer lost, on each scull it reached. -/
def lossesOf (s : State) (l : List BankLoss) : State := forEach l (fun b t => bankLost t b.scull.val b.cycles b.starve) s

/-- Mark an entry of a register file as poison. -/
def markElem (t : Table Nat Elem) (x : Nat) : Table Nat Elem :=
  Tab.set id eDefault x { Tab.get eDefault t x with poison := true } t

/-- A parity error in an element of a register in use that the instruction reads (a scan reads the state register that it
writes): the element is poison, and PARITY is set (R275). -/
def parityHit (s : State) (u k : Nat) (q : QEntry) (hit : Option RegElem) : State :=
  let c := ctxAt s k
  let f := flag s .sclSticky u 2
  match hit with
  | none => s
  | some (.v n i) =>
    if q.rs.contains (rnV n.val) && vLive c n.val then putCtx f k { c with v := markElem c.v (vKey n.val i.val) } else s
  | some (.c n i) =>
    if (q.rs.contains (rnC n.val) || (q.major == 0x70 && q.ws.contains (rnC n.val))) && cLive c n.val then
      putCtx f k { c with c := markElem c.c (cKey n.val i.val) }
    else s
  | some (.t a n col row) =>
    if q.rs.contains (rnT a.val n.val) && tLive c a.val n.val then
      putCtx f k { c with t := markElem c.t (tKey a.val n.val col.val row.val) }
    else s

end Sys2Proof.Machine
end

