-- ==== Sys2Proof/Machine/Host.lean ====
section
/-! DEFINITION. The host port and telemetry (19_host_port_and_telemetry.md): request and response rings, crew telemetry
rings, interrupts, the endpoint's link, JTAG, and the UART queue. -/

namespace Sys2Proof.Machine

/-! ## Interrupts (R586, R587) -/

/-- Send what a vector's PBA bit records. -/
def unmaskVector (s : State) (v : Nat) : State :=
  if s.pba.getLsbD v && !msixMasked s v then fireVector { s with pba := s.pba &&& ~~~ (1#32 <<< v) } v else s

/-- Unmasking a vector: its mask bit clears and the recorded message is sent. -/
def execMsixUnmask (v : Fin 32) (s : State) : Host.Outcome State Fault Refusal :=
  let k := 4 * v.val + 3
  let w := Tab.get msixDefault s.msixTable k
  .next (unmaskVector { s with msixTable := Tab.set id msixDefault k (bput w 0 false) s.msixTable } v.val)

/-- The spacing of a vector ends: a condition that arose inside it is sent. -/
def execMsixSpacingEnd (v : Fin 32) (s : State) : Host.Outcome State Fault Refusal :=
  if s.msgWaiting.getLsbD v.val && decide (Tab.get zeroDefault s.msgAt v.val ≤ s.now) then
    .next (fireVector { s with msgWaiting := s.msgWaiting &&& ~~~ (1#32 <<< v.val) } v.val)
  else unchanged s

/-- PROD ≠ CONS has held for 1 ms without a message. -/
def execMsixIdleTimer (r : Fin 8) (s : State) : Host.Outcome State Fault Refusal :=
  if ringUsed s r.val != 0 && decide (Tab.get zeroDefault s.ringSince r.val + 1000000 ≤ s.now) then
    .next (fireVector s r.val)
  else unchanged s

/-- HST_IRQ_SET: bit j raises vector 12 + j. -/
def irqSet (s : State) (val : Word) : State :=
  forEach ((List.range 20).filter (fun j => bget val j)) (fun j t => fireVector t (12 + j)) (reservedCheck s .hstIrqSet val)

def execHstIrqSet (rq : Requester) (val : Word) (s : State) : Host.Outcome State Fault Refusal :=
  .next (guarded s rq .hst 0x28 (fun t => irqSet t val))

/-! ## Response ring (R579, R580) -/

/-- Push an entry of 16 words into the response ring. -/
def pushResponse (s : State) (ws : List Word) : State :=
  let prod := rd s .hstRspProd 0
  if prod - rd s .hstRspCons 0 = 64 then bump (flag s .hstSticky 0 1) .hstRspDrop 0
  else
    let base := prod.toNat % 64 * 16
    let s1 := forEach (List.range 16) (fun i t => wr t .hstRspRing (base + i) (ws.getD i 0)) s
    fireVector (wr s1 .hstRspProd 0 (prod + 1)) 9

/-- The stage of the stern core. -/
def stageWords (s : State) : List Word := (List.range 16).map (fun i => rd s .hstRspStage i)

def execHstRspPush (rq : Requester) (s : State) : Host.Outcome State Fault Refusal :=
  .next (guarded s rq .hst 0x140 (fun t => pushResponse t (stageWords t)))

/-! ## Request ring (R578, R579) -/

/-- The request window is open. -/
def windowOpen (s : State) : Bool :=
  match s.winOpen with
  | some t => decide (s.now < t + 1000000)
  | none => false

/-- The mark of the next request, and the state with the window's count. -/
def markRequest (s : State) : Nat × State :=
  let lim := rdf s .hstCfg 0 7 0
  if !s.run then (cWrongState, s)
  else if lim = 0 then (cNotPermitted, s)
  else if windowOpen s then
    if lim ≤ s.winCount then (cRetryAfter, s) else (0, { s with winCount := s.winCount + 1 })
  else (0, { s with winOpen := some s.now, winCount := 1 })

/-- Strokes left in the window, rounded up. -/
def windowLeft (s : State) : Nat :=
  match s.winOpen with
  | some t => strokesOf s (t + 1000000 - s.now)
  | none => 0

/-- Take slot `k`: mark it, and answer it when the mark is not 0. -/
def takeSlot (s : State) (k : Nat) : State :=
  let base := k % 64 * 16
  let (mark, s1) := markRequest s
  let w0 := rd s1 .hstReqRing base
  let s2 := wr s1 .hstReqRing base (fput w0 31 16 mark)
  if mark = 0 then s2
  else
    let wait := if mark = cRetryAfter then windowLeft s2 else 0
    pushResponse s2
      [fput (fput 0 15 0 (fget w0 15 0)) 31 16 mark, rd s2 .hstReqRing (base + 1),
       BitVec.ofNat 32 (0x41 + wait % 2 ^ 16 * 2 ^ 16)]

/-- A write of HST_REQ_PROD by the host. -/
def reqProd (s : State) (val : Word) : State :=
  let prod := rd s .hstReqProd 0
  let cons := rd s .hstReqCons 0
  if 64 < (val - cons).toNat then denied s
  else
    let n := if (prod - cons).toNat ≤ (val - cons).toNat then (val - prod).toNat else 0
    wr (forEach (List.range n) (fun i t => takeSlot t (prod.toNat + i)) s) .hstReqProd 0 val

def execHstReqProd (val : Word) (s : State) : Host.Outcome State Fault Refusal := .next (reqProd s val)

def execRequestWindowClose (s : State) : Host.Outcome State Fault Refusal :=
  if s.winOpen.isSome && !windowOpen s then .next { s with winOpen := none, winCount := 0 } else unchanged s

/-! ## Telemetry rings (R582, R587, R590, R591) -/

/-- A free-running count lies beyond another: less than 2^31 ahead of it (assumption 129). -/
def beyond (a b : Word) : Bool := a != b && decide ((a - b).toNat < 2 ^ 31)

/-- A CONS write of the host. -/
def ringCons (s : State) (r : Nat) (val : Word) : State :=
  if beyond val (rd s .telProd r) then flag s .telSticky 0 2
  else
    let s1 := wr s .telCons r val
    { s1 with ringSince := Tab.set id zeroDefault r s1.now s1.ringSince }

def execTelRingCons (r : Fin 8) (val : Word) (s : State) : Host.Outcome State Fault Refusal := .next (ringCons s r.val val)

/-- A PROD write: read-only for a device ring; on an enabled crew ring it publishes records. -/
def ringProd (s : State) (r : Nat) (val : Word) : State :=
  if r < 2 then (if ringOn s r then flag s .telSticky 0 1 else s)
  else if !ringOn s r then wr s .telProd r val
  else if ringSize s r < (val - rd s .telCons r).toNat then flag s .telSticky 0 0
  else
    let s1 := if ringUsed s r = 0 then { s with ringSince := Tab.set id zeroDefault r s.now s.ringSince } else s
    ringUpdated (wr s1 .telProd r val) r

def execTelRingProd (rq : Requester) (r : Fin 8) (val : Word) (s : State) : Host.Outcome State Fault Refusal :=
  .next (guarded s rq .tel (0x108 + 0x20 * r.val) (fun t => ringProd t r.val val))

/-- A ring lies inside the window. -/
def ringFits (s : State) (r : Nat) : Bool :=
  decide ((rd s .telBase r).toNat + ringSize s r * 64 ≤ telBytes)

/-- Setting EN clears PROD, CONS and SEQ; a ring that extends beyond the window is not enabled. -/
def enableRing (s : State) (r : Nat) : State :=
  if ringFits s r then
    let s1 := wr (wr s .telProd r 0) .telCons r 0
    wrb { s1 with ringSeq := Tab.set id zeroDefault r 0 s1.ringSeq } .telCfg 0 r true
  else flag s .telSticky 0 1

/-- A write of TEL_CFG. -/
def telCfgWrite (s : State) (val : Word) : State :=
  forEach (List.range 8) (fun r t =>
    if bget val r then (if ringOn t r then t else enableRing t r) else wrb t .telCfg 0 r false)
    (reservedCheck s .telCfg val)

def execTelCfg (rq : Requester) (val : Word) (s : State) : Host.Outcome State Fault Refusal :=
  .next (guarded s rq .tel 0 (fun t => telCfgWrite t val))

/-- BASE and SIZE_LOG2 are not written while the ring's EN bit is set. -/
def ringSetup (s : State) (r : Reg) (i : Nat) (v : Word) : State :=
  if ringOn s i then flag (reservedCheck s r v) .telSticky 0 1 else plainWrite s r i v

/-! ## The link (R573, R574, R593, R594) -/

/-- What the endpoint loses with its link or its reset: the link state. -/
def linkDown (s : State) : State := wr s .hstStat 0 0

def execPcieLinkDown (s : State) : Host.Outcome State Fault Refusal := .next (linkDown s)

/-- PERST_N resets the endpoint only: its link, its MSI-X table and PBA. -/
def execPerstN (s : State) : Host.Outcome State Fault Refusal :=
  .next { linkDown s with perst := true, msixTable := [], pba := 0, msgWaiting := 0 }

/-- On link-up the request and response counts are 0. -/
def execPcieLinkUp (speed width : Fin 5) (s : State) : Host.Outcome State Fault Refusal :=
  if speed.val = 0 ∨ ¬ (width.val = 1 ∨ width.val = 2 ∨ width.val = 4) then unchanged s
  else
    let s1 := wr (wr (wr (wr s .hstReqProd 0 0) .hstReqCons 0 0) .hstRspProd 0 0) .hstRspCons 0 0
    .next { wr s1 .hstStat 0 (BitVec.ofNat 32 (2 ^ 31 + speed.val * 2 ^ 28 + width.val * 2 ^ 24)) with
      perst := false }

/-- A host read that the fabric does not answer within 1 ms. -/
def execHostReadTimeout (s : State) : Host.Outcome State Fault Refusal :=
  .next { flag s .hstSticky 0 3 with rdData := 0, rdEp := false }

/-! ## JTAG and UART (R588, R589, R600) -/

/-- IDCODE: version 0x1, part 0x7216, the fused manufacturer code, and the 1 of IEEE 1149.1 (R588). -/
def idcode : Word := fput (fput (fput 1 11 1 Config.jep106.toNat) 27 12 0x7216) 31 28 1

/-- The device register that the loaded JTAG instruction selects, where it is IDCODE. -/
def jtagData (s : State) : Option Word := if s.jtagIr = Config.irIdcode then some idcode else none

def execJtagInstruction (ir : BitVec 8) (s : State) : Host.Outcome State Fault Refusal :=
  if s.run && (ir == Config.irExtest || ir == Config.irClamp || ir == Config.irHighz) then
    .next { flag s .hstSticky 0 2 with jtagIr := 0xFF }
  else .next { s with jtagIr := ir }

/-- The line at the front of the UART queue has been sent. -/
def execUartLineSent (s : State) : Host.Outcome State Fault Refusal :=
  .next { s with uart := s.uart.drop 1, uartTx := match s.uart with | l :: _ => uartText l | [] => s.uartTx }

end Sys2Proof.Machine
end

