-- ==== Sys2Proof/Machine/Bus.lean ====
section
/-! DEFINITION. Register accesses (02_package_and_islands.md R63, R64, R645; 00_scope.md R8, R9, R646): rights and map
first, then width and alignment, then the register; and the host's BARs (19_host_port_and_telemetry.md R575, R576). -/

namespace Sys2Proof.Machine

/-! ## Reads -/

/-- Side effects of a register read: a read of the low half of a stroke number snapshots the high half (R37). -/
def readEffect (s : State) (r : Reg) (_i : Nat) : State :=
  match r with
  | .stkCountLo => wr s .stkCountHi 0 (BitVec.ofNat 32 (strokeNat s / 2 ^ 32))
  | .oplRsLo => wr s .oplRsHi 0 (BitVec.ofNat 32 (regattaStroke s / 2 ^ 32))
  | _ => s

/-- The registers of a block's sub-block that offset `o` leads to. -/
def regAt (b : Block) (o : Nat) : Option (Reg × Nat) := regFind o (regsOf b)

/-- Every byte that an access of `n` bytes at device address `a` touches lies in a register block and satisfies `ok`. -/
def touches (s : State) (a n : Nat) (ok : Block → Nat → Bool) : Bool :=
  (List.range (Nat.max 1 n)).all (fun i => match placeOf s (a + i) with
    | .reg b o => ok b o
    | _ => false)

/-- Rights and map for an access of `n` bytes at device address `a` (R63, R64): the register it starts in, when its
requester may make all of it. -/
def busAllowed (s : State) (rq : Requester) (a n : Nat) (write : Bool) : Option (Block × Nat) :=
  if touches s a n (fun b o => mayReach s rq b o write) then
    match placeOf s a with
    | .reg b o => some (b, o)
    | _ => none
  else none

/-- A register read: the state after it, the data, and whether it was allowed. -/
def busRead (s : State) (rq : Requester) (a n : Nat) : State × Word × Bool :=
  match busAllowed s rq a n false with
  | none => (addrFault s rq, 0, false)
  | some (b, o) =>
    if !aligned32 a n then (flag s .fltSticky 0 2, 0, true)
    else match regAt b o with
      | some (r, i) => (readEffect s r i, regValue s r i, true)
      | none => (s, 0, true)

/-! ## Writes -/

/-- SNS_CAL_REQ: a reserved KIND is out of range. -/
def calReqWrite (s : State) (rq : Requester) (v : Word) : State :=
  let s1 := reservedCheck s .snsCalReq v
  if !rangeOk s .snsCalReq 0 v then rejectWrite s1 .sns else calWrite s1 rq (fget v 9 8 == 1) (fget v 5 0)

/-- A write to the register itself, by its own rule where it has one. -/
def regWrite (s : State) (rq : Requester) (r : Reg) (i : Nat) (v : Word) : State :=
  match r with
  | .mbReq => mbWrite s rq (i / 16) (i % 16) v
  | .mbCtl => mbControl (reservedCheck s r v) rq i v
  | .snsCalReq => calReqWrite s rq v
  | .hstIrqSet => irqSet s v
  | .hstRspPush => pushResponse s (stageWords s)
  | .hstReqProd => if rq = .host then reqProd s v else s
  | .hstRspCons => if rq = .host then wr s .hstRspCons 0 v else s
  | .telCfg => telCfgWrite s v
  | .telBase => ringSetup s r i v
  | .telSize => ringSetup s r i v
  | .telProd => ringProd s i v
  | .telCons => if rq = .host then ringCons s i v else s
  | _ => plainWrite s r i v

/-- A register write: the state after it, and whether it was allowed. -/
def busWrite (s : State) (rq : Requester) (a n : Nat) (v : Word) : State × Bool :=
  match busAllowed s rq a n true with
  | none => (addrFault s rq, false)
  | some (b, o) =>
    if !aligned32 a n then (flag s .fltSticky 0 2, true)
    else match regAt b o with
      | some (r, i) => (regWrite s rq r i v, true)
      | none => (reservedWrite s v, true)

/-! ## The host's BARs -/

/-- The words of mailbox 14 and the counts that a host may write (R576). -/
def hostWritable (b : Block) (o : Nat) : Bool :=
  match b with
  | .cox => inArea o 14 && (decide (o < 0x1E40) || decide (0x1E80 ≤ o ∧ o < 0x1E84))
  | .hst => decide (0x10 ≤ o ∧ o < 0x14) || decide (0x1C ≤ o ∧ o < 0x20)
  | .tel => decide (0x100 ≤ o ∧ o < 0x200) && decide (0xC ≤ o % 0x20 ∧ o % 0x20 < 0x10)
  | _ => false

/-- What the host reads before Run: ID, IMG, PWR, the response and STAT of mailbox 14 (R203, R241), and the counts of
the request path, whose requests are then marked WRONG_STATE (R578). -/
def hostEarlyRead (b : Block) (o : Nat) : Bool :=
  match b with
  | .id => true
  | .img => true
  | .pwr => true
  | .cox => decide (0x1E40 ≤ o ∧ o < 0x1E80) || decide (0x1E84 ≤ o ∧ o < 0x1E88)
  | .hst => decide (0x10 ≤ o ∧ o < 0x20)
  | _ => false

/-- Whether BAR 0 performs the host's access to a byte (R203, R208, R576). -/
def hostByte (s : State) (write : Bool) (b : Block) (o : Nat) : Bool :=
  mayReach s .host b o write && (if write then hostWritable b o && (s.run || b != .tel)
    else s.run || hostEarlyRead b o)

/-- Whether BAR 0 performs the host's access to all of `n` bytes at `off`. -/
def hostBar0 (s : State) (off n : Nat) (write : Bool) : Bool := touches s (regBase + off) n (hostByte s write)

/-- Bytes `k` to `k + n - 1` of a word, and the word with them replaced. -/
def wordBytes (w : Word) (k n : Nat) : Nat := natOf (slice (bytesOf 4 w.toNat) k n)
def setBytes (w : Word) (k n v : Nat) : Word := BitVec.ofNat 32 (natOf (splice (bytesOf 4 w.toNat) k (bytesOf n v)))

/-- Read `n` bytes at byte `o` of an array of words. -/
def wordsRead (f : Nat → Word) (o n : Nat) : Nat :=
  natOf ((List.range n).map (fun i => BitVec.ofNat 8 (wordBytes (f ((o + i) / 4)) ((o + i) % 4) 1)))

/-- A request-ring slot is pending: between CONS and PROD (R578). -/
def slotPending (s : State) (k : Nat) : Bool :=
  let cons := rd s .hstReqCons 0
  decide ((BitVec.ofNat 32 k - cons).toNat % 64 < (rd s .hstReqProd 0 - cons).toNat)

/-- Write bytes into words of a register family. -/
def ringWrite (s : State) (r : Reg) (o n v : Nat) : State :=
  forEach (List.range n) (fun i t =>
    wr t r ((o + i) / 4) (setBytes (rd t r ((o + i) / 4)) ((o + i) % 4) 1 (v / 256 ^ i % 256))) s

/-- A write into the MSI-X table; clearing a mask bit sends a recorded message. -/
def msixWrite (s : State) (o n v : Nat) : State :=
  let s1 := forEach (List.range n) (fun i t =>
    let k := (o + i) / 4
    let x := setBytes (Tab.get msixDefault t.msixTable k) ((o + i) % 4) 1 (v / 256 ^ i % 256)
    { t with msixTable := Tab.set id msixDefault k x t.msixTable }) s
  unmaskVector s1 (o / 16)

/-- BAR 4, a read: its data, or `none` where nothing is mapped or the host may not read (R575, R203, R595). -/
def bar4Read (s : State) (o n : Nat) : Option Nat :=
  if o + n ≤ 0x100000 then if s.run then some (natOf (Tab.getMany memDefault s.staging o n)) else none
  else if 0x100000 ≤ o ∧ o + n ≤ 0x101000 then some (wordsRead (fun i => rd s .hstReqRing i) (o - 0x100000) n)
  else if 0x101000 ≤ o ∧ o + n ≤ 0x102000 then some (wordsRead (fun i => rd s .hstRspRing i) (o - 0x101000) n)
  else if 0x110000 ≤ o ∧ o + n ≤ 0x110200 then
    if s.run then some (wordsRead (fun i => Tab.get msixDefault s.msixTable i) (o - 0x110000) n) else none
  else if 0x111000 ≤ o ∧ o + n ≤ 0x111008 then
    if s.run then some (s.pba.toNat / 256 ^ (o - 0x111000) % 256 ^ n) else none
  else none

/-- BAR 4, a write: what it performs, or `none`. -/
def bar4Write (s : State) (o n v : Nat) : Option State :=
  if o + n ≤ 0x100000 then
    if s.run then some { s with staging := Tab.setMany memDefault o (bytesOf n v) s.staging } else none
  else if 0x100000 ≤ o ∧ o + n ≤ 0x101000 then
    let k := (o - 0x100000) / 64
    if slotPending s k || slotPending s ((o + n - 1 - 0x100000) / 64) then none
    else some (ringWrite s .hstReqRing (o - 0x100000) n v)
  else if 0x110000 ≤ o ∧ o + n ≤ 0x110200 then if s.run then some (msixWrite s (o - 0x110000) n v) else none
  else none

/-- A refused host access: DENIED, and zero data for a read. -/
def hostDenied (s : State) : State := { denied s with rdData := 0 }

/-- One host read. A completion that carries poison has its EP bit set (R592). -/
def hostRead (s' : State) (bar off n : Nat) : State :=
  let s := { s' with rdEp := false }
  if bar = 0 then
    if hostBar0 s off n false then
      let (t, v, _) := busRead s .host (regBase + off) n
      { t with rdData := v.zeroExtend 64 }
    else hostDenied s
  else if bar = 1 then
    if s.run && decide (off + n ≤ telBytes) then
      let a := telWin s + off
      let t := if poisonIn s a n then { flag s .hstSticky 0 4 with rdEp := true } else s
      { t with rdData := BitVec.ofNat 64 (natOf (memRead s a n)) }
    else hostDenied s
  else match bar4Read s off n with
    | some v => { s with rdData := BitVec.ofNat 64 v }
    | none => hostDenied s

/-- One host write. -/
def hostWrite (s : State) (bar off n : Nat) (v : DWord) : State :=
  if bar = 0 then
    if hostBar0 s off n true then (busWrite s .host (regBase + off) n (v.truncate 32)).1 else denied s
  else if bar = 1 then denied s
  else match bar4Write s off n v.toNat with
    | some t => t
    | none => denied s

/-- A host access arrives when the link is up; before stage 3 passes the endpoint does not answer (R574). -/
def execHostAccess (bar : Fin 3) (off : Nat) (bytes : Nat) (write : Option DWord) (s : State) :
    Host.Outcome State Fault Refusal :=
  if s.perst || !rdb s .hstStat 0 31 || decide (stageOf s < 4) then unchanged s
  else match write with
    | none => .next (hostRead s bar.val off bytes)
    | some v => .next (hostWrite s bar.val off bytes v)

/-! ## The register commands -/

/-- REGISTER_WRITE: the host's takes the form of R576; Cox's own are the image lists'. -/
def execRegisterWrite (rq : Requester) (addr : Nat) (bytes : Nat) (val : DWord) (s : State) :
    Host.Outcome State Fault Refusal :=
  if rq = .host then
    if regBase ≤ addr then .next (hostWrite s 0 (addr - regBase) bytes val) else .next (denied s)
  else .next (busWrite s rq addr bytes (val.truncate 32)).1

/-- A read of a register by requester `rq`, its data returned to it. -/
def readReg (s : State) (rq : Requester) (r : Reg) (i : Nat) : State :=
  let a := regAddr r i
  if rq = .host then hostRead s 0 (a - regBase) 4
  else
    let (t, v, _) := busRead s rq a 4
    { t with rdData := v.zeroExtend 64 }

/-- STK_COUNT_LO_READ (R37). -/
def execStkCountLoRead (rq : Requester) (s : State) : Host.Outcome State Fault Refusal :=
  .next (readReg s rq .stkCountLo 0)

/-- OPL_RS_LO_READ (R37). -/
def execOplRsLoRead (rq : Requester) (s : State) : Host.Outcome State Fault Refusal :=
  .next (readReg s rq .oplRsLo 0)

end Sys2Proof.Machine
end

