-- ==== Sys2Proof/Machine/Memory.lean ====
section
/-! DEFINITION. Context address spaces (14_memory_translation_dma.md R429 to R441): page tables in HBM, the walk, the
accesses of a context, the mapping services of Cox, and the patrol scrubber. -/

namespace Sys2Proof.Machine

/-! ## Page tables (R433, R434) -/

/-- The address space of a context key: 64 is the stern core's. -/
def spaceOf (k : Nat) : Nat := if k / 64 = 16 then 64 else k % 64

/-- Base of the level-1 table of an address space, by MMU_ROOTc of eight `e`. -/
def rootOf (s : State) (e space : Nat) : Nat :=
  (if space = 64 then (rd s .mmuRootSc e).toNat else (rd s .mmuRoot (e * 64 + space)).toNat) * 65536

/-- The 8 bytes of a table entry. -/
def entryAt (s : State) (a : Nat) : Nat := natOf (memRead s a 8)

def pteV (x : Nat) : Bool := x % 2 == 1
def pteLrg (x : Nat) : Bool := x / 2 % 2 == 1
def pteW (x : Nat) : Bool := x / 4 % 2 == 1
def pteX (x : Nat) : Bool := x / 8 % 2 == 1
def ptePin (x : Nat) : Bool := x / 16 % 2 == 1

/-- What a table walk finds at a context address: the leaf entry and the page size, or `none` when it is invalid; with
whether a table word was poisoned. -/
def walk (s : State) (root va : Nat) : Option (Nat × Nat) × Bool :=
  let a1 := root + 8 * (va / 2 ^ 21 % 32768)
  let e1 := entryAt s a1
  if !pteV e1 then (none, poisonIn s a1 8)
  else if pteLrg e1 then (some (e1, 2 ^ 21), poisonIn s a1 8)
  else
    let a2 := e1 / 256 % 2 ^ 40 * 256 + 8 * (va / 2 ^ 16 % 32)
    let e2 := entryAt s a2
    (if pteV e2 && !pteLrg e2 then some (e2, 2 ^ 16) else none, poisonIn s a1 8 || poisonIn s a2 8)

/-- The device address of a context address under a leaf entry. -/
def leafAddr (e size va : Nat) : Nat := e / 2 ^ 16 % 2 ^ 32 * 2 ^ 16 / size * size + va % size

/-- Kinds of access. -/
inductive Acc where
  | read | write | fetch
  deriving DecidableEq, Repr

/-- First never-mapped context address above the register blocks (R429). -/
def neverMapped : Nat := 0xF001A0000

/-- The TREND contexts (R438): those whose MODEL instances are all of class TREND. -/
def demandPaged (s : State) (space : Nat) : Bool :=
  space != 64 && ((image s).models.filter (fun m => m.ctx == space)).all (fun m => m.cls == .trend)

/-- A lookup in the TLB of the requester's eight: pinned mappings of a REFLEX, STROKE or GUARD context are locked and
never miss (R436); for the others the model takes a free choice (R435). -/
def tlbLookup (s : State) (e space : Nat) : Bool × State :=
  if space = 64 || demandPaged s space then
    let s1 := { s with free := s.free + 1 }
    if Config.tlbMiss s.free then (true, if s.run then bump s1 .mmuMissCnt e else s1) else (false, s1)
  else (false, s)

/-- Translate: the state after it, and the device address or the REASON of R439. -/
def translate (s : State) (u space va : Nat) (acc : Acc) : State × Sum Nat Nat :=
  if 2 ^ 36 ≤ va || decide (neverMapped ≤ va) then (s, .inl 3)
  else
    let e := eightOf u
    let (miss, s1) := tlbLookup s e space
    let (leaf, bad) := walk s1 (rootOf s1 e space) va
    if miss && bad then (flag s1 .mmuSticky e 0, .inl 5)
    else match leaf with
      | none => (s1, .inl 0)
      | some (x, size) =>
        if acc == .write && !pteW x then (s1, .inl 1)
        else if acc == .fetch && !pteX x then (s1, .inl 2)
        else (s1, .inr (leafAddr x size va))

/-- The trap number of a translation failure (R438, R439). -/
def faultNum (s : State) (space reason : Nat) : Nat :=
  if reason = 0 && demandPaged s space then tPageFault else tXlate

/-- Count a translation fault. -/
def countFault (s : State) (u : Nat) : State := if s.run then bump s .mmuFaultCnt (eightOf u) else s

/-! ## Accesses of a context -/

/-- The answer of a read. -/
inductive Got where
  | data (bytes : List Byte) (poison : Bool) (dev : Nat)
  | fault (num reason : Nat)
  deriving DecidableEq, Repr

/-- The requester's rights at a register block, and HBM or scratchpad that exists. -/
def readDev (s : State) (rq : Requester) (a n : Nat) : State × Got :=
  match placeOf s a with
  | .hbm => (s, .data (memRead s a n) (poisonIn s a n) a)
  | .spad _ => (s, .data (memRead s a n) (poisonIn s a n) a)
  | .reg _ _ =>
    let (t, v, ok) := busRead s rq a n
    (t, if ok then .data (slice (bytesOf 4 v.toNat) 0 n) false a else .fault tXlate 4)
  | .none => (addrFault s rq, .fault tXlate 4)

/-- Read `n` bytes at a context address that is aligned to them. -/
def ctxRead (s : State) (u k va n : Nat) : State × Got :=
  let sp := spaceOf k
  match translate s u sp va .read with
  | (t, .inl r) => (countFault t u, .fault (faultNum t sp r) r)
  | (t, .inr a) =>
    match readDev t (reqOfKey k) a n with
    | (t2, .fault x r) => (countFault t2 u, .fault x r)
    | g => g

/-- Write bytes at a device address for a requester: the state, and whether the address was reachable. -/
def writeDev (s : State) (rq : Requester) (a : Nat) (bs : List Byte) : State × Bool :=
  match placeOf s a with
  | .hbm => (memWrite s a bs, true)
  | .spad _ => (memWrite s a bs, true)
  | .reg _ _ => busWrite s rq a bs.length (BitVec.ofNat 32 (natOf bs))
  | .none => (addrFault s rq, false)

/-- Poison the words of [a, a + n) that the bytes touch. -/
def poisonRange (s : State) (a n : Nat) : State :=
  forEach (List.range ((a + n + 7) / 8 - a / 8)) (fun i t => poisonWord t ((a / 8 + i) * 8)) s

/-- The answer of a write: performed, a fault, or a narrow write into a poisoned word (R426), with its device address. -/
inductive Put where
  | ok
  | fault (num reason : Nat)
  | poisoned (dev : Nat)
  deriving DecidableEq, Repr

/-- Write bytes, with their poison mark, at a context address that is aligned to them. -/
def ctxWrite (s : State) (u k va : Nat) (bs : List Byte) (poison : Bool) : State × Put :=
  let sp := spaceOf k
  match translate s u sp va .write with
  | (t, .inl r) => (countFault t u, .fault (faultNum t sp r) r)
  | (t, .inr a) =>
    if (bs.length < 8) && poisonIn t a bs.length then (t, .poisoned a)
    else match writeDev t (reqOfKey k) a bs with
      | (t2, false) => (countFault t2 u, .fault tXlate 4)
      | (t2, true) => (if poison && decide (a < regBase) then poisonRange t2 a bs.length else t2, .ok)

/-- Device address of local offset `o` for `n` bytes of context `c` on scull `u`; `none` is SPAD_RANGE (R256). -/
def localAddr (s : State) (u c o n : Nat) : Option Nat :=
  let w := windowOf s u c
  if o + n ≤ w.2 then some (spadAddr u (w.1 + o)) else none

/-- Read local bytes with their poison. -/
def localRead (s : State) (u c o n : Nat) : Option (List Byte × Bool) :=
  (localAddr s u c o n).map (fun a => (memRead s a n, poisonIn s a n))

/-- Write local bytes. -/
def localWrite (s : State) (u c o : Nat) (bs : List Byte) : State :=
  match localAddr s u c o bs.length with
  | some a => memWrite s a bs
  | none => s

/-! ## Building tables (R431 to R434, R457) -/

/-- Base of the page tables of the image in force, a multiple of 256 KiB: one GiB of HBM for each flash slot, in which Cox
chooses (R434; assumption 7). -/
def tablesAt (slot : Nat) : Nat := 0x600000000 + slot % 2 * 0x40000000 + Config.tableBase slot % 256 * 0x40000

/-- The flash slot whose tables an address space uses: in a changeover a switched context uses the target's (R556). -/
def spaceSlot (s : State) (space : Nat) : Nat :=
  if s.chg.active && s.chg.moved.contains space then s.chg.slot else (image s).slot

def l1At (s : State) (space : Nat) : Nat := tablesAt (spaceSlot s space) + space * 0x40000
def l2At (s : State) (space l1 : Nat) : Nat := tablesAt (spaceSlot s space) + 65 * 0x40000 + (space * 32768 + l1) * 256
/-- The allotment table page of an address space. -/
def allotPageAt (s : State) (space : Nat) : Nat := tablesAt (spaceSlot s space) + 0x30000000 + space * 65536

def putEntry (s : State) (a x : Nat) : State := memWrite s a (bytesOf 8 x)

/-- Flags of an entry from PIN, X and W. -/
def pteFlags (pin x w : Bool) : Nat := bit pin 4 + bit x 3 + bit w 2 + 1

/-- Commit a 64 KiB page. -/
def mapSmall (s : State) (space va pa flags : Nat) : State :=
  let l1 := va / 2 ^ 21 % 32768
  let s1 := putEntry s (l1At s space + 8 * l1) (l2At s space l1 + 1)
  putEntry s1 (l2At s space l1 + 8 * (va / 2 ^ 16 % 32)) (pa / 65536 * 65536 + flags)

/-- Commit a 2 MiB page. -/
def mapLarge (s : State) (space va pa flags : Nat) : State :=
  putEntry s (l1At s space + 8 * (va / 2 ^ 21 % 32768)) (pa / 2 ^ 21 * 2 ^ 21 + flags + 2)

/-- Map `n` pages of 64 KiB, using 2 MiB pages wherever address and length allow (R431). `fuel` bounds the pages. -/
def mapRange (s : State) (space va pa flags : Nat) : Nat → Nat → State
  | 0, _ => s
  | _ + 1, 0 => s
  | f + 1, n =>
    if 32 ≤ n && va % 2 ^ 21 == 0 && pa % 2 ^ 21 == 0 then
      mapRange (mapLarge s space va pa flags) space (va + 2 ^ 21) (pa + 2 ^ 21) flags f (n - 32)
    else mapRange (mapSmall s space va pa flags) space (va + 2 ^ 16) (pa + 2 ^ 16) flags f (n - 1)

/-- Mappings that such a range takes. -/
def rangeEntries (va pa : Nat) : Nat → Nat → Nat
  | 0, _ => 0
  | _ + 1, 0 => 0
  | f + 1, n =>
    if 32 ≤ n && va % 2 ^ 21 == 0 && pa % 2 ^ 21 == 0 then 1 + rangeEntries (va + 2 ^ 21) (pa + 2 ^ 21) f (n - 32)
    else 1 + rangeEntries (va + 2 ^ 16) (pa + 2 ^ 16) f (n - 1)

/-- The leaf that maps a context address, by the tables of eight 0. -/
def leafOf (s : State) (space va : Nat) : Option (Nat × Nat) := (walk s (rootOf s 0 space) va).1

/-! ## PT_MAP and PT_UNMAP (R219, R220, R237, R429) -/

/-- A changeover has yet to switch an instance of the context (R237). -/
def switchPending (s : State) (c : Nat) : Bool :=
  s.chg.active && s.chg.groups.any (fun g => !g.switched && g.insts.any (fun i =>
    match modelOf s i with
    | some m => m.ctx == c
    | none => false))

/-- The 64 KiB page at device address `a` lies in the allotment of context `c`. -/
def inAllotment (s : State) (c a : Nat) : Bool :=
  s.allot.any (fun x => x.ctx == c && decide (x.paddr ≤ a) && decide (a + 65536 ≤ x.paddr + x.len))

/-- The 64 KiB page belongs to a pinned region. -/
def inPinned (s : State) (c a : Nat) : Bool :=
  s.allot.any (fun x => x.ctx == c && x.flags % 2 == 1 && decide (x.paddr < a + 65536) && decide (a < x.paddr + x.len))

/-- The arguments of a mapping request. -/
structure PtArgs where
  ctx : Nat
  size : Nat
  attr : Nat
  count : Nat
  va : Nat
  pa : Nat
  deriving DecidableEq, Repr

def ptArgs (s : State) (m : Nat) : PtArgs :=
  ⟨reqField s m 8 1, reqField s m 9 1, reqField s m 0xA 1, reqField s m 0xC 4, reqField s m 0x10 8, reqField s m 0x18 8⟩

/-- Bytes of one page. -/
def ptBytes (p : PtArgs) : Nat := if p.size = 1 then 2 ^ 21 else 2 ^ 16

/-- Offsets of the 64 KiB pages of the request. -/
def ptPages (p : PtArgs) : List Nat := (List.range (p.count * (ptBytes p / 65536))).map (fun i => i * 65536)

/-- Refusals common to both services. -/
def ptRefusal (s : State) (m : Nat) (p : PtArgs) : Option Nat :=
  if mbOwner s m < 64 ∧ mbOwner s m ≠ p.ctx then some cNotPermitted
  else if 64 ≤ p.ctx ∨ 1 < p.size ∨ p.count = 0 ∨ 32 < p.count then some cBadArg
  else if switchPending s p.ctx then some cWrongState
  else if !demandPaged s p.ctx then some cPtPinned
  else none

def execPtMap (s : State) : Host.Outcome State Fault Refusal :=
  .next (serve s svPtMap (fun m =>
    let p := ptArgs s m
    match ptRefusal s m p with
    | some c => answer s m c []
    | none =>
      if 3 < p.attr then answer s m cBadArg []
      else if vaddrEnd < p.va + p.count * ptBytes p then answer s m cPtRange []
      else if (ptPages p).any (fun o => !inAllotment s p.ctx (p.pa + o)) then answer s m cPtRange []
      else if (ptPages p).any (fun o => inPinned s p.ctx (p.pa + o)) then answer s m cPtPinned []
      else if p.va % ptBytes p ≠ 0 ∨ p.pa % ptBytes p ≠ 0 then answer s m cBadArg []
      else if (ptPages p).any (fun o => (leafOf s p.ctx (p.va + o)).isSome) then answer s m cBadArg []
      else
        let flags := pteFlags false (p.attr / 2 % 2 == 1) (p.attr % 2 == 1)
        let t := forEach (List.range p.count) (fun i t =>
          let o := i * ptBytes p
          if p.size = 1 then mapLarge t p.ctx (p.va + o) (p.pa + o) flags
          else mapSmall t p.ctx (p.va + o) (p.pa + o) flags) s
        answer t m 0 []))

/-- Remove one page of the given size. -/
def unmapPage (s : State) (space va size : Nat) : State :=
  let l1 := va / 2 ^ 21 % 32768
  if size = 2 ^ 21 then putEntry s (l1At s space + 8 * l1) 0
  else putEntry s (l2At s space l1 + 8 * (va / 2 ^ 16 % 32)) 0

/-- PT_UNMAP: a page that is pinned, or not mapped in the size named, refuses the whole request. -/
def execPtUnmap (s : State) : Host.Outcome State Fault Refusal :=
  .next (serve s svPtUnmap (fun m =>
    let p := ptArgs s m
    let pages := (List.range p.count).map (fun i => p.va + i * ptBytes p)
    match ptRefusal s m p with
    | some c => answer s m c []
    | none =>
      if pages.any (fun v => match leafOf s p.ctx v with
          | some (x, _) => ptePin x
          | none => false) then answer s m cPtPinned []
      else if p.va % ptBytes p ≠ 0 ∨ 2 ^ 36 < p.va + p.count * ptBytes p
          ∨ pages.any (fun v => match leafOf s p.ctx v with
              | some (_, z) => z != ptBytes p
              | none => true) then answer s m cBadArg []
      else answer (forEach pages (fun v t => unmapPage t p.ctx v (ptBytes p)) s) m 0 []))

/-! ## FLASH_WRITE (R219, R221, R577) -/

/-- Device address of a context address in the allotment of context `c`: where a pinned region is mapped. -/
def allotAddr (s : State) (c v : Nat) : Option Nat :=
  (s.allot.find? (fun a => a.ctx == c && decide (a.vaddr ≤ v) && decide (v < a.vaddr + a.len))).map
    (fun a => a.paddr + (v - a.vaddr))

/-- Bytes at stern-core addresses, page by page through its page table; none where a page is not mapped to memory. `fuel`
bounds the pages touched. -/
def sternBytes (s : State) : Nat → Nat → Nat → Option (List Byte)
  | 0, _, n => if n = 0 then some [] else none
  | fuel + 1, va, n =>
    let k := Nat.min n (65536 - va % 65536)
    match (walk s (rootOf s 0 64) va).1 with
    | none => none
    | some (x, size) =>
      let a := leafAddr x size va
      let ok := decide (va < neverMapped) && (match placeOf s a with | .hbm => true | .spad _ => true | _ => false)
      if ok then (sternBytes s fuel (va + k) (n - k)).map (fun r => memRead s a k ++ r) else none

/-- The bytes a FLASH_WRITE copies when Cox takes the request (R577), from the staging window or the stern core. -/
def flashSource (s : State) (m len : Nat) : Option (List Byte) :=
  let src := reqField s m 24 8
  if mbOwner s m = 0x41 then
    if src + len ≤ 0x100000 then some (Tab.getMany memDefault s.staging src len) else none
  else sternBytes s 2 src len

def execFlashWrite (s : State) : Host.Outcome State Fault Refusal :=
  .next (serve s svFlashWrite (fun m =>
    let off := reqField s m 12 4
    let len := reqField s m 16 4
    if off % 256 ≠ 0 ∨ len = 0 ∨ 65536 < len then answer s m cBadArg []
    else match flashRefusal s (reqField s m 8 1) off len with
      | some c => answer s m c []
      | none =>
        match flashSource s m len with
        | none => answer s m cBadArg []
        | some bs => startLong s m (1000000 + ceilDiv len 256 * Config.programNs) 0 bs))

/-! ## Patrol scrubber (R428) -/

/-- The scrubber reads one word; the end of a pass over a stack is counted in MEM_SCRUB, whose low 16 bits count. -/
def execPatrolScrub (addr : Nat) (ecc : Ecc) (s : State) : Host.Outcome State Fault Refusal :=
  match placeOf s addr with
  | .hbm =>
    let s1 := eccRead s addr ecc
    let last := if stackOf addr = 1 then hbmEnd - 8 else hbmEnd - 4096 - 8
    .next (if addr / 8 * 8 = last then bumpf s1 .memScrub (stackOf addr) 15 0 1 else s1)
  | .spad _ => .next (eccRead s addr ecc)
  | _ => unchanged s

end Sys2Proof.Machine
end

