-- ==== Sys2Proof/Machine/Issue.lean ====
section
/-! DEFINITION. Issue of an instruction (08_scull.md R243 to R249, R270; 13_instruction_set.md R393, R407, R415): the
checks every instruction meets, the traps found at issue, and what scalar instructions share. -/

namespace Sys2Proof.Machine

/-! ## Traps at issue and on scalar instructions -/

def blankTrap : DueTrap := ⟨0, .issue, 0, 0, none, none, [], false, 0⟩

/-- An issue trap of the instruction at the PC of context key `k`. -/
def issueTrap (s : State) (k num : Nat) (details : List DWord) : State :=
  let c := ctxAt s k
  addTrap s k { blankTrap with num := num, seq := c.seqNo, details := padDetails details }

/-- ILLEGAL_OP: PC and the instruction word (R410). -/
def illegal (s : State) (k major : Nat) (w : BitVec 56) : Host.Outcome State Fault Refusal :=
  .next (issueTrap s k tIllegal [(ctxAt s k).pc, instrWord major w])

/-- MISALIGNED with the address. -/
def misaligned (s : State) (k major : Nat) (w : BitVec 56) (addr : Nat) : Host.Outcome State Fault Refusal :=
  .next (issueTrap s k tMisaligned [(ctxAt s k).pc, instrWord major w, BitVec.ofNat 64 addr])

/-- An execution trap of an instruction that the sequencer executes: it resumes at its PC. -/
def seqTrap (s : State) (k num : Nat) (details : List DWord) : State :=
  let c := ctxAt s k
  addTrap s k { blankTrap with num := num, kind := .exec, seq := c.seqNo, details := padDetails details }

/-- POISON of a register operand: no address and no device word (assumption 22). -/
def regPoison (s : State) (k src : Nat) : Host.Outcome State Fault Refusal :=
  .next (seqTrap s k tPoison (memDetails (ctxAt s k).pc 0 src 0 false false 0 0 0))

/-! ## The common checks -/

/-- A translation fault on the fetch of a context that fetches through translation (R265, R269). -/
def fetchFault (s : State) (u k : Nat) : State × Option (Nat × Nat) :=
  let sp := spaceOf k
  if sp = 64 || demandPaged s sp then
    match translate s u sp (ctxAt s k).pc.toNat .fetch with
    | (t, .inl r) => (countFault t u, some (faultNum t sp r, r))
    | (t, .inr _) => (t, none)
  else (s, none)

/-- Run `f` on the context that may issue an instruction of major opcode `major` on unit `u` (assumption 15: the word is
the one at the PC). The held set comes first after rett (R409); a full range scoreboard stalls every instruction (R270);
the stern core has classes 0x0 to 0x2 only (R415). While a window trap is being entered, issue stalls (R245). -/
def issueOn (s0 : State) (u major : Nat) (w : BitVec 56) (f : State → Nat → Host.Outcome State Fault Refusal) :
    Host.Outcome State Fault Refusal :=
  match issuing s0 u with
  | none => if windowTrapDue s0 u then stall s0 u else unchanged s0
  | some k =>
    let s := reissue s0 u k
    if !(ctxAt s k).tw && !(ctxAt s k).held.isEmpty then stall s u
    else if u != sternUnit && decide (32 ≤ rangesHeld s u) then stall s u
    else match fetchFault s u k with
      | (t, some (num, r)) =>
        let pc := (ctxAt t k).pc
        .next (seqTrap t k num (memDetails pc pc.toNat 1 0 false true r 0 0))
      | (t, none) => if u = sternUnit ∧ 0x30 ≤ major then illegal t k major w else f t k

/-- The PC moves past the instruction, which takes the next issue number. -/
def advance (c : Ctx) : Ctx := { c with pc := c.pc + 8, seqNo := c.seqNo + 1 }

/-- Change the context and move past the instruction. -/
def retire (s : State) (k : Nat) (f : Ctx → Ctx) : Host.Outcome State Fault Refusal :=
  .next (updCtx s k (fun c => advance (f c)))

/-- A scalar instruction that reads `src` and writes `dst`: registers legal, no conflict in flight, no poison. -/
def scalarOp (s : State) (u k major : Nat) (w : BitVec 56) (ok : Bool) (src dst : List Nat)
    (f : State → Ctx → Host.Outcome State Fault Refusal) : Host.Outcome State Fault Refusal :=
  let c := ctxAt s k
  if !ok || !(src ++ dst).all scalarOk then illegal s k major w
  else if !mayIssue s k (src.map (rnS c)) (dst.map (rnS c)) none none then stall s u
  else if src.any (fun n => (sGet c n).poison) then regPoison s k 0
  else f s c

/-- Write a scalar result and go on. -/
def putScalar (s : State) (k rd : Nat) (v : Nat) : Host.Outcome State Fault Refusal :=
  retire s k (fun c => sSet c rd ⟨BitVec.ofNat 64 v, false⟩)

/-! ## Engine instructions -/

/-- Issue an instruction to its engine: registers read and written (scoreboard numbers), declared ranges, and the scalar
operands read at issue. -/
def toEngine (s : State) (u k major : Nat) (w : BitVec 56) (e : Engine) (rs ws : List Nat)
    (rd wr : Option (Nat × Nat)) (args : List DWord) : Host.Outcome State Fault Refusal :=
  let c := ctxAt s k
  if decide (queueDepth e ≤ (queueOf (scullAt s u) e).length) || !mayIssue s k rs ws rd wr then stall s u
  else
    let q : QEntry :=
      { seq := c.seqNo, ctx := k % 64, pc := c.pc, major := major, w := w, args := args, rd := rd, wr := wr, rs := rs,
        ws := ws, nte := c.nte, engine := e, started := false }
    .next (updCtx (enqueue s u q) k advance)

/-- SPAD_RANGE at issue: a context fault (R256). -/
def spadRange (s : State) (k src off : Nat) (write : Bool) : Host.Outcome State Fault Refusal :=
  .next (issueTrap s k tSpadRange (memDetails (ctxAt s k).pc off src 0 write false 0 0 0))

/-- A declared range in the scratchpad: granules of `n` bytes at local offset `o` of context `c`; `none` when it extends
beyond the window. -/
def declare (s : State) (u c o n : Nat) : Option (Nat × Nat) :=
  (localAddr s u c o n).map (fun a => granules a n)

end Sys2Proof.Machine
end

