-- ==== Sys2Proof/Machine/EngineOps.lean ====
section
/-! DEFINITION. What the instructions of every engine share: the checks at issue, execution traps, and the NaN trap with
its record (08_scull.md R243 to R249; 10_number_formats.md R331 to R337; 13_instruction_set.md R393, R407). -/

namespace Sys2Proof.Machine

/-! ## Issue -/

/-- The checks of an engine instruction that reads scalars `gs`: its fields legal, nothing in flight writes them, none
poisoned. -/
def engineOp (s : State) (u k major : Nat) (w : BitVec 56) (ok : Bool) (gs : List Nat)
    (f : State → Ctx → Host.Outcome State Fault Refusal) : Host.Outcome State Fault Refusal :=
  let c := ctxAt s k
  if !ok || !gs.all scalarOk then illegal s k major w
  else if !mayIssue s k (gs.map (rnS c)) [] none none then stall s u
  else if gs.any (fun n => (sGet c n).poison) then regPoison s k 0
  else f s c

/-- Local byte range [o, o + n) lies in the window; then its granules. -/
def inWindow (s : State) (u k o n : Nat) : Option (Nat × Nat) := declare s u (k % 64) o n

/-- Issue with at most one read and one write range, each given by its local offset and length; a range beyond the
window is SPAD_RANGE of the source named (R248, R256). -/
def toEngineRanges (s : State) (u k major : Nat) (w : BitVec 56) (e : Engine) (src : Nat) (rs ws : List Nat)
    (rd wr : Option (Nat × Nat)) (args : List DWord) : Host.Outcome State Fault Refusal :=
  let get (r : Option (Nat × Nat)) : Option (Option (Nat × Nat)) :=
    match r with
    | none => some none
    | some (o, n) => (inWindow s u k o n).map some
  match get rd, get wr with
  | some a, some b => toEngine s u k major w e rs ws a b args
  | none, _ => spadRange s k src (match rd with | some (o, _) => o | none => 0) false
  | _, none => spadRange s k src (match wr with | some (o, _) => o | none => 0) true

/-! ## Traps of a running instruction -/

/-- An execution trap of an engine instruction, which runs again when the handler returns. -/
def engTrap (s : State) (k : Nat) (q : QEntry) (num : Nat) (details : List DWord) : State :=
  addTrap s k { blankTrap with num := num, kind := .exec, seq := q.seq, again := some { q with started := false }, details := padDetails details }

/-- POISON at local offset `o` (device word `dev`), or of a register operand (both zero; assumption 22). -/
def engPoison (s : State) (k : Nat) (q : QEntry) (src o dev : Nat) : State :=
  engTrap s k q tPoison (memDetails q.pc o src 0 false false 0 dev 0)

/-- POISON of a write narrower than 64 bits into a poisoned word (R426). -/
def engPoisonW (s : State) (k : Nat) (q : QEntry) (src o dev : Nat) : State :=
  engTrap s k q tPoison (memDetails q.pc o src 0 true false 0 dev 0)

/-- The first poisoned aligned word that [a, a + n) touches. -/
def firstPoison (s : State) (a n : Nat) : Option Nat :=
  ((s.poisoned.filter (fun e => e.2 && decide (e.1 * 8 < a + n) && decide (a < e.1 * 8 + 8))).map (fun e => e.1 * 8)).head?

/-- Local bytes of a running instruction, whose range was checked at issue. -/
def localBytes (s : State) (u k o n : Nat) : List Byte :=
  match localAddr s u (k % 64) o n with
  | some a => memRead s a n
  | none => List.replicate n 0

/-- The first poisoned word of a local range: its local offset and device address. -/
def localPoison (s : State) (u k o n : Nat) : Option (Nat × Nat) :=
  match localAddr s u (k % 64) o n with
  | some a => (firstPoison s a n).map (fun w => (o + w - a, w))
  | none => none

/-- Run `f` when the local range holds no poison; else POISON of the source named. -/
def poisonFree (s : State) (u k : Nat) (q : QEntry) (src o n : Nat) (f : State → State) : State :=
  match localPoison s u k o n with
  | some (x, dev) => engPoison s k q src x dev
  | none => f s

/-- The first poisoned word of [a, a + n) that the range covers only in part: a write narrower than 64 bits (R426). -/
def edgePoison (s : State) (a n : Nat) : Option Nat :=
  ((s.poisoned.filter (fun e => e.2 && decide (e.1 * 8 < a + n) && decide (a < e.1 * 8 + 8)
    && !(decide (a ≤ e.1 * 8) && decide (e.1 * 8 + 8 ≤ a + n)))).map (fun e => e.1 * 8)).head?

/-- Store 32-bit elements from device address `a` on, with their poison. -/
def storeElems (s : State) (a : Nat) (l : List Elem) : State :=
  let s1 := memWrite s a ((l.map (fun e => bytesOf 4 e.val.toNat)).flatten)
  forEach l.zipIdx (fun e t => if e.1.poison then poisonWord t (a + 4 * e.2) else t) s1

/-- A store of elements at local offset `o`, or POISON of a narrow write into a poisoned word. -/
def localStore (s : State) (u k : Nat) (q : QEntry) (src o : Nat) (l : List Elem) : State :=
  match localAddr s u (k % 64) o (4 * l.length) with
  | none => s
  | some a => match edgePoison s a (4 * l.length) with
    | some w => engPoisonW s k q src (o + w - a) w
    | none => storeElems s a l

/-- The `i`-th operand read at issue, as a number. -/
def argOf (q : QEntry) (i : Nat) : Nat := (q.args.getD i 0).toNat

/-! ## The NaN trap (R331 to R336) -/

/-- What the record of R333 names. -/
structure NanRec where
  engine : Nat
  array : Nat
  kind : Nat
  index : Nat
  column : Nat
  value : Nat
  deriving DecidableEq, Repr

/-- Words 0 to 2 of R333. -/
def nanDetails (q : QEntry) (r : NanRec) : List DWord :=
  let op := q.major * 256 + iMinor q.w
  let w1 := r.engine * 2 ^ 56 + r.array * 2 ^ 52 + r.kind * 2 ^ 48 + r.index * 2 ^ 32 + op * 2 ^ 16 + r.column * 2 ^ 8
  [q.pc, BitVec.ofNat 64 w1, BitVec.ofNat 64 r.value]

/-- A NaN trap of another engine that fell due at the same time (R336). -/
def nanTwin (s : State) (k : Nat) (r : NanRec) : Option DueTrap :=
  (ctxAt s k).due.find? (fun d => d.num == tNan && d.at_ == s.now && (d.details.getD 1 0).toNat / 2 ^ 56 != r.engine)

/-- NAN_TRAP, precise at the producer: issue goes on after it (R332). Of two in one cycle the one earlier in issue order
is named, and NAN_LOST is set (R336). -/
def nanTrap (s : State) (u k : Nat) (q : QEntry) (kind : TrapKind) (r : NanRec) : State :=
  let d := { blankTrap with num := tNan, kind := kind, seq := q.seq, details := padDetails (nanDetails q r) }
  match nanTwin s k r with
  | none => addTrap s k d
  | some o =>
    let s1 := flag s .vecNumSticky u 6
    if o.seq < q.seq then s1 else addTrap (updCtx s1 k (fun c => { c with due := c.due.erase o })) k d

/-- `n` NaNs were written, the first of which `r` names. -/
def nanWritten (s : State) (u k : Nat) (q : QEntry) (n : Nat) (r : NanRec) : State :=
  if n = 0 then s else if q.nte then nanTrap s u k q .exec r else nanMasked s u n

end Sys2Proof.Machine
end

