-- ==== Sys2Proof/Machine/Arrays.lean ====
section
/-! DEFINITION. The array group (09_arrays_and_schuss_path.md R278 to R297, R302 to R307; 10_number_formats.md R316 to
R325): tile instructions in the four modes, weight planes and their swap, tile load, store and clear. -/

namespace Sys2Proof.Machine

/-! ## Formats, pairs and pieces (R316 to R318) -/

/-- Pieces of a wide operand, and the cell format of each. -/
def pieceCount (k : Nat) : Nat := if k = 7 then 2 else if k = 0 ∨ k = 9 then 3 else 1
def cellFmt (k : Nat) : Nat := if k = 0 then 2 else if k = 7 ∨ k = 9 then 6 else k

/-- The pairs of R316, by cell format. -/
def pairOk (a b : Nat) : Bool :=
  ((a == 3 || a == 4) && (b == 3 || b == 4)) || (a == b && [1, 2, 5, 6, 10].contains a)

/-- Whether a pair accumulates as integers. -/
def pairInt (a : Nat) : Bool := a == 5 || a == 6

/-- The product width w. -/
def pairWidth (a b : Nat) : Nat :=
  if a = 10 then 20 else if a = 2 then 16 else if a = 1 then 22 else if a = 3 ∧ b = 3 then 8
  else if a = 4 ∧ b = 4 then 6 else 7

/-- Piece `p` of a raw integer operand. -/
def intPiece (k p raw : Nat) : Int :=
  match k with
  | 5 => signed 4 raw
  | 6 => signed 8 raw
  | 7 => if p = 0 then signed 8 (raw / 256) else ((raw % 256 : Nat) : Int)
  | _ => if p = 0 then signed 8 (raw / 65536) else if p = 1 then ((raw / 256 % 256 : Nat) : Int) else ((raw % 256 : Nat) : Int)

/-- The weight of piece `p` in an integer result. -/
def pieceWeight (k p : Nat) : Int :=
  match k with
  | 7 => if p = 0 then 256 else 1
  | 9 => if p = 0 then 65536 else if p = 1 then 256 else 1
  | _ => 1

/-- Bits [15:0] cleared. -/
def topHalf (b : Nat) : Nat := b % 2 ^ 32 / 65536 * 65536

/-- Piece `p` of an FP32 operand, as B16 bits in the upper half. -/
def f32Piece (p b : Nat) : Nat :=
  let hi := topHalf b
  let r := fsub b hi
  let mid := topHalf r
  if p = 0 then hi else if p = 1 then mid
  else (encFloat fmtB16 false false (f32 (fsub r mid))).1 * 65536

/-- Piece `p` of a raw floating operand. -/
def numPiece (k p raw : Nat) : Num := if k = 0 then f32 (f32Piece p raw) else decFloat (floatFmt k) raw

/-! ## Group sums (R319 to R323) -/

/-- A running value: FP32 or I32 bits, the KIND of its NaN, whether an infinity came of finite values, and how many
additions saturated. -/
structure Sum where
  bits : Nat
  kind : Nat
  inf : Bool
  sats : Nat
  deriving DecidableEq, Repr

def sumOf (bits : Nat) : Sum := ⟨bits, 0, false, 0⟩

/-- floor(log2 |p|) of a finite non-zero product. -/
def topOf (x : Num) : Option Int :=
  match x with
  | .fin _ m e => if m = 0 then none else some (Nat.log2 m + e)
  | _ => none

/-- A product on the grid 2^g, its magnitude truncated. -/
def onGrid (g : Int) (x : Num) : Int :=
  match x with
  | .fin s m e => signedM s (if g ≤ e then m * 2 ^ (e - g).toNat else m / 2 ^ (g - e).toNat)
  | _ => 0

/-- Rule 4 of R322: the truncated products added exactly and rounded once. -/
def gridSum (w : Nat) (ps : List Num) : Sum :=
  let tops := ps.filterMap topOf
  match tops with
  | [] => sumOf (rn (.fin (!ps.isEmpty && ps.all (fun x => match x with | .fin s _ _ => s | _ => false)) 0 0))
  | t :: ts =>
    let g := ts.foldl (fun a b => if a < b then b else a) t - w - 2
    let v := (ps.map (onGrid g)).sum
    let b := rn (ofInt false v g)
    ⟨b, 0, isInf b, 0⟩

/-- A group: operand pairs in order (R322). `kind` is the KIND of a NaN operand. -/
def groupSum (w kind : Nat) (ps : List (Num × Num)) : Sum :=
  match firstNan ((ps.map (fun p => [p.1, p.2])).flatten) with
  | some n => ⟨f32NanOf n, kind, false, 0⟩
  | none =>
    let qs := ps.map (fun p => mulNum p.1 p.2)
    let bad := qs.any (fun x => match x with | .nan _ => true | _ => false)
    let pos := qs.contains (.inf false)
    let neg := qs.contains (.inf true)
    if bad || (pos && neg) then ⟨f32Nan, 1, false, 0⟩
    else if pos then sumOf 0x7F800000
    else if neg then sumOf 0xFF800000
    else gridSum w qs

/-- FP32 addition of running values. -/
def sumAdd (a b : Sum) : Sum :=
  let r := fadd a.bits b.bits
  let kind := if isNan a.bits then a.kind else if isNan b.bits then b.kind else if isNan r then 1 else 0
  ⟨r, kind, a.inf || b.inf || (isInf r && !isInf a.bits && !isInf b.bits), 0⟩

/-- Saturating addition of an exact integer into an I32 (R323). -/
def satAdd (a : Sum) (v : Int) : Sum :=
  let t := signed 32 a.bits + v
  let r := clampInt (-2147483648) 2147483647 t
  ⟨unsigned 32 r, 0, false, a.sats + (if r = t then 0 else 1)⟩

/-! ## BX8 exponents (R312) -/

/-- Local offset of the exponent array of operand `which` of an instruction (assumption 4). -/
def bxAt (major : Nat) (w : BitVec 56) (operand : DWord) (which : Nat) : Nat :=
  Config.bxBase (instrWord major w).toNat operand.toNat which % 8388608

/-- The hull of two local ranges (offset, length). -/
def hullOf (a b : Nat × Nat) : Nat × Nat := (Nat.min a.1 b.1, Nat.max (a.1 + a.2) (b.1 + b.2) - Nat.min a.1 b.1)
def joinOf (a b : Option (Nat × Nat)) : Option (Nat × Nat) :=
  match a, b with
  | some x, some y => some (hullOf x y)
  | some x, none => some x
  | none, y => y

/-- The exponent bytes of an operand as numbers. -/
def bxExps (s : State) (u k : Nat) (r : Option (Nat × Nat)) : List Nat :=
  match r with
  | some (o, n) => (localBytes s u k o n).map (·.toNat)
  | none => []

/-- The first poisoned word of some local ranges that are read. -/
def rangesPoison (s : State) (u k : Nat) (l : List (Option (Nat × Nat))) : Option (Nat × Nat) :=
  (l.filterMap id).findSome? (fun r => localPoison s u k r.1 r.2)

/-- The first poisoned word that a write of a local range covers only in part: its local offset and device address. -/
def edgeOf (s : State) (u k : Nat) (r : Option (Nat × Nat)) : Option (Nat × Nat) :=
  r.bind (fun r => (localAddr s u (k % 64) r.1 r.2).bind (fun d => (edgePoison s d r.2).map (fun x => (r.1 + x - d, x))))

/-! ## Shapes (R278 to R284, R297) -/

/-- Mode of a tile instruction: 0 broadcast, 1 chained, 2 slide, 3 wavefront. -/
def mmMode (w : BitVec 56) : Nat := iMinor w % 4
def mmLocal (w : BitVec 56) : Bool := iMinor w / 4 % 2 == 1

/-- The arrays of a MASK, in rising number. -/
def mmArrays (w : BitVec 56) : List Nat := (List.range 4).filter (fun a => (tMask w).testBit a)

/-- The arrays whose tiles are written. -/
def mmDest (w : BitVec 56) : List Nat := if mmMode w = 1 then (mmArrays w).take 1 else mmArrays w

def adjacent (l : List Nat) : Bool := l == (List.range l.length).map (· + l.headD 0)

/-- Elements of one activation vector. -/
def mmVecLen (w : BitVec 56) : Nat :=
  match mmMode w with
  | 2 => tK w + tN w / 16 - 1
  | 3 => tN w
  | _ => tK w

/-- Bytes of the activation block. -/
def mmBytes (w : BitVec 56) : Nat := fmtBytes (tAfmt w) (tM w * mmVecLen w)

/-- Registers per vector when the source is v: one element in each lane. -/
def mmRegs (w : BitVec 56) : Nat := ceilDiv (mmVecLen w) 128

/-- Largest K of the mode. -/
def mmDepth (w : BitVec 56) : Nat :=
  (if cellFmt (tWfmt w) = 5 then 256 else 128) * (if mmMode w = 1 then (mmArrays w).length else 1)

/-- The checks of R278, R281, R283, R312, R315, R316, R318 and R394. -/
def mmOk (w : BitVec 56) : Bool :=
  let a := cellFmt (tAfmt w)
  let b := cellFmt (tWfmt w)
  let n := (mmArrays w).length
  let mode := mmMode w
  decide (iMinor w < 8) && ib w 6 0 == 0 && tMask w != 0 && decide (tC0 w + tM w ≤ 16) && decide (tK w ≤ mmDepth w)
    && decide (tAfmt w ≤ 10) && decide (tWfmt w ≤ 10) && pairOk a b && tP w == pieceCount (tAfmt w)
    && (pieceCount (tWfmt w) == 1 || (pieceCount (tWfmt w) == n && mode != 1))
    && decide (mmBytes w ≤ 16384)
    && (if mode = 1 then decide (2 ≤ n) && adjacent (mmArrays w) && tK w % (8 * n) == 0 else true)
    && (if a = 10 then tK w % (32 * (if mode = 1 then n else 1)) == 0 else true)
    && (if 2 ≤ mode then a != 5 && a != 10 else true)
    && (if mode = 2 then tK w == 8 || tK w == 16 else true)

/-- T and D of R282 and R295. -/
def mmFactor (w : BitVec 56) : Nat := if [1, 2].contains (cellFmt (tWfmt w)) then 2 else 1
def mmLatency (w : BitVec 56) : Nat :=
  match mmMode w with
  | 0 => 4
  | 1 => 4 + 2 * ((mmArrays w).length - 1)
  | 2 => 5
  | _ => tK w + tN w
def mmCycles (w : BitVec 56) : Nat := mmLatency w + mmFactor w * tM w * tP w - 1
def mmStall (w : BitVec 56) (err : EngineErr) : Nat :=
  if mmFactor w = 2 then 0 else Nat.min err.drainStall (mmCycles w / 8)

/-! ## arr.mm -/

/-- Vector registers of the source. -/
def mmSource (w : BitVec 56) (g : Nat) : List Nat := (List.range (tM w * mmRegs w)).map (· + g % 2 ^ 32)

/-- The local ranges of the activation block: its elements, and the exponents of a BX8 block. -/
def mmRange (w : BitVec 56) (g : DWord) : Option (Nat × Nat) :=
  if mmLocal w then some (g.toNat % 2 ^ 32, mmBytes w) else none
def mmExpRange (w : BitVec 56) (g : DWord) : Option (Nat × Nat) :=
  if tAfmt w = 10 then some (bxAt 0x30 w g 0, tM w * tK w / 32) else none

def execArrMm (u : Fin 17) (w : BitVec 56) (s : State) : Host.Outcome State Fault Refusal :=
  issueOn s u.val 0x30 w (fun t k =>
    engineOp t u.val k 0x30 w (mmOk w) [tGA w] (fun t c =>
      let g := (sGet c (tGA w)).val
      let vs := if mmLocal w then [] else mmSource w g.toNat
      if vs.any (fun n => decide (64 ≤ n)) then illegal t k 0x30 w
      else
        let ts := (mmDest w).map (fun a => rnT a (tTile w))
        toEngineRanges t u.val k 0x30 w .array 3 (rnG (tGA w) :: vs.map rnV ++ (if tAcc w then ts else [])) ts
          (joinOf (mmRange w g) (mmExpRange w g)) none [g]))

/-- The raw elements of activation vector `m`. -/
def mmVector (c : Ctx) (w : BitVec 56) (g : Nat) (block : List Byte) (m : Nat) : List Nat :=
  let len := mmVecLen w
  (List.range len).map (fun i =>
    if mmLocal w then rawElem (tAfmt w) block (m * len + i)
    else (vGet c (g % 2 ^ 32 + m * mmRegs w + i / 128) (i % 128)).val.toNat)

/-- Bytes of row `r` of the active plane of array `a`. -/
def planeRow (x : Scull) (a plane r : Nat) : List Byte :=
  Tab.getMany memDefault x.planes (((a * 2 + plane) * 256 + r) * 256) 256

/-- Raw weight (row r, element e) of the active plane. -/
def weightAt (x : Scull) (wf a r e : Nat) : Nat := rawElem (cellFmt wf) (planeRow x a (arrAt x a).active r) e

/-- The operand pairs (activation, weight) of result row `r` on one array: `xs` holds that array's share of the vector. -/
def mmTerms (x : Scull) (w : BitVec 56) (a r : Nat) (xs : List Nat) : List (Nat × Nat) :=
  match mmMode w with
  | 2 => (List.range (tK w)).map (fun e => (xs.getD (r / 16 + e) 0, weightAt x (tWfmt w) a (r % 16) e))
  | 3 => (List.range (tN w)).map (fun j => (xs.getD j 0, weightAt x (tWfmt w) a j r))
  | _ => (List.range xs.length).map (fun e => (xs.getD e 0, weightAt x (tWfmt w) a r e))

/-- Exponent of block `b` of row `r` of the active plane: it lies behind the row's 128 mantissas. -/
def weightExp (x : Scull) (a r b : Nat) : Nat := ((planeRow x a (arrAt x a).active r).getD (128 + b) 0).toNat

/-- A BX8 group (R321): block partials of 32 mantissa products. -/
def bxGroup (ea eb : Nat → Nat) (ps : List (Nat × Nat)) : Sum :=
  let blocks := (List.range (ps.length / 32)).map (fun b => (b, (ps.drop (32 * b)).take 32))
  if blocks.any (fun p => ea p.1 == 255 || eb p.1 == 255) then ⟨f32Nan, 2, false, 0⟩
  else gridSum 20 (blocks.map (fun p =>
    ofInt false ((p.2.map (fun q => signed 8 q.1 * signed 8 q.2)).sum) ((ea p.1 : Int) + eb p.1 - 266)))

/-- One floating pass of one array for one activation piece. -/
def passFloat (w : BitVec 56) (p : Nat) (ea eb : Nat → Nat) (ps : List (Nat × Nat)) : Sum :=
  let a := cellFmt (tAfmt w)
  let b := cellFmt (tWfmt w)
  if a = 10 then bxGroup ea eb ps
  else groupSum (pairWidth a b) 0 (ps.map (fun q =>
    (numPiece (tAfmt w) p q.1, decFloat (floatFmt b) q.2)))

/-- A weight as the integer that array `widx` of the MASK holds: the first piece of a wide weight is signed. -/
def weightInt (wf widx raw : Nat) : Int :=
  if wf = 5 then signed 4 raw else if wf = 6 ∨ widx = 0 then signed 8 raw else ((raw % 256 : Nat) : Int)

/-- One integer pass, weighted exactly by its activation piece. -/
def passInt (w : BitVec 56) (p widx : Nat) (ps : List (Nat × Nat)) : Int :=
  ((ps.map (fun q => intPiece (tAfmt w) p q.1 * weightInt (tWfmt w) widx q.2)).sum) * pieceWeight (tAfmt w) p

/-- Where the parts of a result lie: (array, place in the MASK, its share of the vector), the chain in rising number. -/
def mmParts (w : BitVec 56) (a : Nat) (xs : List Nat) : List (Nat × Nat × List Nat) :=
  if mmMode w = 1 then
    let n := (mmArrays w).length
    let part := tK w / n
    (mmArrays w).zipIdx.map (fun e => (e.1, 0, (xs.drop (e.2 * part)).take part))
  else [(a, (mmArrays w).idxOf a, xs)]

/-- The value of one tile element: pieces in order, chain segments in order, into `old` when accumulating (R320, R323). -/
def mmElem (x : Scull) (w : BitVec 56) (exps : List Nat) (m a r : Nat) (xs : List Nat) (old : Option Nat) : Sum :=
  let parts := mmParts w a xs
  let terms := parts.map (fun p => (p.1, p.2.1, mmTerms x w p.1 r p.2.2))
  if pairInt (cellFmt (tWfmt w)) then
    -- a piece of one array is exact; a chain partial is an I32
    let piece (p : Nat) : Int × Nat :=
      match terms with
      | [t] => (passInt w p t.2.1 t.2.2, 0)
      | ts =>
        let v := ts.foldl (fun acc t => satAdd acc (passInt w p t.2.1 t.2.2)) (sumOf 0)
        (signed 32 v.bits, v.sats)
    (List.range (tP w)).foldl (fun acc p =>
      let t := satAdd acc (piece p).1
      { t with sats := t.sats + (piece p).2 }) (sumOf (old.getD 0))
  else
    let blocks := tK w / 32 / parts.length
    let seg (p : Nat) (t : Nat × Nat × List (Nat × Nat)) (i : Nat) : Sum :=
      passFloat w p (fun b => exps.getD (m * (tK w / 32) + i * blocks + b) 0) (fun b => weightExp x t.1 r b) t.2.2
    let piece (p : Nat) : Sum :=
      match terms.zipIdx with
      | [] => sumOf 0
      | t :: ts => ts.foldl (fun acc e => sumAdd acc (seg p e.1 e.2)) (seg p t.1 t.2)
    let first := match old with
      | some b => sumAdd (sumOf b) (piece 0)
      | none => piece 0
    (List.range (tP w - 1)).foldl (fun acc p => sumAdd acc (piece (p + 1))) first

/-- Rows that a column receives. -/
def mmRows (w : BitVec 56) : Nat := if mmMode w = 3 then tK w else tN w

/-- Whether result row `r` on array `a` used an active weight row that is bad. -/
def rowPoison (w : BitVec 56) (bad : Nat → Nat → Bool) (a r : Nat) : Bool :=
  let used (b : Nat) : Bool :=
    match mmMode w with
    | 2 => bad b (r % 16)
    | 3 => (List.range (tN w)).any (bad b)
    | _ => bad b r
  if mmMode w = 1 then (mmArrays w).any used else used a

/-- Poisoned row of the active plane. -/
def planeBad (x : Scull) (a r : Nat) : Bool :=
  Tab.get (fun _ => false) x.planePoison ((a * 2 + (arrAt x a).active) * 256 + r)

/-- The vectors whose valid bit is set (R293). -/
def mmValid (w : BitVec 56) (g : Nat) : List Nat :=
  (List.range (tM w)).filter (fun m => !tVme w || (g / 2 ^ 32).testBit m)

/-- The activation block of an instruction, every vector and every piece (R291). -/
def fetchBlock (s : State) (u k : Nat) (q : QEntry) : Feed :=
  let w := q.w
  let g := argOf q 0
  let block := if mmLocal w then localBytes s u k (g % 2 ^ 32) (mmBytes w) else []
  ⟨q.seq, q.ctx, ((List.range (tM w)).map (mmVector (ctxAt s k) w g block)).flatten,
    bxExps s u k (mmExpRange w (q.args.getD 0 0))⟩

/-- Its block in the feed buffer. -/
def feedOf (x : Scull) (q : QEntry) : Feed := (x.feed.find? (fun f => f.seq == q.seq && f.ctx == q.ctx)).getD Feed.empty

/-- Vector `m` of a block. -/
def feedVector (w : BitVec 56) (f : Feed) (m : Nat) : List Nat := (f.xs.drop (m * mmVecLen w)).take (mmVecLen w)

/-- Elements written: array, column, row, value and poison; `bad` names the active rows whose result vector `m` delivers as
poison. -/
def mmResults (s : State) (u k : Nat) (q : QEntry) (bad : Nat → Nat → Nat → Bool) : List (Nat × Nat × Nat × Sum × Bool) :=
  let c := ctxAt s k
  let x := scullAt s u
  let w := q.w
  let f := feedOf x q
  ((mmValid w (argOf q 0)).map (fun m =>
    let xs := feedVector w f m
    ((List.range (mmRows w)).map (fun r =>
      (mmDest w).map (fun a =>
        let col := tC0 w + m
        let old := if tAcc w then some (tGet c a (tTile w) col r).val.toNat else none
        (a, col, r, mmElem x w f.exps m a r xs old, rowPoison w (bad m) a r)))).flatten)).flatten

/-- The first NaN by column, then row, then array: the order in which columns are written. -/
def firstNanOf (l : List (Nat × Nat × Nat × Sum × Bool)) : Option NanRec :=
  (l.find? (fun e => isNan e.2.2.2.1.bits && !e.2.2.2.2)).map (fun e =>
    ⟨0, e.1, e.2.2.2.1.kind, e.2.2.1, e.2.1, e.2.2.2.1.bits⟩)

/-- Write tile elements; the tiles come into use (R262), and hold integers or FP32. -/
def putTiles (c : Ctx) (n : Nat) (arrays : List Nat) (isInt : Bool) (l : List (Nat × Nat × Nat × Sum × Bool)) : Ctx :=
  let t := l.foldl (fun t e => Tab.set id eDefault (tKey e.1 n e.2.1 e.2.2.1) ⟨BitVec.ofNat 32 e.2.2.2.1.bits, e.2.2.2.2⟩ t) c.t
  arrays.foldl (fun c a =>
    let b := 1#32 <<< (8 * a + n)
    { c with inuseT := c.inuseT ||| b, intT := if isInt then c.intT ||| b else c.intT &&& ~~~ b }) { c with t := t }

/-- Active owner and shadow owner faults: which of the arrays fail (R290). -/
def ownerFails (x : Scull) (w : BitVec 56) (ctx : Nat) : List Nat :=
  (mmArrays w).filter (fun a => (arrAt x a).activeOwner != some ctx)

/-- Details of WEIGHT_STATE (R410). -/
def weightDetails (x : Scull) (pc : DWord) (named failing : List Nat) : List DWord :=
  let bits (l : List Nat) : Nat := (l.map (fun a => 2 ^ a)).sum
  let v := arrAt x (failing.headD 0)
  let own := match v.activeOwner with
    | some c => c % 64 * 65536 + 2 ^ 22
    | none => 0
  [pc, BitVec.ofNat 64 (bits named + bits failing * 16 + v.shadow % 4 * 256 + v.shadowOwner % 64 * 1024 + own)]

/-- Whether a weight row of the active plane is all zero. -/
def zeroRow (x : Scull) (wf a r : Nat) : Bool :=
  let n := if cellFmt wf = 5 then 256 else 128
  (List.range n).all (fun e =>
    let raw := weightAt x wf a r e
    if [1, 2, 3, 4].contains (cellFmt wf) then raw % (floatFmt (cellFmt wf)).signBit == 0 else raw == 0)

/-- Whether the slot of vector `m` carries a NaN or an infinity in its first K elements. -/
def slotWild (w : BitVec 56) (f : Feed) (m : Nat) : Bool :=
  if tAfmt w = 10 then ((f.exps.drop (m * (tK w / 32))).take (tK w / 32)).contains 255
  else isFloatFmt (tAfmt w) && ((feedVector w f m).take (tK w)).any (fun r => match decFloat (floatFmt (tAfmt w)) r with
    | .fin _ _ _ => false
    | _ => true)

/-- Gated DPU cycles of the instruction (R279, R296). -/
def gatedCycles (s : State) (u : Nat) (q : QEntry) (d : Nat) : Nat :=
  let x := scullAt s u
  let w := q.w
  let f := feedOf x q
  let tame := (List.range (tM w)).countP (fun m => !(mmValid w (argOf q 0)).contains m || !slotWild w f m)
  let zero (a : Nat) : Nat := (List.range (tN w)).countP (fun j => zeroRow x (tWfmt w) a (if mmMode w = 2 then j % 16 else j))
  ((mmArrays w).map (fun a => (256 - tN w) * (mmCycles w + d) + zero a * tame * mmFactor w * tP w)).sum

/-- Count gated DPU cycles in ARR_FEATHER, in units of 256. -/
def addGated (s : State) (u n : Nat) : State :=
  let x := scullAt s u
  let t := x.gated + n
  bumpBy (putScull s u { x with gated := t % 256 }) .arrFeather u (t / 256)

/-- The number of a pass: piece `p` of vector `m` (R284, R307). -/
def passNo (w : BitVec 56) (m p : Nat) : Nat := m * tP w + p

/-- The passes of an instruction in their order; a vector that travels as a bubble makes none. -/
def mmPasses (w : BitVec 56) (g : Nat) : List Nat :=
  ((mmValid w g).map (fun m => (List.range (tP w)).map (passNo w m))).flatten

/-- The parity errors that this instruction met: in an array of its MASK, in one of its passes. -/
def mmHits (w : BitVec 56) (g : Nat) (errs : List (Fin 4 × Fin 256 × Fin 48)) : List (Nat × Nat × Nat) :=
  (errs.map (fun e => (e.1.val, e.2.1.val, e.2.2.val))).filter (fun e => (mmArrays w).contains e.1 && (mmPasses w g).contains e.2.2)

/-- The runs of erring rows of one array after one pass, and whether a row has erred in 4 consecutive passes. -/
def passRuns (hits : List (Nat × Nat × Nat)) (a : Nat) (b : Table Nat Nat × Bool) (p : Nat) : Table Nat Nat × Bool :=
  let rows := ((hits.filter (fun e => e.1 == a && e.2.2 == p)).map (·.2.1)).eraseDups
  let runs := rows.foldl (fun t r => Tab.set id zeroDefault r (Tab.get zeroDefault b.1 r + 1) t) []
  (runs, b.2 || runs.any (fun e => decide (4 ≤ e.2)))

/-- Runs of errors of active rows over the passes of an instruction (R307). -/
def noteErr (x : Scull) (w : BitVec 56) (g : Nat) (hits : List (Nat × Nat × Nat)) : Scull × Bool :=
  (mmArrays w).foldl (fun b a =>
    let v := arrAt b.1 a
    let r := (mmPasses w g).foldl (passRuns hits a) (v.errRuns, false)
    (setArr b.1 a { v with errRuns := r.1 }, b.2 || r.2)) (x, false)

/-- A parity error in the shadow plane: its row is marked poisoned, and the state becomes POISONED (R287, R307). -/
def shadowHit (s : State) (u : Nat) (row : Option (Fin 4 × Fin 256)) : State :=
  match row with
  | none => s
  | some (a, r) =>
    let s1 := updScull s u (fun x =>
      let v := arrAt x a.val
      let mark := (a.val * 2 + (1 - v.active)) * 256 + r.val
      setArr { x with planePoison := Tab.set id (fun _ => false) mark true x.planePoison } a.val { v with shadow := 3 })
    bump (flag s1 .arrSticky u 0) .arrWparCnt u

/-- The vector registers that a tile instruction reads. -/
def mmVs (q : QEntry) : List Nat := if mmLocal q.w then [] else mmSource q.w (argOf q 0)

/-- The trap that a tile instruction meets as it starts, if one: an active owner that is another context (R290), or poison
in its block or in a tile that it adds into. -/
def mmTrap (s : State) (u k : Nat) (q : QEntry) : Option State :=
  let w := q.w
  let x := scullAt s u
  let c := ctxAt s k
  let g := q.args.getD 0 0
  let fails := ownerFails x w (k % 64)
  let tiles := if tAcc w then (mmDest w).map (fun a => (a * 8 + tTile w) * 4096) else []
  if !fails.isEmpty then some (engTrap s k q tWeight (weightDetails x q.pc (mmArrays w) fails))
  else match rangesPoison s u k [mmRange w g, mmExpRange w g] with
  | some (o, dev) => some (engPoison s k q 3 o dev)
  | none =>
    if (mmVs q).any (fun n => (vAll c n).any (·.poison))
        || tiles.any (fun b => c.t.any (fun e => decide (b ≤ e.1) && decide (e.1 < b + 4096) && e.2.poison)) then
      some (engPoison s k q 3 0 0)
    else none

/-- The block of the first tile instruction is complete: it starts, or traps and does not (R290, R291). -/
def startMm (s : State) (u : Nat) : State :=
  match (scullAt s u).qArray with
  | [] => s
  | q :: qs =>
    let k := ctxKey u q.ctx
    if !awaitsBlock q || q.started || stopping s u || !live s u then s
    else match mmTrap s u k q with
    | some t => updScull t u (fun x => { x with qArray := qs })
    | none =>
      updScull (deadRead s u ((mmVs q).any (fun n => !vLive (ctxAt s k) n))) u (fun x =>
        { x with qArray := { q with started := true } :: qs, feed := x.feed ++ [fetchBlock s u k q] })

/-- What a tile instruction does when it ends: the state, and whether its scull is to be fenced with ARRAY_FAULT. -/
def runMm (s : State) (u k : Nat) (q : QEntry) (err : EngineErr) : State × Bool :=
  let w := q.w
  let g := argOf q 0
  let x := scullAt s u
  let hits := mmHits w g err.weightErrs
  let bad (m a r : Nat) : Bool := planeBad x a r
    || (List.range (tP w)).any (fun p => hits.contains (a, r, passNo w m p))
  let l := mmResults s u k q bad
  let d := mmStall w err
  let isInt := pairInt (cellFmt (tWfmt w))
  let s2 := addGated s u (gatedCycles s u q d)
  let s3 := updCtx s2 k (fun c => putTiles c (tTile w) (mmDest w) isInt l)
  let s4 := bump s3 .arrPasses u
  let s5 := if d = 0 then s4 else bumpBy (flag s4 .arrSticky u 1) .arrDstall u d
  let s6 := if isInt then satAcc s5 u ((l.map (fun e => e.2.2.2.1.sats)).sum) else infOut s5 u (l.any (fun e => e.2.2.2.1.inf))
  let s7 := if hits.isEmpty then s6 else bumpBy (flag s6 .arrSticky u 0) .arrWparCnt u hits.length
  let (y, broken) := noteErr (scullAt s7 u) w g hits
  let s8 := putScull s7 u { y with feed := y.feed.filter (fun f => !(f.seq == q.seq && f.ctx == q.ctx)) }
  let nans := if isInt then [] else l.filter (fun e => isNan e.2.2.2.1.bits && !e.2.2.2.2)
  match firstNanOf nans with
  | some r => (nanWritten s8 u k q nans.length r, broken)
  | none => (s8, broken)

/-! ## arr.wld and arr.swp (R286 to R290, R302 to R304) -/

/-- Bytes of one row; none for a format that no row holds. -/
def rowBytes (f : Nat) : Option Nat :=
  if f = 1 ∨ f = 2 then some 256 else if [3, 4, 5, 6, 10].contains f then some 128 else none

def wldOk (w : BitVec 56) : Bool :=
  iMinor w == 0 && ib w 21 0 == 0 && (rowBytes (wFmt w)).isSome && decide (wR0 w + wN w ≤ 256)

/-- The exponents of BX8 rows: four blocks to a row of 128 mantissas. -/
def wldExpRange (w : BitVec 56) (g : DWord) : Option (Nat × Nat) :=
  if wFmt w = 10 then some (bxAt 0x31 w g 0, 4 * wN w) else none

def execArrWld (u : Fin 17) (w : BitVec 56) (s : State) : Host.Outcome State Fault Refusal :=
  issueOn s u.val 0x31 w (fun t k =>
    engineOp t u.val k 0x31 w (wldOk w) [wGS w] (fun t c =>
      let g := (sGet c (wGS w)).val
      toEngineRanges t u.val k 0x31 w .array 4 [rnG (wGS w)] []
        (joinOf (some (g.toNat, wN w * (rowBytes (wFmt w)).getD 0)) (wldExpRange w g)) none [g]))

/-- Put whole rows into the shadow plane of array `a` and set its state and marks. -/
def putRows (x : Scull) (a r0 : Nat) (rows : List (List Byte)) : Scull :=
  let base := (a * 2 + (1 - (arrAt x a).active)) * 256
  rows.zipIdx.foldl (fun y e =>
    { y with
      planes := Tab.setMany memDefault ((base + r0 + e.2) * 256) e.1 y.planes
      planePoison := Tab.set id (fun _ => false) (base + r0 + e.2) false y.planePoison }) x

/-- Row `i` of an arr.wld: its bytes, and behind 128 BX8 mantissas their four exponents. -/
def wldRow (s : State) (u k : Nat) (q : QEntry) (i : Nat) : List Byte :=
  let rb := (rowBytes (wFmt q.w)).getD 128
  localBytes s u k (argOf q 0 + i * rb) rb ++ (match wldExpRange q.w (q.args.getD 0 0) with
    | some (b, _) => localBytes s u k (b + 4 * i) 4
    | none => [])

/-- The first row of an arr.wld that meets poison, with the local offset and device address of the poisoned word. -/
def wldPoison (s : State) (u k : Nat) (q : QEntry) : Option (Nat × Nat × Nat) :=
  let rb := (rowBytes (wFmt q.w)).getD 128
  (List.range (wN q.w)).findSome? (fun i =>
    (rangesPoison s u k [some (argOf q 0 + i * rb, rb), (wldExpRange q.w (q.args.getD 0 0)).map (fun r => (r.1 + 4 * i, 4))]).map
      (fun p => (i, p.1, p.2)))

/-- arr.wld ends, or stops at a poisoned granule: the rows before it stay, its row is marked, and it traps; it does not run
again when the handler returns (R304). -/
def runWld (s : State) (u k : Nat) (q : QEntry) : State :=
  let w := q.w
  let a := wA w
  match wldPoison s u k q with
  | none =>
    updScull s u (fun x =>
      let y := putRows x a (wR0 w) ((List.range (wN w)).map (wldRow s u k q))
      setArr y a { (arrAt y a).load (k % 64) with shadow := 2 })
  | some (i, at_, dev) =>
    let s1 := updScull s u (fun x =>
      let y := putRows x a (wR0 w) ((List.range i).map (wldRow s u k q))
      let mark := (a * 2 + (1 - (arrAt y a).active)) * 256 + wR0 w + i
      let z := { y with planePoison := Tab.set id (fun _ => false) mark true y.planePoison }
      setArr z a { (arrAt z a).load (k % 64) with shadow := 3 })
    addTrap s1 k { blankTrap with
      num := tPoison, kind := .exec, seq := q.seq, details := padDetails (memDetails q.pc at_ 4 0 false false 0 dev 0) }

def swpArrays (w : BitVec 56) : List Nat := (List.range 4).filter (fun a => (iImmBits w).testBit a)

def execArrSwp (u : Fin 17) (w : BitVec 56) (s : State) : Host.Outcome State Fault Refusal :=
  issueOn s u.val 0x32 w (fun t k =>
    engineOp t u.val k 0x32 w (iMinor w == 0 && iRd w == 0 && iRa w == 0 && decide (iImmBits w < 16)) [] (fun t _ =>
      toEngine t u.val k 0x32 w .array [] [] none none []))

def runSwp (s : State) (u k : Nat) (q : QEntry) : State :=
  let x := scullAt s u
  let named := swpArrays q.w
  let fails := named.filter (fun a => (arrAt x a).shadow != 2 || (arrAt x a).shadowOwner != k % 64)
  if !fails.isEmpty then engTrap s k q tWeight (weightDetails x q.pc named fails)
  else updScull s u (fun y => named.foldl (fun z a =>
    let v := arrAt z a
    setArr z a { v with active := 1 - v.active, shadow := 0, activeOwner := some (k % 64), errRuns := [] }) y)

/-! ## Tiles (R261 to R263, R324, R325) -/

def execTLd (u : Fin 17) (w : BitVec 56) (s : State) : Host.Outcome State Fault Refusal :=
  issueOn s u.val 0x33 w (fun t k =>
    engineOp t u.val k 0x33 w (iMinor w == 0 && ib w 42 29 == 0 && ib w 24 0 == 0) [dGS w] (fun t c =>
      let g := (sGet c (dGS w)).val
      toEngineRanges t u.val k 0x33 w .array 5 [rnG (dGS w)] [rnT (dA w) (dN w)] (some (g.toNat, 16384)) none [g]))

/-- 32-bit elements of a local range with the poison of their words. -/
def localElems (s : State) (u k o n : Nat) : List Elem :=
  match localAddr s u (k % 64) o (4 * n) with
  | some a => (List.range n).map (fun i => ⟨BitVec.ofNat 32 (natOf (memRead s (a + 4 * i) 4)), poisonIn s (a + 4 * i) 4⟩)
  | none => List.replicate n Elem.zero

/-- t.ld: column by column. Whether the tile then holds integers is open (assumption 4). -/
def runTLd (s : State) (u k : Nat) (q : QEntry) : State :=
  let l := localElems s u k (argOf q 0) 4096
  let a := dA q.w
  let n := dN q.w
  let b := 1#32 <<< (8 * a + n)
  updCtx { s with free := s.free + 1 } k (fun c =>
    { c with
      t := Tab.setMany eDefault (tKey a n 0 0) l c.t
      inuseT := c.inuseT ||| b
      intT := if Config.loadedTileInt s.free then c.intT ||| b else c.intT &&& ~~~ b })

/-- Bytes that a stored tile takes. -/
def tstBytes (w : BitVec 56) : Nat := fmtBytes (dFmt w) 4096

def tstGs (w : BitVec 56) : List Nat := [dGS w, dGSC w, dGBI w] ++ (if dClp w then [dGLO w] else [])

/-- The hull of the scale and bias vectors. -/
def sbHull (a b : Nat) : Nat × Nat := (Nat.min a b, Nat.max a b + 1024 - Nat.min a b)

/-- The exponents of a tile stored as BX8. -/
def tstExpRange (w : BitVec 56) (g : DWord) : Option (Nat × Nat) := if dFmt w = 10 then some (bxAt 0x34 w g 0, 128) else none

def execTSt (u : Fin 17) (w : BitVec 56) (s : State) : Host.Outcome State Fault Refusal :=
  issueOn s u.val 0x34 w (fun t k =>
    engineOp t u.val k 0x34 w (iMinor w == 0 && ib w 12 0 == 0 && decide (dFmt w ≤ 10)) (tstGs w) (fun t c =>
      let v (n : Nat) : DWord := (sGet c n).val
      let rt := rnT (dA w) (dN w)
      toEngineRanges t u.val k 0x34 w .array 3 (rt :: (tstGs w).map rnG) (if dRel w then [rt] else [])
        (if dSbv w then some (sbHull (v (dGSC w)).toNat (v (dGBI w)).toNat) else none)
        (joinOf (some ((v (dGS w)).toNat, tstBytes w)) (tstExpRange w (v (dGS w)))) [v (dGS w), v (dGSC w), v (dGBI w), v (dGLO w)]))

/-- The finite range of a destination (R324). -/
def fmtRange (k q : Nat) : Num × Num :=
  if isFloatFmt k then
    let f := floatFmt k
    (decFloat f (f.signBit + f.maxBits), decFloat f f.maxBits)
  else if k = 9 then (.fin true (2 ^ 23) (-(q : Int)), .fin false (2 ^ 23 - 1) (-(q : Int)))
  else if k = 10 then (.fin true 128 121, .fin false 127 121)
  else (.fin true (2 ^ (intBits k - 1)) 0, .fin false (2 ^ (intBits k - 1) - 1) 0)

/-- Clip to [lo, hi]; NaN passes, and a NaN bound clips nothing. -/
def clipNum (lo hi x : Num) : Num :=
  match x with
  | .nan n => .nan n
  | _ => if ltNum false x lo then lo else if ltNum false hi x then hi else x

/-- The fused step and clip for one element; with the KIND of a NaN. -/
def drainValue (isInt : Bool) (scale bias : Nat) (lo hi : Num) (raw : Nat) : Num × Nat :=
  let a := if isInt then i2f (signed 32 raw) else raw
  let v := ffma a scale bias
  let kind := if isNan v && !isNan a && !isNan scale && !isNan bias then 1 else 0
  (clipNum lo hi (f32 v), kind)

/-- The smallest E for which every mantissa fits, its mantissas, and whether the block holds a NaN (R325). -/
def bxFits (rtz : Bool) (xs : List Num) (e : Nat) : Option (List Int) :=
  let ms := xs.map (fun x => match x with
    | .fin s m f => some (signedM s (scaleRound rtz m (f + 133 - e)))
    | _ => none)
  if ms.all (fun m => match m with | some v => decide (-128 ≤ v) && decide (v ≤ 127) | none => false) then
    some (ms.map (fun m => m.getD 0)) else none

/-- A BX8 block: mantissas and exponent; what exceeds the largest exponent saturates. -/
def bxBlock (rtz : Bool) (xs : List Num) : List Nat × Nat × CvtFlags :=
  if xs.any (fun x => match x with | .nan _ => true | _ => false) then (List.replicate xs.length 0, 255, .none)
  else match (List.range 255).findSome? (fun e => (bxFits rtz xs e).map (fun m => (m, e))) with
    | some (m, e) => (m.map (unsigned 8), e, .none)
    | none =>
      (xs.map (fun x => match x with
        | .fin s m f => unsigned 8 (clampInt (-128) 127 (signedM s (scaleRound rtz m (f + 133 - 254))))
        | .inf s => if s then 128 else 127
        | .nan _ => 0), 254, ⟨false, true, false⟩)

/-- Pack raw elements into bytes (R313). -/
def packElems (k : Nat) (l : List Nat) : List Byte :=
  if k = 5 then (List.range ((l.length + 1) / 2)).map (fun i => BitVec.ofNat 8 (l.getD (2 * i) 0 % 16 + l.getD (2 * i + 1) 0 % 16 * 16))
  else (l.map (bytesOf (fmtBits k / 8))).flatten

/-- Whether the drain of this context replaces a NaN bound for device address `a` with 0: a REFLEX instance with NTE = 0,
into its output buffer (R334). -/
def nanToZero (s : State) (k : Nat) (nte : Bool) (a : Nat) : Option Nat :=
  if nte then none
  else match (ctxAt s k).step with
    | none => none
    | some st => match modelOf s st.inst with
      | some m => if m.cls == .reflex && decide ((instAt s st.inst).outBase ≤ a) && decide (a < (instAt s st.inst).outBase + m.outLen)
          then some st.inst else none
      | none => none

/-- A stop output that would have been NaN raises its stop (R334). -/
def zeroedStop (s : State) (i a : Nat) : State :=
  match Config.stopOutputAt (image s).buildId i (a - (instAt s i).outBase) with
  | some o => setStopOutput s i o
  | none => s

/-- t.st (R324): the drain conversion of every element, in the order of the tile. -/
def runTSt (s : State) (u k : Nat) (q : QEntry) : State :=
  let w := q.w
  let c := ctxAt s k
  let a := dA w
  let n := dN w
  let o := argOf q 0
  let live := tLive c a n
  let isInt := live && c.intT.getLsbD (8 * a + n)
  let hull := sbHull (argOf q 1) (argOf q 2)
  let expRange := tstExpRange w (q.args.getD 0 0)
  let edge := (edgeOf s u k (some (o, tstBytes w))).or (edgeOf s u k expRange)
  match (if dSbv w then localPoison s u k hull.1 hull.2 else none), edge with
  | some (x, dev), _ => engPoison s k q 3 x dev
  | none, some (x, dev) => engPoisonW s k q 3 x dev
  | none, none =>
    if c.t.any (fun e => decide (tKey a n 0 0 ≤ e.1) && decide (e.1 < tKey a n 0 0 + 4096) && e.2.poison) then engPoison s k q 3 0 0
    else
      let vec (b r : Nat) : Nat := if dSbv w then natOf (localBytes s u k (b + 4 * r) 4) else b % 2 ^ 32
      let range := fmtRange (dFmt w) (dQ w)
      let clip := argOf q 3
      let lo := if dClp w then f32 clip else range.1
      let hi := if dClp w then f32 (clip / 2 ^ 32) else range.2
      let vals := (List.range 4096).map (fun i =>
        drainValue isInt (vec (argOf q 1) (i % 256)) (vec (argOf q 2) (i % 256)) lo hi (tGet c a n (i / 256) (i % 256)).val.toNat)
      let base := match localAddr s u (k % 64) o (tstBytes w) with
        | some d => d
        | none => 0
      let size := fmtBits (dFmt w)
      let isNanV (x : Num) : Bool := match x with | .nan _ => true | _ => false
      let zero (i : Nat) (x : Num) : Option Nat :=
        if isNanV x && (isFloatFmt (dFmt w) || dFmt w == 10) then nanToZero s k q.nte (base + i * size / 8) else none
      let zeroed := vals.zipIdx.filterMap (fun e => (zero e.2 e.1.1).map (fun i => (i, base + e.2 * size / 8)))
      let outs := vals.zipIdx.map (fun e => if (zero e.2 e.1.1).isSome then (Num.fin false 0 0, 0) else e.1)
      let blocks := if dFmt w = 10 then (List.range 128).map (fun b => bxBlock (dRtz w) (((outs.drop (32 * b)).take 32).map (·.1))) else []
      let enc := outs.map (fun e => encElem (dFmt w) (dQ w) (dRtz w) (dSat w) e.1)
      let raws := if dFmt w = 10 then (blocks.map (·.1)).flatten else enc.map (·.1)
      let flags := (if dFmt w = 10 then blocks.map (·.2.2) else enc.map (·.2)).foldl CvtFlags.or .none
      let s1 := cvtSticky (deadRead s u (!live)) u flags
      let s1b := localWrite s1 u (k % 64) o (packElems (dFmt w) raws)
      let s2 := match expRange with
        | some (b, _) => localWrite s1b u (k % 64) b (blocks.map (fun b => BitVec.ofNat 8 b.2.1))
        | none => s1b
      let s3 := if dRel w then updCtx s2 k (fun c => releaseT c (8 * a + n)) else s2
      let s4 := forEach zeroed (fun e t => zeroedStop (updInst t e.1 (fun x => { x with nanRecord := true })) e.1 e.2) s3
      let nans := outs.zipIdx.filter (fun e =>
        if dFmt w = 10 then ((blocks.map (·.2.1)).getD (e.2 / 32) 0) == 255 else isNanV e.1.1 && isFloatFmt (dFmt w))
      match nans.head? with
      | none => s4
      | some (v, i) =>
        let kind := if dFmt w = 10 then 2 else v.2
        nanWritten s4 u k q nans.length ⟨0, a, kind, i % 256, i / 256, raws.getD i 0⟩

/-- Tiles named by t.clr. -/
def clrTiles (w : BitVec 56) : List Nat := (List.range 32).filter (fun i => (iImmBits w).testBit i)

def execTClr (u : Fin 17) (w : BitVec 56) (s : State) : Host.Outcome State Fault Refusal :=
  issueOn s u.val 0x35 w (fun t k =>
    engineOp t u.val k 0x35 w (iMinor w == 0 && iRd w == 0 && iRa w == 0 && decide (iImmBits w < 2 ^ 32)) [] (fun t _ =>
      toEngine t u.val k 0x35 w .array [] ((clrTiles w).map (fun i => rnT (i / 8) (i % 8))) none none []))

def runTClr (s : State) (k : Nat) (q : QEntry) : State := updCtx s k (fun c => (clrTiles q.w).foldl releaseT c)

end Sys2Proof.Machine
end

