-- ==== Sys2Proof/Machine/Reflex.lean ====
section
/-! DEFINITION. Reflex banks (16_reflex_banks.md): layers, exact passes, granules, suspicion, the shadow and fallback
jobs of the serving scull, and probation. Heats and heaters are in Machine/Heats.lean. -/

namespace Sys2Proof.Machine

/-! ## Layers and the bank's state -/

def layerOfBank (s : State) (b : Nat) : Option Layer := (image s).layers.find? (fun l => l.bank == b)

/-- The layer that latches the outputs of `l` directly (SRC 2), if there is one. -/
def tightAfter (s : State) (l : Layer) : Option Layer :=
  (image s).layers.find? (fun m => m.inst == l.inst && m.src == 2 && m.order == l.order + 1)

/-- The layer whose outputs a tight layer latches. -/
def tightBefore (s : State) (l : Layer) : Option Layer :=
  if l.src = 2 then (image s).layers.find? (fun m => m.inst == l.inst && m.order + 1 == l.order) else none

/-- STATE of a bank (R492). -/
def bankState (s : State) (b : Nat) : Nat := rdf s .rfxBankStat b 31 29
def setBankState (s : State) (b st : Nat) : State := wrf s .rfxBankStat b 31 29 st

def laneAt (x : Bank) (l : Nat) : Lane := Tab.get (fun _ => Lane.reset) x.lanes l
def setLane (x : Bank) (l : Nat) (v : Lane) : Bank :=
  { x with lanes := Tab.set id (fun _ => Lane.reset) l v x.lanes }

def laneNums : List Nat := List.range 34

/-- Lanes that are not failed. -/
def workingLanes (x : Bank) : List Nat := laneNums.filter (fun l => (laneAt x l).st != 3)

/-- The spares that no heat and no swap holds. -/
def freeSpares (x : Bank) : List Nat :=
  laneNums.filter (fun l => (laneAt x l).st == 1 &&
    (match x.heat with | some h => h.spare != some l | none => true) &&
    (match x.swap with | some w => w.2 != l | none => true))

/-- HEAT_LANE, FAILED and SPARES follow the lanes. -/
def showLanes (s : State) (b : Nat) : State :=
  let x := bankAt s b
  let heat := match x.heat with | some h => h.lane | none => 63
  let s1 := wrf s .rfxBankStat b 17 12 heat
  wrf (wrf s1 .rfxBankStat b 11 6 (34 - (workingLanes x).length)) .rfxBankStat b 5 0 (freeSpares x).length

/-- A counter of a bank counts from Run. -/
def countBank (s : State) (r : Reg) (b : Nat) : State := countRun s r b

/-! ## Suspicion (R492, R493, R508, R510) -/

/-- A lane without an input carries number 32. -/
def noInput : Nat := 32

/-- The lanes after a heat that aborted: the lane is what it was and its spare a spare again. A stand-in that failed stays
failed; when another lane has taken the input meanwhile, the lane is a spare. -/
def endHeat (x : Bank) (h : Heat) : Bank :=
  let y := laneAt x h.lane
  let taken := h.was == 0 && laneNums.any (fun l =>
    l != h.lane && h.spare != some l && (laneAt x l).st == 0 && (laneAt x l).input == y.input)
  let x1 := setLane x h.lane (if taken then { y with st := 1, input := noInput } else { y with st := h.was })
  let x2 := match h.spare with
    | none => x1
    | some p =>
      if (laneAt x1 p).st = 3 then
        { setLane x1 p { laneAt x1 p with input := noInput } with swap := x1.swap.filter (fun w => w.1 != p) }
      else setLane x1 p { laneAt x1 p with st := 1 }
  { x2 with heat := none }

/-- A heat aborts: the lane is what it was, TRIM and GAIN unchanged (R501, R508). -/
def abortHeat (s : State) (b : Nat) : State :=
  match (bankAt s b).heat with
  | none => s
  | some h =>
    let s1 := updBank s b (fun x => endHeat x h)
    showLanes (flag (countBank s1 .rfxHeatAbortCnt b) .rfxSticky 0 2) b

/-- Causes that leave no condition behind: a miss, a bridge error, a fenced serving scull. -/
def transient (c : Nat) : Bool := c == 1 || c == 5 || c == 6

/-- CAUSE shows the cause raised first of those that hold (R510). -/
def showCause (s : State) (b : Nat) : State :=
  match (bankAt s b).causes with
  | c :: _ => wrf s .rfxBankStat b 23 20 c
  | [] => s

/-- A suspect cause arises. -/
def suspect (s : State) (b cause : Nat) : State :=
  let st := bankState s b
  if st = 0 then s
  else
    let s1 := abortHeat s b
    let s2 := updBank s1 b (fun x =>
      { x with
        causes := if transient cause || x.causes.contains cause then x.causes else x.causes ++ [cause]
        heatedSince := [] })
    if st = 2 then showCause s2 b
    else
      let s3 := wrf (setBankState (updBank s2 b (fun x => { x with probes := 0, history := [] })) b 2) .rfxBankStat b 23 20 cause
      raiseNow (flag (countBank s3 .rfxSuspectCnt b) .rfxSticky 0 1) cRfxSuspect scBank b

/-- Enter PROBATION: the LFSR starts from its seed (R495). -/
def toProbation (s : State) (b : Nat) : State :=
  let s1 := updBank s b (fun x => { x with lfsr := 0xACE1, probes := 0 })
  wrf (setBankState s1 b 3) .rfxBankStat b 23 20 0

/-- SUSPECT ends when its causes have cleared and every working lane has been heated since; after three failed
probations it lasts until reset (R492, R495). -/
def leaveSuspect (s : State) (b : Nat) : State :=
  let x := bankAt s b
  if bankState s b == 2 && x.causes.isEmpty && decide (rdf s .rfxBankStat b 19 18 < 3)
      && (workingLanes x).all (fun l => x.heatedSince.contains l) then toProbation s b else s

/-- A cause no longer holds; the heats that count start after the last one (R492, R510). -/
def clearCause (s : State) (b cause : Nat) : State :=
  if (bankAt s b).causes.contains cause then
    showCause (updBank s b (fun x => { x with causes := x.causes.filter (· != cause), heatedSince := [] })) b
  else s

/-! ## Exact passes (R483, R484) -/

/-- Σ c × x of one row. -/
def dot (ws xs : List Int) : Int := ((ws.zip xs).map (fun p => p.1 * p.2)).sum

/-- One row before its clamp. -/
def rowExact (l : Layer) (xs : List Int) (r : Nat) : Int :=
  roundEven (dot ((l.weights.drop (32 * r)).take 32) xs * 128) (127 * 127 * 2 ^ l.fsLog2) + l.bias.getD r 0

/-- The exact output codes, and whether a row was clamped. -/
def passExact (l : Layer) (xs : List Int) : List Int × Bool :=
  let qs := (List.range 32).map (rowExact l xs)
  (qs.map (clampInt (-128) 127), qs.any (fun q => decide (q < -128 ∨ 127 < q)))

/-- The codes a bank delivers: `dev` is how far each is from the exact one (R490 bounds it). -/
def deviate (qs dev : List Int) : List Int :=
  (List.range 32).map (fun r => clampInt (-128) 127 (qs.getD r 0 + dev.getD r 0))

/-! ## Granules (R485, R486) -/

/-- Device address of a local offset in the window of the layer's instance. -/
def granuleAt (s : State) (l : Layer) (off : Nat) : Nat :=
  let u := lowestScull (maskOf s l.inst)
  match modelOf s l.inst with
  | some m => spadAddr u ((windowOf s u m.ctx).1 + off)
  | none => spadAddr u off

/-- Write the output granule whole. -/
def writeGranule (s : State) (l : Layer) (qs : List Int) (bubble fallback ovr : Bool) (count ts : Nat) : State :=
  let status := 1 + bit bubble 1 + bit fallback 2 + bit ovr 3 + count % 2 ^ 16 * 2 ^ 16
  memWrite s (granuleAt s l l.outOff)
    (qs.map (fun q => BitVec.ofInt 8 q) ++ bytesOf 4 status ++ bytesOf 4 ts ++ List.replicate 24 0)

/-- The input code of a sample channel: VALUE shifted and saturated; zero and a bubble when VALID is clear. -/
def sampleCode (s : State) (l : Layer) (c : Nat) : Int × Bool :=
  if c = 0xFF then (0, false)
  else
    let w := (chanAt s c).word.toNat
    if w / 2 ^ 39 % 2 = 1 then (clampInt (-127) 127 (signed 24 (w / 2 ^ 40) / 2 ^ l.inShift), false) else (0, true)

/-- TS_NS of a layer's sample instant: the newest of its channels' words. -/
def sampleTs (s : State) (l : Layer) : Nat :=
  ((l.chans.filter (· != 0xFF)).map (fun c => (chanAt s c).word.toNat % 2 ^ 24)).foldl Nat.max 0

/-- An input code byte of a GO granule; −128 has no code (R483), so it is a free value (assumption 4). -/
def goCode (n : Nat) (b : Byte) : Int :=
  if b = 0x80 then clampInt (-127) 127 (signed 8 (Config.word32 n).toNat) else signed 8 b.toNat

/-- What a pass latches: the state after it, the codes, BUBBLE and TS_NS; `none` when nothing is there to latch. -/
def latch (s : State) (b : Nat) (l : Layer) : Option (State × List Int × Bool × Nat) :=
  if l.src = 0 then
    let cs := l.chans.map (sampleCode s l)
    some (s, cs.map (·.1), cs.any (·.2), sampleTs s l)
  else if l.src = 1 then
    if !(bankAt s b).goWaiting then none
    else
      let a := granuleAt s l l.inOff
      let codes := (memRead s a 32).zipIdx.map (fun e => goCode (s.free + e.2) e.1)
      let s1 := updBank (memWrite s (a + 56) (bytesOf 8 0)) b (fun x => { x with goWaiting := false })
      some ({ s1 with free := s1.free + 32 }, codes, false, 0)
  else
    match tightBefore s l with
    | some p =>
      let x := bankAt s p.bank
      if x.fresh then
        some (updBank s p.bank (fun y => { y with fresh := false }), x.outputs.map (fun q => if q < 0 then 0 else q), x.bubble, x.tsNs)
      else none
    | none => none

/-- The failed lane whose input no working lane carries (R503). -/
def orphanOf (x : Bank) : Option Nat :=
  let carried := (laneNums.filter (fun l => (laneAt x l).st == 0 ||
    (match x.heat with | some h => h.lane == l && h.was == 0 && h.spare.isNone | none => false))).map (fun l => (laneAt x l).input)
  laneNums.find? (fun l => (laneAt x l).st == 3 && (laneAt x l).input < 32 && !carried.contains (laneAt x l).input)

/-- Every layer of the tight run that `l` belongs to is in SERVICE with every input on a working lane (R494, R503); an input
whose lane has failed while no spare is free keeps the bank in fallback too (DEDUCED, assumption 140). -/
def onBank (s : State) (l : Layer) : Bool :=
  let ok (m : Layer) : Bool := bankState s m.bank == 1 && (bankAt s m.bank).swap.isNone && (orphanOf (bankAt s m.bank)).isNone
  let nbr (o : Option Layer) : Bool := match o with | some m => ok m | none => true
  ok l && nbr (tightBefore s l) && nbr (tightAfter s l)

/-! ## Stop outputs (R138, R139, R488) -/

/-- Layers of an instance that run in fallback. -/
def fallbackLayers (s : State) (i : Nat) : Nat :=
  ((image s).layers.filter (fun l => l.inst == i && !onBank s l)).length

/-- Latency of a stop at the ball: the word at the reflex path, the network, the crossing and the driver (R138); in fallback
the bound of R139 holds. -/
def stopLatency (s : State) (i : Nat) : Nat :=
  let f := fallbackLayers s i
  let net := Config.networkLatency (image s).buildId i f
  60 + (if f = 0 then net else Nat.min net (180 * f)) + Config.stopCrossing s.free % 91

/-- Record a reflex-to-stop latency. -/
def noteLatency (s : State) (i : Nat) : State :=
  let n := stopLatency s i
  let s1 := { s with free := s.free + 1 }
  let s2 := if s1.run && decide (rdf s1 .stpLat 0 15 0 < n) then wrf s1 .stpLat 0 15 0 (Nat.min n 65535) else s1
  if 400 < n then flag s2 .stpSticky 0 2 else s2

/-- A REFLEX instance raises the stop outputs of a mask. -/
def reflexStops (s : State) (i : Nat) (outs : BitVec 12) : State :=
  if outs = 0 then s else noteLatency (setStops s i outs) i

/-- The stop compare of a layer. -/
def stopCompare (s : State) (l : Layer) (qs : List Int) : State :=
  if l.stopRow < 32 && decide (l.stopThr ≤ qs.getD l.stopRow 0) then reflexStops s l.inst (1#12 <<< l.stopOut) else s

/-- Whether the granule of `l` is the first one of its instance's sample pass: `l` ends the tight run that the SRC 0 layer
at the head of the chain starts (R487). `fuel` bounds the run (R506). -/
def headsSample (s : State) : Nat → Layer → Bool
  | 0, _ => false
  | f + 1, l =>
    if l.src = 0 then l.order == 0
    else match tightBefore s l with
      | some p => headsSample s f p
      | none => false

/-- The output latch of a pass: the codes stand for a tight successor, else the granule is written; a granule that comes
from a sample pass makes a release due (R487, R489). -/
def deliver (s : State) (b : Nat) (l : Layer) (qs : List Int) (ovr : Bool) (j : Job) : State :=
  let s1 := updBank s b (fun x => { x with outputs := qs, bubble := j.bubble, tsNs := j.ts, fresh := (tightAfter s l).isSome })
  let s2 := stopCompare s1 l qs
  if (tightAfter s l).isSome then s2
  else
    let s3 := writeGranule s2 l qs j.bubble j.fallback ovr j.count j.ts
    if headsSample s 4 l then updBank s3 b (fun x => { x with toRelease := x.toRelease + 1 }) else s3

/-! ## BANK_PASS, GO_STORE, REFLEX_JOB -/

/-- A store to the GO word of an SRC 1 layer's granule (R486). -/
def goHook (s : State) (a : Nat) (bs : List Byte) : State :=
  if bs.length = 8 && natOf bs != 0 then
    forEach ((image s).layers.filter (fun l => l.src == 1 && granuleAt s l l.inOff + 56 == a))
      (fun l t => updBank t l.bank (fun x => { x with goWaiting := true })) s
  else s

/-- The store itself, as a step of its own. -/
def execGoStore (b : Fin 4) (go : DWord) (s : State) : Host.Outcome State Fault Refusal :=
  match layerOfBank s b.val with
  | some l =>
    if l.src = 1 then
      let a := granuleAt s l l.inOff + 56
      .next (goHook (memWrite s a (bytesOf 8 go.toNat)) a (bytesOf 8 go.toNat))
    else unchanged s
  | none => unchanged s

/-- One pass of a bank (R484, R486, R488, R491, R494, R500). A fallback pass that waits holds the bank. -/
def execBankPass (b : Fin 4) (dev : List Int) (pilotLow : Bool) (s : State) : Host.Outcome State Fault Refusal :=
  let k := b.val
  match layerOfBank s k with
  | none => unchanged s
  | some l =>
    if !s.run || bankState s k == 0 || (bankAt s k).jobs.any (·.fallback) then unchanged s
    else match latch s k l with
      | none => unchanged s
      | some (s1, xs, bubble, ts) =>
        let n := (bankAt s1 k).shadowCnt + 1
        let check := decide (rdf s1 .rfxCfg 0 7 0 ≤ n)
        let s2 := updBank (countBank s1 .rfxPassCnt k) k (fun x => { x with inputs := xs, shadowCnt := if check then 0 else n })
        let count := rdf s2 .rfxPassCnt k 15 0
        let (qs, ovr) := passExact l xs
        let out := deviate qs dev
        let j : Job := ⟨xs, out, false, bubble, ts, count⟩
        if onBank s2 l && !pilotLow then
          let s3 := updBank s2 k (fun x => { x with jobs := if check then x.jobs ++ [j] else x.jobs })
          .next (deliver s3 k l out ovr j)
        else
          let s3 := updBank s2 k (fun x => { x with jobs := x.jobs ++ [{ j with fallback := true }] })
          .next (if pilotLow && onBank s2 l then suspect (flag s3 .rfxSticky 0 4) k 3 else s3)

/-- Three misses among eight consecutive checks (R491). -/
def shadowResult (s : State) (b : Nat) (miss : Bool) : State :=
  let s1 := countBank s .rfxCheckCnt b
  let s2 := if miss then countBank s1 .rfxMissCnt b else s1
  let h := ((bankAt s2 b).history ++ [miss])
  let h8 := h.drop (h.length - 8)
  let s3 := updBank s2 b (fun x => { x with history := h8 })
  if 3 ≤ h8.countP (· == true) then suspect (updBank s3 b (fun x => { x with history := [] })) b 1 else s3

/-- A difference of more than 8 codes in any row. -/
def isMiss (xs ys : List Int) : Bool := (xs.zip ys).any (fun p => decide (8 < (p.1 - p.2).natAbs))

/-- A job of bank `b` goes through the serving scull's schuss path; the lower bank goes first (R300, R491, R494). -/
def execReflexJob (b : Fin 4) (s : State) : Host.Outcome State Fault Refusal :=
  let k := b.val
  match (bankAt s k).jobs, layerOfBank s k, servingOf s k with
  | j :: rest, some l, some u =>
    if (List.range k).any (fun m => !(bankAt s m).jobs.isEmpty && servingOf s m == some u) then unchanged s
    else
      let busy := match (scullAt s u).qSchuss.head? with | some q => q.started | none => false
      let s0 := countRun s .schRfxCnt u
      let n := if s.run && busy then 7 else 0
      let s1 := startNext (updBank (bumpBy (bumpBy s0 .schRfxDelay u n) .schCyc u n) k (fun x => { x with jobs := rest })) u .schuss
      let (qs, ovr) := passExact l j.inputs
      if j.fallback then .next (deliver (countBank s1 .rfxFallbackCnt k) k l qs ovr j)
      else .next (shadowResult s1 k (isMiss qs j.outputs))
  | _, _, _ => unchanged s

/-! ## Probation (R495) -/

/-- One step of the LFSR x^16 + x^14 + x^13 + x^11 + 1. -/
def lfsrStep (r : BitVec 16) : BitVec 16 :=
  let f := (r.getLsbD 0 ^^ r.getLsbD 2 ^^ r.getLsbD 3 ^^ r.getLsbD 5)
  (r >>> 1) ||| (if f then 0x8000#16 else 0#16)

/-- The 32 input codes of a probe pass: the low byte of each state, −128 read as −127. -/
def probeCodes : Nat → BitVec 16 → List Int × BitVec 16
  | 0, r => ([], r)
  | n + 1, r =>
    let c := signed 8 (r.toNat % 256)
    let (cs, r') := probeCodes n (lfsrStep r)
    ((if c = -128 then -127 else c) :: cs, r')

/-- A probation fails: SUSPECT again; the third in a row lasts until reset and raises RFX_BANK_FAIL. -/
def failProbation (s : State) (b : Nat) : State :=
  let n := rdf s .rfxBankStat b 19 18 + 1
  let s1 := suspect (wrf (flag s .rfxSticky 0 6) .rfxBankStat b 19 18 (Nat.min n 3)) b 1
  if n = 3 then raiseNow s1 cRfxBankFail scBank b else s1

def execProbePass (b : Fin 4) (dev : List Int) (s : State) : Host.Outcome State Fault Refusal :=
  let k := b.val
  match layerOfBank s k with
  | none => unchanged s
  | some l =>
    if bankState s k ≠ 3 then unchanged s
    else
      let x := bankAt s k
      let (xs, r) := probeCodes 32 x.lfsr
      let qs := (passExact l xs).1
      let s1 := putBank s k { x with lfsr := r, probes := x.probes + 1 }
      if isMiss qs (deviate qs dev) then .next (failProbation s1 k)
      else if 64 ≤ x.probes + 1 then
        .next (setBankState (wrf (updBank s1 k (fun y => { y with history := [] })) .rfxBankStat k 19 18 0) k 1)
      else .next s1

/-- After the 100 µs of RETUNE the bank is on probation; one bank at a time, in rising number (R492, R564). -/
def execRetuneSettleExpiry (b : Fin 4) (s : State) : Host.Outcome State Fault Refusal :=
  let waits := (List.range 4).any (fun m => (decide (m < b.val) && bankState s m == 4)
    || (s.chg.retuning.contains m && bankState s m == 3))
  if bankState s b.val = 4 && !waits then .next (toProbation s b.val) else unchanged s

/-! ## Light and VHTR (R185, R493, R500, R511, R641) -/

def allBanks : List Nat := List.range 4

/-- LIGHT_X below PILOT_MIN for 1 µs: every bank becomes SUSPECT with cause LIGHT, and LIGHT_LOSS is raised. -/
def execLightXLoss (s : State) : Host.Outcome State Fault Refusal :=
  .next (forEach allBanks (fun b t => suspect t b 3) (raiseNow { s with lightX := false } cLightLoss scDevice 0))

def execLightXReturn (s : State) : Host.Outcome State Fault Refusal :=
  .next (forEach allBanks (fun b t => clearCause t b 3) { s with lightX := true })

/-- VHTR leaves its range: every bank becomes SUSPECT with cause THERMAL. -/
def execVhtrLoss (s : State) : Host.Outcome State Fault Refusal :=
  .next (forEach allBanks (fun b t => suspect t b 4) (flag (wrb s .pwrRail 0 9 false) .pwrSticky 0 3))

/-- A source of the cause THERMAL holds: VHTR out of range, two failed sensors, a heater short of its set point, or a sensor of
the bank over its limit (R493, R634). -/
def thermalHolds (s : State) (b : Nat) : Bool :=
  let x := bankAt s b
  !rdb s .pwrRail 0 9 || decide (2 ≤ x.sensorBad) || !x.lowRows.isEmpty
    || (List.range 4).any (fun i => decide (1840 ≤ signed 16 (rdf s .thmTemp (4 * b + i) 15 0)))

/-- The cause THERMAL of a bank ends with the last of its sources. -/
def settleThermal (s : State) (b : Nat) : State := if thermalHolds s b then s else clearCause s b 4

/-- VHTR is back. -/
def execVhtrReturn (s : State) : Host.Outcome State Fault Refusal :=
  .next (forEach allBanks (fun b t => settleThermal t b) (wrb s .pwrRail 0 9 true))

/-- A parity error on a transfer of the photonic bridge (R72). -/
def photonicParity (s : State) (b : Nat) : State := suspect (bumpf s .fltBridge 0 31 16 1) b 5

end Sys2Proof.Machine
end

