-- ==== Sys2Proof/Machine/Heats.lean ====
section
/-! DEFINITION. Heats, spare lanes and heater control of the reflex banks (16_reflex_banks.md R497 to R503, R508, R512). -/

namespace Sys2Proof.Machine

/-! ## Lanes (R503, R511) -/

/-- An input without a working lane takes a free spare, which settles for 20 µs (R503). -/
def fillInput (s : State) (b : Nat) : State :=
  let x := bankAt s b
  if x.swap.isSome then s
  else
    match orphanOf x, freeSpares x with
    | some l, p :: _ => showLanes (updBank s b (fun y => { y with swap := some (l, p) })) b
    | _, _ => s

/-- The lanes with a failed one: its input waits for a spare; a heat of it, and one that it is to stand in for, end; so
does a swap in which it settles. -/
def markFailed (x : Bank) (l now : Nat) : Bank :=
  let y := laneAt x l
  let alone := match x.heat with
    | some h => h.lane == l && h.was == 0 && h.spare.isNone
    | none => false
  let inp := if y.st = 0 || alone then y.input else noInput
  { setLane x l { y with st := 3, input := inp, failedAt := now } with
    heat := x.heat.filter (fun h => h.lane != l && !(h.step == 2 && h.spare == some l))
    swap := x.swap.filter (fun w => w.2 != l) }

/-- A lane without a successful heat for 10 s. -/
def aged (s : State) (y : Lane) : Bool := match y.heatedAt with
  | some t => decide (t + 10000000000 ≤ s.now)
  | none => true

/-- HEAT_AGE has cleared when no in-service lane is that old (R493, R510). -/
def settleAge (s : State) (b : Nat) : State :=
  if laneNums.any (fun l => (laneAt (bankAt s b) l).st == 0 && aged s (laneAt (bankAt s b) l)) then s else clearCause s b 2

/-- A lane fails (R499, R501, R511). -/
def laneFail (s : State) (b l : Nat) : State :=
  let s1 := updBank s b (fun x => markFailed x l s.now)
  let s2 := showLanes (flag s1 .rfxSticky 0 5) b
  let s3 := if (workingLanes (bankAt s2 b)).length < 32 then suspect s2 b 7 else s2
  fillInput (settleAge s3 b) b

/-- A heater found open or shorted marks its lane failed (R499). -/
def execHeaterFault (b : Fin 4) (lane : Fin 34) (s : State) : Host.Outcome State Fault Refusal :=
  if bankState s b.val = 0 || (laneAt (bankAt s b.val) lane.val).st == 3 then unchanged s
  else .next (laneFail s b.val lane.val)

/-- The spare that settled takes the input of the failed lane at the next pass boundary. -/
def execLaneSettleExpiry (b : Fin 4) (s : State) : Host.Outcome State Fault Refusal :=
  match (bankAt s b.val).swap with
  | some (l, p) =>
    let s1 := updBank s b.val (fun x =>
      let inp := (laneAt x l).input
      let x1 := setLane x p { laneAt x p with st := 0, input := inp }
      let x2 := setLane x1 l { laneAt x1 l with input := noInput }
      { x2 with swap := none })
    .next (fillInput (showLanes s1 b.val) b.val)
  | none => unchanged s

/-- An in-service lane without a successful heat for 10 s (R493, R502). -/
def execHeatAgeExpiry (b : Fin 4) (lane : Fin 34) (s : State) : Host.Outcome State Fault Refusal :=
  let y := laneAt (bankAt s b.val) lane.val
  if y.st == 0 && aged s y then .next (suspect s b.val 2) else unchanged s

/-! ## Heats (R501) -/

/-- When the last successful heat of a lane was; a lane without one ranks first. -/
def heatRank (y : Lane) : Nat := match y.heatedAt with | some t => t + 1 | none => 0

/-- The lane that a slot takes: the oldest successful heat; a failed lane is retried after 10 s. -/
def nextHeat (s : State) (x : Bank) : Option Nat :=
  let ok := laneNums.filter (fun l => (laneAt x l).st != 3 || decide ((laneAt x l).failedAt + 10000000000 ≤ s.now))
  ok.foldl (fun r l => match r with
    | none => some l
    | some m => if heatRank (laneAt x l) < heatRank (laneAt x m) then some l else some m) none

/-- Blank the lane and start its dark check (step 4). -/
def blankLane (s : State) (b l : Nat) (spare : Option Nat) : State :=
  let s1 := updBank s b (fun x =>
    let y := laneAt x l
    { setLane x l { y with st := 2 } with heat := some ⟨l, spare, 4, 0, [], if spare.isSome then 0 else y.st⟩ })
  showLanes s1 b

/-- A heat starts at its 50 ms slot (R501). The light must be present and one heat runs at a time; without a heat that can
start the slot passes. -/
def startHeat (s : State) (k : Nat) : State :=
  let x := bankAt s k
  let st := bankState s k
  if !(st == 1 || st == 2) || x.heat.isSome || x.swap.isSome || !s.lightX then s
  else match nextHeat s x with
    | none => s
    | some l =>
      if st == 1 && (laneAt x l).st == 0 then
        match freeSpares x with
        | p :: _ => showLanes (updBank s k (fun y => { y with heat := some ⟨l, some p, 2, 0, [], 0⟩ })) k
        | [] => s
      else blankLane s k l none

/-- Step 3: the spare takes the input, and the lane is blanked. -/
def moveInput (s : State) (b l p : Nat) : State :=
  blankLane (updBank s b (fun x => setLane x p { laneAt x p with st := 0, input := (laneAt x l).input })) b l (some p)

/-- A successful heat: TRIM and GAIN are set, and the lane is a spare, or has its role again in SUSPECT. -/
def finishHeat (s : State) (b : Nat) (h : Heat) (trims : List Int) (gain : Nat) : State :=
  let s1 := updBank s b (fun x =>
    let y := laneAt x h.lane
    let back := h.was == 0 && h.spare.isNone
    let inp := if back then y.input else noInput
    let v : Lane := ⟨if back then 0 else 1, inp, some s.now, 0, gain % 65536⟩
    { setLane x h.lane v with heat := none, heatedSince := x.heatedSince ++ [h.lane] })
  let s2 := forEach trims.zipIdx (fun e t =>
    wrf t .rfxTrim (b * 1088 + h.lane * 32 + e.2) 15 0 (unsigned 16 e.1)) s1
  let s3 := countBank s2 .rfxHeatCnt b
  let s4 := if 32 ≤ (workingLanes (bankAt s3 b)).length then clearCause s3 b 7 else s3
  leaveSuspect (fillInput (showLanes (settleAge s4 b) b) b) b

/-- The end of a timed step of a heat: settling, the dark check, one ring row (R501 steps 3 to 6). -/
def execBankHeatTimer (b : Fin 4) (obs : HeatObs) (s : State) : Host.Outcome State Fault Refusal :=
  let k := b.val
  match (bankAt s k).heat with
  | none => unchanged s
  | some h =>
    match obs, h.step, h.spare with
    | .settled, 2, some p => .next (moveInput s k h.lane p)
    | .dark level, 4, _ =>
      if level ≤ rdf s .rfxCfg 0 31 24 then .next (updBank s k (fun x => { x with heat := some { h with step := 5 } }))
      else .next (fillInput (abortHeat s k) k)
    | .row offset gain, 5, _ =>
      if 2048 < offset.natAbs then .next (laneFail s k h.lane)
      else if h.row < 31 then
        .next (updBank s k (fun x => { x with heat := some { h with row := h.row + 1, trims := h.trims ++ [offset] } }))
      else .next (finishHeat s k h (h.trims ++ [offset]) gain)
    | _, _, _ => unchanged s

/-! ## The row loop (R497 to R499) -/

/-- The median of four numbers: the mean of the middle two. -/
def medianOf (l : List Int) : Int :=
  let srt := sortBy (fun a b => decide (a ≤ b)) l
  (srt.getD 1 0 + srt.getD 2 0) / 2

/-- A sensor more than 10 °C from the median is ignored: the median stands in for it. -/
def sensorValue (m t : Int) : Int := if 160 < (t - m).natAbs then m else t

/-- Temperature of row `r` in 1/16 °C: linear between four sensors spread evenly over the 32 rows, plus the
feed-forward. -/
def rowTemp (ts : List Int) (ff : Int) (r : Nat) : Int :=
  let p := r * 3
  let i := Nat.min (p / 31) 2
  let a := ts.getD i 0
  let z := ts.getD (i + 1) 0
  roundEven (a * 31 + (z - a) * ((p : Int) - (i : Int) * 31)) 31 + ff

/-- The wax value W at a temperature in 1/16 °C, clamped to [−10, 110] °C (R497). -/
def waxAt (w : Wax) (lane row : Nat) (t : Int) : Int :=
  let x := (clampInt (-160) 1760 t + 160).toNat
  let k := Nat.min (x / 128) 14
  let at_ (i : Nat) : Int := (w.codes.getD ((lane * 32 + row) * 16 + i) 0 : Nat)
  roundEven (at_ k * 128 + (at_ (k + 1) - at_ k) * ((x : Int) - (k : Int) * 128)) 128

/-- The weight code that ring (lane, row) carries; a lane without an input carries code 0. -/
def ringCode (l : Layer) (y : Lane) (row : Nat) : Int :=
  if y.st = 0 && y.input < 32 then l.weights.getD (row * 32 + y.input) 0 else 0

/-- H before and after its clamp (R497). -/
def heaterCode (s : State) (b : Nat) (l : Layer) (w : Wax) (lane row : Nat) (t : Int) : Int × Bool :=
  let y := laneAt (bankAt s b) lane
  let d := w.curve.getD (ringCode l y row + 128).toNat 0
  let trim := signed 16 (rdf s .rfxTrim (b * 1088 + lane * 32 + row) 15 0)
  let h := waxAt w lane row t + trim + roundEven ((y.gain : Int) * d) 16384
  (clampInt 0 16383 h, decide (h < 0 ∨ 16383 < h))

/-- Σ_s K_bs × A_s in 1/2^24 °C, A_s in 1/65536; a fenced scull contributes nothing (R498). -/
def feedSum (s : State) (b : Nat) (act : List (Fin 65537)) : Int :=
  ((List.range 16).map (fun u =>
    if live s u then signed 16 (rdf s .thmFf (16 * b + u) 15 0) * (((act.map (·.val)).getD u 0 : Nat) : Int) else 0)).sum

/-- ΔT_b: the sum behind its first-order filter. How much of a deviation a discrete filter leaves is an open value. -/
def feedForward (s : State) (b : Nat) (act : List (Fin 65537)) : State :=
  let x := bankAt s b
  let target := feedSum s b act
  let left := Config.filterLeft (rdf s .thmFfTau 0 15 0) (s.now - x.ffAt) % 65537
  putBank s b { x with ff := target + roundEven ((x.ff - target) * left) 65536, ffAt := s.now }

/-- ΔT_b in 1/16 °C. -/
def feedTemp (s : State) (b : Nat) : Int := roundEven (bankAt s b).ff (2 ^ 20)

/-- The rows of a bank whose heaters do not reach their set point; one that does not sets HTR_SETPOINT and makes the bank
SUSPECT (R493). -/
def markSetpoint (s : State) (b row : Nat) (low : Bool) : State :=
  let s1 := updBank s b (fun x =>
    let others := x.lowRows.filter (· != row)
    { x with lowRows := if low then others ++ [row] else others })
  if low then suspect (flag s1 .thmSticky 0 1) b 4 else s1

/-- The loop rewrites the codes of a row from the bank's sensors and the activity of the sculls. -/
def execHeaterLoopUpdate (b : Fin 4) (row : Fin 32) (t0 t1 t2 t3 : BitVec 16) (obs : LoopObs) (s : State) :
    Host.Outcome State Fault Refusal :=
  let k := b.val
  match layerOfBank s k, (image s).waxes.find? (fun w => w.bank == k) with
  | some l, some w =>
    if bankState s k = 0 then unchanged s
    else
      let raw := [t0, t1, t2, t3].map BitVec.toInt
      let m := medianOf raw
      let bad := raw.countP (fun t => decide (160 < (t - m).natAbs))
      let ts := raw.map (sensorValue m)
      let s1 := forEach raw.zipIdx (fun e t => wrf t .thmTemp (4 * k + e.2) 15 0 (unsigned 16 e.1)) s
      let s2a := updBank (if bad = 0 then s1 else flag s1 .thmSticky 0 2) k (fun x => { x with sensorBad := bad })
      let s2 := markSetpoint (feedForward s2a k obs.act) k row.val obs.low
      let s3 := if 2 ≤ bad then suspect s2 k 4 else settleThermal s2 k
      let codes := laneNums.map (fun lane => (lane, heaterCode s3 k l w lane row.val (rowTemp ts (feedTemp s3 k) row.val)))
      let s4 := forEach codes (fun e t => wrf t .rfxTrim (k * 1088 + e.1 * 32 + row.val) 31 16 (unsigned 16 e.2.1)) s3
      let clamps := codes.any (fun e => e.2.2 && (laneAt (bankAt s4 k) e.1).st == 0)
      let s5 := updBank s4 k (fun x =>
        let others := x.clampRows.filter (· != row.val)
        { x with clampRows := if clamps then others ++ [row.val] else others })
      let s6 :=
        if clamps then suspect (flag s5 .rfxSticky 0 3) k 8
        else if (bankAt s5 k).clampRows.isEmpty then clearCause s5 k 8 else s5
      let (p, s7) := freshWord s6
      .next (wrf s7 .thmHtrPwr 0 15 0 p.toNat)
  | _, _ => unchanged s

/-! ## Stage 9 (R192, R199, R512) -/

/-- The lanes after the first heats: the lowest 32 working lanes carry inputs 0 to 31, the rest are spares. -/
def firstLanes (s : State) (failed : List Nat) (b : Nat) : State :=
  updBank s b (fun x =>
    let good := laneNums.filter (fun l => !failed.contains l)
    let put (y : Bank) (l : Nat) : Bank :=
      if failed.contains l then setLane y l ⟨3, noInput, none, s.now, 0x4000⟩
      else
        let i := (good.findIdx? (· == l)).getD 0
        if i < 32 then setLane y l ⟨0, i, some s.now, 0, (laneAt y l).gain⟩
        else setLane y l ⟨1, noInput, some s.now, 0, (laneAt y l).gain⟩
    { laneNums.foldl put x with heat := none, swap := none })

/-- The bank's serving scull, as the RFX list and the live sculls give it. -/
def setServing (s : State) (b : Nat) : State :=
  match servingOf s b with
  | some u => wrf s .rfxBankStat b 28 24 u
  | none => s

/-- One bank at the end of stage 9. Every TRIM and GAIN found by the first heats is a free value (assumption 4). -/
def warmBank (s : State) (w : Warmup) (b : Nat) : State :=
  if !rdb s .rfxBankCfg b 31 || (layerOfBank s b).isNone then s
  else
    let failed := (w.laneFail.filter (fun e => e.1.val == b)).map (fun e => e.2.val)
    let s0 := setServing s b
    let s1 := forEach laneNums (fun l t =>
      let (g, t1) := freshWord t
      updBank t1 b (fun x => setLane x l { laneAt x l with gain := g.toNat % 65536 })) (setBankState s0 b 1)
    let s2 := forEach (List.range (34 * 32)) (fun i t =>
      let (v, t1) := freshWord t
      wrf t1 .rfxTrim (b * 1088 + i) 15 0 v.toNat) s1
    let s3 := showLanes (firstLanes s2 failed b) b
    let s4 := if failed.isEmpty then s3 else flag s3 .rfxSticky 0 5
    let s5 := if !w.lightX then suspect s4 b 3 else s4
    let s6 :=
      if w.setpointFail.contains (Fin.ofNat 4 b) then
        suspect (updBank (flag s5 .thmSticky 0 1) b (fun x => { x with lowRows := List.range 32 })) b 4
      else if !rdb s5 .pwrRail 0 9 then suspect s5 b 4 else s5
    let s7 := if 34 - failed.length < 32 then suspect s6 b 7 else s6
    if bankState s7 b = 1 && w.probationFail.contains (Fin.ofNat 4 b) then failProbation s7 b else s7

end Sys2Proof.Machine
end

