-- ==== Sys2Proof/Machine/Slots.lean ====
section
/-! DEFINITION. Carry slots (12_scan_engine.md R381 to R385, R391, R454): where they lie, checkpoints and restore. -/

namespace Sys2Proof.Machine

/-- Device addresses and lengths of the pieces of `n` bytes from context address `va`, by 64 KiB pages; `none` when a page
is not mapped. `fuel` bounds the pages. -/
def pagePieces (s : State) (space : Nat) : Nat → Nat → Nat → Option (List (Nat × Nat))
  | 0, _, n => if n = 0 then some [] else none
  | f + 1, va, n =>
    if n = 0 then some []
    else
      let k := Nat.min n (65536 - va % 65536)
      match leafOf s space va, pagePieces s space f (va + k) (n - k) with
      | some (x, size), some l => some ((leafAddr x size va, k) :: l)
      | _, _ => none

/-- Where a slot lies: in the window on the lowest scull of the mask in force, or in the pages of its region. -/
def slotPieces (s : State) (m : Model) (d : SlotDir) : Option (List (Nat × Nat)) :=
  match slotRegion m d with
  | none => none
  | some r =>
    if r.attr / 4 % 2 = 1 then
      let u := lowestScull (maskOf s m.inst)
      some [(spadAddr u ((windowOf s u m.ctx).1 + d.vaddr), d.len)]
    else pagePieces s m.ctx (d.len / 65536 + 2) d.vaddr d.len

/-- Contents of a slot, and whether a word of it is poisoned. -/
def slotRead (s : State) (m : Model) (d : SlotDir) : Option (List Byte × Bool) :=
  (slotPieces s m d).map (fun l => ((l.map (fun p => memRead s p.1 p.2)).flatten, l.any (fun p => poisonIn s p.1 p.2)))

/-- Write pieces in order. -/
def writePieces (s : State) : List (Nat × Nat) → List Byte → State
  | [], _ => s
  | p :: ps, bs => writePieces (memWrite s p.1 (bs.take p.2)) ps (bs.drop p.2)

def slotWrite (s : State) (m : Model) (d : SlotDir) (bs : List Byte) : State :=
  match slotPieces s m d with
  | some l => writePieces s l (slice bs 0 d.len)
  | none => s

/-- A recovery item is a checkpoint. -/
def isCkpt (r : RecItem) : Bool := match r with
  | .checkpoint _ _ => true
  | _ => false

def noCopy (_k : Nat) : Option Copy := none

/-- A copy of slot `k` of instance `i` behind its header: stroke, epoch, instance, slot, LEN and CRC-32 (R383). -/
def mkCopy (i k stroke epoch : Nat) (bs : List Byte) : Copy :=
  ⟨bytesOf 8 stroke ++ bytesOf 1 epoch ++ bytesOf 1 i ++ bytesOf 1 k ++ bytesOf 5 0 ++ bytesOf 4 bs.length
    ++ bytesOf 4 (crc32 bs).toNat ++ bytesOf 40 0, bs⟩

/-- A buffer holds a checkpoint when its header is not zero and its CRC is that of the contents. -/
def complete (c : Option Copy) : Option Copy :=
  c.filter (fun c => c.head.any (· != 0) && c.crc == (crc32 c.bytes).toNat)

/-- The newest complete checkpoint of a slot, judged by stroke number (R385). -/
def newestCopy (x : Inst) (k : Nat) : Option Copy :=
  match complete (Tab.get noCopy x.ckA k), complete (Tab.get noCopy x.ckB k) with
  | some a, some b => some (if a.stroke < b.stroke then b else a)
  | some a, none => some a
  | none, b => b

/-- Put a complete checkpoint into the buffer that does not hold the newest one (R383). -/
def putCopy (x : Inst) (k : Nat) (c : Copy) : Inst :=
  let intoA := match complete (Tab.get noCopy x.ckA k), complete (Tab.get noCopy x.ckB k) with
    | some a, some b => decide (a.stroke < b.stroke)
    | some _, none => false
    | none, _ => true
  if intoA then { x with ckA := Tab.set id noCopy k (some c) x.ckA } else { x with ckB := Tab.set id noCopy k (some c) x.ckB }

/-- The scull whose SCN counters count for an instance: the lowest of its SCULL_MASK. -/
def ckptScull (s : State) (i : Nat) : Nat :=
  match modelOf s i with
  | some m => lowestScull m.mask
  | none => 0

/-- A checkpoint is discarded (R27, R384, R454). -/
def dropCkpt (s : State) (i : Nat) : State :=
  let u := ckptScull s i
  flag (if s.run then bump s .scnCkptDrop u else s) .scnSticky u 2

/-- A checkpoint waits for a later recovery (R384). -/
def deferCkpt (s : State) (i : Nat) : State :=
  let u := ckptScull s i
  flag (if s.run then bump s .scnCkptDefer u else s) .scnSticky u 1

/-- Copy slot `k` of instance `i` into a checkpoint buffer; poison discards the copy (R454). -/
def takeCkpt (s : State) (i k : Nat) : State :=
  match modelOf s i with
  | some m =>
    match m.slots[k]? with
    | some d =>
      match slotRead s m d with
      | some (bs, false) => updInst s i (fun x => putCopy x k (mkCopy i k (strokeNat s) x.epoch bs))
      | _ => dropCkpt s i
    | none => s
  | none => s

/-- What a slot holds at the start: its CARRY contents, or zero (R391). -/
def carryBytes (s : State) (i k : Nat) : List Byte :=
  match (image s).carry.find? (fun e => e.inst == i && e.slot == k) with
  | some e => e.bytes
  | none => []

/-- Restore the slots that `p` selects from their newest checkpoints; one without a checkpoint takes its CARRY contents or
zero, and CARRY_LOST is raised (R385). -/
def restoreSlots (s : State) (i : Nat) (p : SlotDir → Bool) : State :=
  match modelOf s i with
  | some m =>
    let ks := (m.slots.zipIdx).filter (fun e => p e.1)
    let lost := ks.any (fun e => (newestCopy (instAt s i) e.2).isNone)
    let s1 := forEach ks (fun e t =>
      match newestCopy (instAt t i) e.2 with
      | some c => slotWrite t m e.1 c.bytes
      | none => slotWrite t m e.1 (carryBytes t i e.2)) s
    if lost then raiseNow s1 cCarryLost scInstance i else s1
  | none => s

/-- The stroke of the oldest of the newest checkpoints that a restore of the instance takes (R603). -/
def restoredStroke (s : State) (i : Nat) : Nat :=
  match modelOf s i with
  | some m =>
    ((List.range m.slots.length).filterMap (fun k => (newestCopy (instAt s i) k).map (·.stroke))).foldl Nat.min (strokeNat s)
  | none => strokeNat s

/-- Fill every slot at stage 7, and clear its checkpoints (R391). -/
def fillSlots (s : State) (i : Nat) : State :=
  match modelOf s i with
  | some m =>
    updInst (forEach m.slots.zipIdx (fun e t => slotWrite t m e.1 (carryBytes t i e.2)) s) i
      (fun x => { x with ckA := [], ckB := [] })
  | none => s

end Sys2Proof.Machine
end

