-- ==== Sys2Proof/Machine/Load.lean ====
section
/-! DEFINITION. What Cox lays out for an image at stage 7 (14_memory_translation_dma.md R429 to R436, R457; 08_scull.md
R257, R264; 19_host_port_and_telemetry.md R581): staged regions, page tables, allotment pages, windows and buffers. -/

namespace Sys2Proof.Machine

/-! ## Staged regions (R431) -/

/-- A region that Cox stages: its context (64: the stern core), its index, where and how it is mapped, its bytes. -/
structure Item where
  ctx : Nat
  region : Nat
  va : Nat
  len : Nat
  pinned : Bool
  exec : Bool
  writable : Bool
  bytes : List Byte
  deriving DecidableEq, Repr

/-- The CREW records and the MODEL regions outside the scratchpad. -/
def imageItems (g : Image) : List Item :=
  g.crew.zipIdx.map (fun e => ⟨e.1.context, e.2, e.1.vaddr, e.1.len, true, e.1.attr % 2 == 1, e.1.attr / 2 % 2 == 1, e.1.bytes⟩)
    ++ (g.models.map (fun m => (m.regions.zipIdx.filter (fun e => !regionSpad e.1)).map (fun e =>
        (⟨m.ctx, e.2, e.1.vaddr, e.1.len, regionPinned e.1, false, regionWritable e.1, e.1.bytes⟩ : Item)))).flatten

/-- First page address and number of 64 KiB pages of an item. -/
def itemBase (i : Item) : Nat := i.va / 65536 * 65536
def itemPages (i : Item) : Nat := (i.va + i.len + 65535) / 65536 - i.va / 65536

/-- The least address from `cur` on that aligns as `va` does: to 2 MiB for an item of at least 2 MiB, else to 64 KiB. -/
def placeAt (cur va pages : Nat) : Nat :=
  let n := if 32 ≤ pages then 2 ^ 21 else 2 ^ 16
  let want := va % n
  let up := cur / n * n + want
  if cur ≤ up then up else up + n

/-- Give every item a device address, one after another (assumption 7). -/
def placeItems : Nat → List Item → List (Item × Nat)
  | _, [] => []
  | cur, i :: is =>
    let a := placeAt cur (itemBase i) (itemPages i)
    (i, a) :: placeItems (a + itemPages i * 65536) is

/-- First device address of staged regions: some 11 GiB of HBM for each flash slot, in which Cox chooses. -/
def stageBase (g : Image) : Nat := 0x4000000 + g.slot % 2 * 0x2E0000000 + Config.stagingBase g.buildId % 1024 * 65536

/-- The end of the area of one flash slot. -/
def stageEnd (g : Image) : Nat := 0x2E0000000 + g.slot % 2 * 0x2E0000000

/-- The bytes of an item at its place. -/
def stageBytes (e : Item × Nat) (s : State) : State :=
  let (i, a) := e
  memWrite s a (List.replicate (i.va % 65536) 0 ++ slice i.bytes 0 (itemPages i * 65536 - i.va % 65536))

/-- The allotment entry of an item at its place. -/
def itemAllot (e : Item × Nat) : Allot :=
  ⟨e.2, itemPages e.1 * 65536, e.1.ctx, e.1.region, if e.1.pinned then 3 else 0, itemBase e.1⟩

/-- The allotments of the staged regions of an image. -/
def allotsOf (g : Image) : List Allot := (placeItems (stageBase g) (imageItems g)).map itemAllot

/-- Stage one item: its bytes, its allotment entry, and its mapping when it is pinned. -/
def stageItem (e : Item × Nat) (s : State) : State :=
  let (i, a) := e
  let s1 := stageBytes e s
  let s2 := { s1 with allot := s1.allot ++ [itemAllot e] }
  if i.pinned then mapRange s2 i.ctx (itemBase i) a (pteFlags true i.exec i.writable) (itemPages i + 1) (itemPages i) else s2

/-! ## Windows (R257) -/

/-- Length that the masks in force give the window of context `c` on scull `u`. -/
def windowNeed (s : State) (u c : Nat) : Nat :=
  let ends := ((image s).models.filter (fun m => m.ctx == c && (maskOf s m.inst).getLsbD u)).map (fun m =>
    (m.regions.filter regionSpad).map (fun r => r.vaddr + r.len))
  (ends.flatten.foldl Nat.max 0 + 4095) / 4096 * 4096

/-- Contexts with an instance on scull `u`. -/
def ctxsOn (s : State) (u : Nat) : List Nat := (List.range 64).filter (fun c => (ctxMask s c).getLsbD u)

/-- Bytes of windows and save areas on a scull (R448). -/
def spadUse (s : State) (u : Nat) : Nat := ((ctxsOn s u).map (fun c => windowNeed s u c + 593920)).sum

/-- The bases, multiples of 4 KiB, at which `need` bytes fit below `limit` beside the ranges (base, length) that are
taken: gap by gap, the first base and how many there are. -/
def gapBases (limit need : Nat) (taken : List (Nat × Nat)) : List (Nat × Nat) :=
  (0 :: taken.map (fun e => e.1 + e.2)).filterMap (fun lo =>
    let hi := ((taken.map (·.1)).filter (fun b => decide (lo ≤ b))).foldl Nat.min limit
    if lo + need ≤ hi then some (lo, (hi - lo - need) / 4096 + 1) else none)

/-- The `i`-th of those bases. -/
def nthBase : List (Nat × Nat) → Nat → Option Nat
  | [], _ => none
  | (b, n) :: rest, i => if i < n then some (b + i * 4096) else nthBase rest (i - n)

/-- The base that Cox chooses among them. -/
def chooseBase (limit need pick : Nat) (taken : List (Nat × Nat)) : Option Nat :=
  let g := gapBases limit need taken
  nthBase g (pick % Nat.max 1 (g.map (·.2)).sum)

/-- The windows of a scull one against the other, from offset `cur` on. -/
def packWindows : Nat → Table Nat (Nat × Nat) → Table Nat (Nat × Nat)
  | _, [] => []
  | cur, (c, w) :: rest => (c, (cur, w.2)) :: packWindows (cur + w.2) rest

/-- The bytes and poison marks of [a, a + n), by their distance from `a`. -/
def cellsIn (s : State) (a n : Nat) : List (Nat × Byte) :=
  (s.mem.filter (fun e => decide (a ≤ e.1) && decide (e.1 < a + n))).map (fun e => (e.1 - a, e.2))
def marksIn (s : State) (a n : Nat) : List Nat :=
  (s.poisoned.filter (fun e => e.2 && decide (a ≤ e.1 * 8) && decide (e.1 * 8 < a + n))).map (fun e => e.1 * 8 - a)

/-- Move ranges of a scull's scratchpad (from, to, length), all at once. -/
def moveSpad (s : State) (u : Nat) (l : List (Nat × Nat × Nat)) : State :=
  let s1 := forEach l (fun m t => memClear t (spadAddr u m.2.1) m.2.2) s
  forEach l (fun m t =>
    let t1 := forEach (cellsIn s (spadAddr u m.1) m.2.2) (fun e t => memWrite t (spadAddr u m.2.1 + e.1) [e.2]) t
    forEach (marksIn s (spadAddr u m.1) m.2.2) (fun o t => poisonWord t (spadAddr u m.2.1 + o)) t1) s1

/-- Give a scull its windows anew: what a window holds goes with it. -/
def setWindows (s : State) (u : Nat) (new : Table Nat (Nat × Nat)) : State :=
  let moves := new.filterMap (fun e =>
    let o := windowOf s u e.1
    if o.2 = 0 || o.1 = e.2.1 then none else some (o.1, e.2.1, Nat.min o.2 e.2.2))
  moveSpad (updScull s u (fun x => { x with windows := new })) u moves

/-- Give a context its window of `need` bytes on a scull within R257, where Cox chooses: beside the windows that stay and the
ranges `kept`, or, where it fits nowhere, with the windows packed. -/
def placeWindow (u c need : Nat) (kept : List (Nat × Nat)) (s : State) : State :=
  let ws := (scullAt s u).windows.filter (fun e => e.1 != c)
  let limit := spadLen - 593920 * (ctxsOn s u).length
  if need = 0 then setWindows s u ws
  else match chooseBase limit need (Config.windowBase (image s).buildId c u) (kept ++ ws.map (·.2)) with
    | some b => setWindows s u (Tab.set id (fun _ => (0, 0)) c (b, need) ws)
    | none => setWindows s u (packWindows ((kept.map (fun e => e.1 + e.2)).foldl Nat.max 0) (Tab.set id (fun _ => (0, 0)) c (0, need) ws))

def layWindow (u c : Nat) (s : State) : State :=
  let need := windowNeed s u c
  if need = (windowOf s u c).2 then s else placeWindow u c need [] s

/-- All windows of the placement in force; a context that has left a scull has none there. -/
def layWindows (s : State) : State :=
  forEach (List.range 16) (fun u t =>
    let on := ctxsOn t u
    let t1 := updScull t u (fun x => { x with windows := x.windows.filter (fun e => on.contains e.1) })
    forEach on (layWindow u) t1) s

/-- Copy the SCRATCHPAD regions of an instance into the windows of its sculls (R163). -/
def copySpad (s : State) (i : Nat) : State :=
  match modelOf s i with
  | some m => forEach (maskList (maskOf s i)) (fun u t =>
      forEach (m.regions.filter regionSpad) (fun r t2 =>
        memWrite t2 (spadAddr u ((windowOf t2 u m.ctx).1 + r.vaddr)) (slice r.bytes 0 r.len)) t) s
  | none => s

/-- The allotment entries of windows: the 64 KiB pages that lie wholly inside one. -/
def windowAllots (s : State) : List Allot :=
  ((List.range 16).map (fun u => (scullAt s u).windows.filterMap (fun e =>
    let lo := (e.2.1 + 65535) / 65536 * 65536
    let hi := (e.2.1 + e.2.2) / 65536 * 65536
    if lo < hi then some ⟨spadAddr u lo, hi - lo, e.1, 0, 4, 0⟩ else none))).flatten

/-! ## Tables and pages (R429, R432, R434, R436) -/

/-- Whether R208 lets a context, or the stern core, reach block `b` at all. -/
def blockShown (s : State) (space : Nat) (b : Block) : Bool :=
  let rq : Requester := if space = 64 then .stern else .ctx (Fin.ofNat 64 space)
  if perScull b then space = 64 || ctxMask s space != 0
  else mayReach s rq b 0 false || (b == .cox)

/-- Map the register blocks at 0xF_0000_0000 (R429). -/
def mapBlocks (s : State) (space : Nat) : State :=
  forEach (allBlocks.zipIdx.filter (fun e => blockShown s space e.1)) (fun e t =>
    mapSmall t space (0xF00000000 + e.2 * 65536) (regBase + e.2 * 65536) (pteFlags true false true)) s

/-- One 16-byte entry of an allotment table page. -/
def allotEntry (a : Allot) : List Byte :=
  bytesOf 8 a.paddr ++ bytesOf 4 a.len ++ bytesOf 1 (if a.ctx = 64 then 0xFF else a.ctx) ++ bytesOf 1 a.region
    ++ bytesOf 1 a.flags ++ bytesOf 1 0

/-- Write and map the allotment table page of an address space: the stern core's lists every context. -/
def writeAllotPage (s : State) (space : Nat) : State :=
  let es := s.allot.filter (fun a => space == 64 || a.ctx == space)
  let s1 := memWrite s (allotPageAt s space) (slice (es.map allotEntry).flatten 0 65536)
  mapSmall s1 space 0xEFFFF0000 (allotPageAt s space) (pteFlags true false false)

/-- Build the tables of an address space anew from its allotment (R441, R556): its pinned regions and register blocks. -/
def buildTables (s : State) (g : Image) (space : Nat) : State :=
  let s1 := memClear (memClear s (l1At s space) 0x40000) (l2At s space 0) 0x800000
  let s2 := forEach (imageItems g) (fun i t =>
    if i.ctx == space && i.pinned then
      match t.allot.find? (fun a => a.ctx == space && a.vaddr == itemBase i) with
      | some a => mapRange t space (itemBase i) a.paddr (pteFlags true i.exec i.writable) (itemPages i + 1) (itemPages i)
      | none => t
    else t) s1
  writeAllotPage (mapBlocks s2 space) space

/-- Publish the roots in both eights. -/
def publishRoot (s : State) (space : Nat) : State :=
  let v := BitVec.ofNat 32 (l1At s space / 65536)
  if space = 64 then wr (wr s .mmuRootSc 0 v) .mmuRootSc 1 v else wr (wr s .mmuRoot space v) .mmuRoot (64 + space) v

/-- Address spaces that an image uses, the stern core's among them. -/
def spacesOf (g : Image) : List Nat :=
  ((List.range 64).filter (fun c => g.crew.any (fun r => r.context == c) || g.models.any (fun m => m.ctx == c))) ++ [64]

/-- Locked entries of eight `e`: the pinned mappings of its REFLEX, STROKE and GUARD contexts (R436). -/
def lockedOf (s : State) (e : Nat) : Nat :=
  let here (c : Nat) : Bool := decide (c < 64) && decide (ctxRank s c < 3) && ((ctxMask s c).toNat / 256 ^ e % 256 != 0)
  ((s.allot.filter (fun a => here a.ctx && a.flags % 4 == 3)).map (fun a =>
    rangeEntries a.vaddr a.paddr (a.len / 65536 + 1) (a.len / 65536))).sum

/-- The EXEC regions of REFLEX, STROKE and GUARD contexts that scull `u` holds (R264). -/
def codeOn (s : State) (u : Nat) : List Code :=
  ((image s).crew.filter (fun r => r.attr % 2 == 1 && decide (r.context < 64) && decide (ctxRank s r.context < 3)
    && (ctxMask s r.context).getLsbD u)).map (fun r => ⟨r.context, r.vaddr, slice r.bytes 0 r.len⟩)

/-- Their bytes. -/
def imemOf (s : State) (u : Nat) : Nat := ((codeOn s u).map (fun c => c.bytes.length)).sum

/-- Device address of the 64 MiB telemetry window (R581). -/
def telemetryAt : Nat := 0x5C0000000 + Config.telemetryBase % 1024 * 65536

/-- Map the telemetry window into the stern core's space. -/
def mapTelemetry (s : State) : State :=
  let s1 := wr (wr s .hstTelwin 0 (BitVec.ofNat 32 telemetryAt)) .hstTelwin 1 (BitVec.ofNat 32 (telemetryAt / 2 ^ 32))
  mapRange s1 64 0xEF0000000 telemetryAt (pteFlags true false true) 1025 1024

/-- Buffers of an instance of the image of flash slot `k`: the spec names them and gives no address (assumption 7). -/
def setBuffers (s : State) (k i : Nat) : State :=
  updInst s i (fun x => { x with inBase := Config.inputBase k i, outBase := Config.outputBase k i })

/-- Fill the instruction memory of a scull, and show what it holds in SCL_IMEM (R264). -/
def fillImem (u : Nat) (s : State) : State :=
  let code := codeOn s u
  let s1 := if (scullAt s u).imem = code then s else updScull s u (fun x => { x with imem := code })
  wrf s1 .sclImem u 17 0 (Nat.min (imemOf s u) 131072)

/-- MMU_LOCKED, the instruction memories and SCL_IMEM of the masks in force. -/
def showLocks (s : State) : State :=
  forEach (List.range 16) fillImem (forEach [0, 1] (fun e t => wrf t .mmuLocked e 9 0 (Nat.min (lockedOf t e) 768)) s)

/-- Windows after a change of placement, and the allotment entries and pages that follow. -/
def relayWindows (s : State) : State :=
  let s1 := layWindows s
  let s2 := { s1 with allot := s1.allot.filter (fun a => a.flags != 4) ++ windowAllots s1 }
  showLocks (forEach (spacesOf (image s2)) (fun c t => writeAllotPage t c) s2)

/-- Every step of stage 7 for the image in force (R391, R457): staging, tables, windows, slots, instruction memory. -/
def loadImage (s : State) : State :=
  let g := image s
  let s1 := forEach (placeItems (stageBase g) (imageItems g)) stageItem { s with allot := [] }
  let s2 := forEach (g.models.map (·.inst)) (fun i t => copySpad (setBuffers t g.slot i) i) (layWindows s1)
  let s3 := { s2 with allot := s2.allot ++ windowAllots s2 }
  let s4 := forEach (spacesOf g) (fun c t => publishRoot (writeAllotPage (mapBlocks t c) c) c) s3
  let s5 := mapTelemetry s4
  forEach (g.models.map (·.inst)) (fun i t => fillSlots t i) (showLocks s5)

/-- Everything staged fits its memory (R194). -/
def stagedFits (g : Image) : Bool :=
  (placeItems (stageBase g) (imageItems g)).all (fun e => decide (e.2 + itemPages e.1 * 65536 ≤ stageEnd g))

end Sys2Proof.Machine
end

