-- ==== Sys2Proof/Machine/Channels.lean ====
section
/-! DEFINITION. DMA descriptors and channels (14_memory_translation_dma.md R442 to R444, R447): reading and starting a
descriptor, the progress word, and channels across a context switch. -/

namespace Sys2Proof.Machine

/-! ## Descriptors (R442) -/

structure Desc where
  src : Nat
  dst : Nat
  len : Nat
  rows : Nat
  ctl : Nat
  sstride : Nat
  dstride : Nat
  next : Nat
  status : Nat
  row : Nat
  bytes : Nat
  deriving DecidableEq, Repr

def parseDesc (b : List Byte) : Desc :=
  let prog := field b 0x28 8
  ⟨field b 0 8, field b 8 8, field b 0x10 4, field b 0x14 2, field b 0x16 2, field b 0x18 4, field b 0x1C 4, field b 0x20 8,
   prog / 2 ^ 56 % 256, prog / 2 ^ 24 % 65536, prog % 2 ^ 24⟩

def Desc.srcLocal (d : Desc) : Bool := d.ctl.testBit 0
def Desc.dstLocal (d : Desc) : Bool := d.ctl.testBit 1
def Desc.chain (d : Desc) : Bool := d.ctl.testBit 2

/-- What reading a descriptor finds. -/
inductive DescGot where
  | ok (d : Desc) (dev : Nat)
  | xlate (reason : Nat)
  | poison (dev : Nat)
  | misaligned (addr : Nat)
  | illegal
  deriving DecidableEq, Repr

/-- The fields that must be multiples of 64, then the other rules. The stern core has no local sides (R446). -/
def descRules (u : Nat) (d : Desc) (fresh : Bool) (dev : Nat) : DescGot :=
  match [d.src, d.dst, d.len, d.sstride, d.dstride].find? (fun v => v % 64 != 0) with
  | some v => .misaligned v
  | none =>
    if d.len < 64 || decide (16777216 < d.len) || d.rows == 0 || decide (8 ≤ d.ctl)
        || (u == sternUnit && decide (d.ctl % 4 ≠ 0)) || (fresh && d.status != 0) then .illegal
    else .ok d dev

/-- Read a descriptor at a context address: aligned, translated, in a pinned and writable page. `fresh` asks for STATUS
NEW. -/
def readDesc (s : State) (u k va : Nat) (fresh : Bool) : State × DescGot :=
  if va % 64 ≠ 0 then (s, .misaligned va)
  else match translate s u (spaceOf k) va .write with
    | (t, .inl 1) => (t, .illegal)
    | (t, .inl r) => (countFault t u, .xlate r)
    | (t, .inr a) =>
      match firstPoison t a 64 with
      | some dev => (t, .poison dev)
      | none =>
        let pin := match walk t (rootOf t (eightOf u) (spaceOf k)) va with
          | (some (x, _), _) => ptePin x
          | _ => false
        if !pin || decide (regBase ≤ a) then (t, .illegal)
        else (t, descRules u (parseDesc (memRead t a 64)) fresh a)

/-- The progress word. -/
def progWord (status fault row bytes : Nat) : DWord :=
  BitVec.ofNat 64 (status % 256 * 2 ^ 56 + fault % 256 * 2 ^ 48 + row % 65536 * 2 ^ 24 + bytes % 2 ^ 24)

/-- The device address of a channel's descriptor. -/
def descDev (s : State) (u k : Nat) (c : Channel) : Option Nat :=
  match walk s (rootOf s (eightOf u) (spaceOf k)) c.desc.toNat with
  | (some (x, size), _) => some (leafAddr x size c.desc.toNat)
  | _ => none

/-- Write PROG, and FADDR where it applies (R444). -/
def writeProg (s : State) (u k : Nat) (c : Channel) (p : DWord) (faddr : Option Nat) : State :=
  match descDev s u k c with
  | none => s
  | some a =>
    let s1 := memWrite s (a + 0x28) (bytesOf 8 p.toNat)
    match faddr with
    | some f => memWrite s1 (a + 0x30) (bytesOf 8 f)
    | none => s1

/-! ## Channels -/

def putCh (s : State) (u n : Nat) (c : Channel) : State := updScull s u (fun x => setCh x n c)

/-- The channel that a dma.go names; the stern core has channel 0 only (R268). -/
def goChan (w : BitVec 56) : Nat := iMinor w % 4
def chanOk (u : Nat) (w : BitVec 56) : Bool := decide (iMinor w < 4) && (u != sternUnit || iMinor w == 0)

/-- An execution trap of a dma.go at its start (R443). -/
def goTrap (s : State) (k : Nat) (q : QEntry) (g : DescGot) : State :=
  let a := argOf q 0
  match g with
  | .misaligned v => engTrap s k q tMisaligned [q.pc, instrWord q.major q.w, BitVec.ofNat 64 v]
  | .xlate r => engTrap s k q tXlate (memDetails q.pc a 8 (goChan q.w) false false r 0 0)
  | .poison dev => engTrap s k q tPoison (memDetails q.pc a 8 (goChan q.w) false false 0 dev 0)
  | _ => engTrap s k q tIllegal [q.pc, instrWord q.major q.w]

/-- Start the first dma.go of a unit's queue when its channel is idle. -/
def startGo (s : State) (u : Nat) : State :=
  match (scullAt s u).qDma with
  | [] => s
  | q :: qs =>
    let n := goChan q.w
    let k := ctxKey u q.ctx
    if (chAt (scullAt s u) n).state ≠ 0 || stopping s u || (n == 3 && streamRuns s u) then s
    else
      let s1 := updScull s u (fun x => { x with qDma := qs })
      match readDesc s1 u k (argOf q 0) true with
      | (t, .ok _ dev) =>
        let a := BitVec.ofNat 64 (argOf q 0)
        putCh t u n ⟨1, q.ctx, a, 0, 0, some { q with started := true }, progWord 1 0 0 0, memRead t dev 64⟩
      | (t, g) => goTrap t k q g

/-- Start what can start, in order. -/
def startGos (s : State) (u : Nat) : Nat → State
  | 0 => s
  | n + 1 => startGos (startGo s u) u n

/-! ## Switching out and in (R267, R444, R447) -/

/-- Stop and save the channels of a context. -/
def saveChannels (s : State) (u k : Nat) : State :=
  forEach [0, 1, 2, 3] (fun n t =>
    let c := chAt (scullAt t u) n
    if c.state = 0 || c.ctx ≠ k % 64 || c.entry.isNone then t
    else
      let p := if c.state = 1 then progWord 4 0 c.row c.bytes else c.prog
      let t1 := if c.state = 1 then writeProg t u k c p none else t
      let kept := { c with state := if c.state = 1 then 3 else c.state, prog := p }
      let t2 := updCtx t1 k (fun x => { x with savedCh := Tab.set id (fun _ => Channel.idle) n kept x.savedCh })
      putCh t2 u n Channel.idle) s

/-- Restore them: a stopped channel runs again. -/
def restoreChannels (s : State) (u k : Nat) : State :=
  forEach (ctxAt s k).savedCh (fun e t =>
    if (chAt (scullAt t u) e.1).state ≠ 0 then t
    else
      let c := if e.2.state = 3 then { e.2 with state := 1, prog := progWord 1 0 e.2.row e.2.bytes } else e.2
      let t1 := updCtx t k (fun x => { x with savedCh := x.savedCh.filter (fun f => f.1 != e.1) })
      putCh t1 u e.1 c) s

end Sys2Proof.Machine
end

