-- ==== Sys2Proof/Machine/Sched.lean ====
section
/-! DEFINITION. The service scheduler (15_service_classes_and_overload.md): what a scull runs next, release, completion
and abandonment of steps, GUARD events, TREND frames and REFLEX queues. -/

namespace Sys2Proof.Machine

/-! ## Instances and contexts -/

def clsOf (s : State) (i : Nat) : Option Class := (modelOf s i).map (·.cls)

def ctxOfInst (s : State) (i : Nat) : Nat :=
  match modelOf s i with
  | some m => m.ctx
  | none => 64

/-- Units on which context `c` may run: the sculls of its instances; the stern core is context 64. -/
def unitsOf (s : State) (c : Nat) : List Nat := maskList (ctxMask s c)

/-- A context is halted when one of its units is. -/
def ctxHalted (s : State) (c : Nat) : Bool := (unitsOf s c).any (fun u => (ctxAt s (ctxKey u c)).halt != .none)

/-- A context is halted by a context fault (R480). -/
def ctxFaulted (s : State) (c : Nat) : Bool :=
  (unitsOf s c).any (fun u => match (ctxAt s (ctxKey u c)).halt with
    | .fault _ => true
    | _ => false)

/-- Instances of class `k`, in INSTANCE order. -/
def instsOf (s : State) (k : Class) : List Nat := ((image s).models.filter (fun m => m.cls == k)).map (·.inst)

/-- DMA of a STROKE context that a scull has not started: in recovery, the DMA for the next stroke (R27). -/
def dmaWaits (s : State) (u : Nat) : Bool :=
  (scullAt s u).qDma.any (fun q => !q.started && ctxRank s q.ctx == 1)

/-! ## Which step runs next (R460, R465, R467, R477) -/

/-- Place of a ready step: the rank of its context, suspended STROKE steps after the others, ENTRY runs and resumed steps
first, then ORDER or the age of the event. -/
def readyRank (s : State) (r : Ready) : Nat :=
  let g := match ctxRank s r.ctx with
    | 0 => 0
    | 1 => if r.spentOut && r.cls == .stroke then 2 else 1
    | 2 => 3
    | _ => 4
  let first := if r.kind == .entry then 0 else if r.resume then 1 else 2
  (g * 3 + first) * 2 ^ 64 + r.order

def bestReady (s : State) (u : Nat) : Option Ready :=
  (scullAt s u).ready.foldl (fun b r => match b with
    | none => some r
    | some x => if readyRank s r < readyRank s x then some r else some x) none

/-- Rank of the context that runs on a scull. -/
def runningRank (s : State) (u : Nat) : Option Nat := (scullAt s u).running.map (ctxRank s)

/-- Start the first entry of every engine queue of a scull. -/
def startHeads (s : State) (u : Nat) : State :=
  forEach [Engine.array, .schuss, .vector, .scan] (fun e t => startNext t u e) s

/-- An interrupted scan goes on, unless a trap is due (R378). -/
def resumeScan (s : State) (k : Nat) : State :=
  if (nextTrap (ctxAt s k)).isSome then s
  else updCtx s k (fun c => { c with scan := c.scan.map (fun x => if x.running then x else { x with running := true, staged := 0, waitSince := s.now }) })

/-- Requeue what waited when a context was switched out (R267). -/
def requeue (x : Scull) (l : List QEntry) : Scull :=
  l.foldl (fun y q => setQueue y q.engine (queueOf y q.engine ++ [{ q with started := false }])) x

/-- Load a context and start or resume a step on an idle scull. -/
def loadStep (s : State) (u : Nat) (r : Ready) : State :=
  let k := ctxKey u r.ctx
  let s1 := updScull s u (fun x => { x with ready := x.ready.erase r, running := some r.ctx, preempting := false })
  if r.resume then
    let saved := (ctxAt s1 k).saved
    let s2 := updCtx s1 k (fun c =>
      { c with
        saved := [], suspended := r.spentOut
        pc := BitVec.ofNat 64 r.vaddr, step := some ⟨r.inst, r.kind, r.stroke⟩ })
    let s3 := updScull s2 u (fun x => requeue x saved)
    startGos (startHeads (bindFeeder (resumeScan (restoreChannels s3 u k) k) u) u) u 8
  else
    updCtx s1 k (fun c =>
      let c0 := if c.released then c else { Ctx.reset with released := true }
      { c0 with pc := BitVec.ofNat 64 r.vaddr, step := some ⟨r.inst, r.kind, r.stroke⟩, waitDone := false, suspended := false })

/-- An idle scull starts its best ready step; a pre-empted one waits for CONTEXT_RESUME. -/
def startBest (s : State) (u : Nat) : State :=
  if s.run && live s u && (scullAt s u).running.isNone && !(scullAt s u).preempting then
    match bestReady s u with
    | some r => if r.resume then s else loadStep s u r
    | none => s
  else s

/-- A pre-empted context resumes when no higher-class step is ready (R460). -/
def resumeBest (s : State) (u : Nat) : State :=
  if s.run && live s u && (scullAt s u).running.isNone then
    match bestReady s u with
    | some r => if r.resume then loadStep s u r else s
    | none => s
  else s

/-! ## Release (R458) -/

/-- Release a step on all its sculls at once. -/
def release (s : State) (i : Nat) (kind : StepKind) (stroke vaddr order event : Nat) : State :=
  let mask := maskOf s i
  let c := ctxOfInst s i
  let k := (clsOf s i).getD .trend
  let r : Ready := ⟨i, c, k, kind, order, stroke, vaddr, false, false⟩
  let s1 := updInst s i (fun x => { x with running := some ⟨stroke, s.now, mask, kind, event⟩ })
  forEach (maskList mask) (fun u t => startBest (updScull t u (fun x => { x with ready := x.ready ++ [r] })) u) s1

/-- An ENTRY run of a context, at its class rank and with no input (R193, R222, R559). Number 256 stands for no
instance. -/
def releaseEntry (s : State) (c : Nat) : State :=
  match (image s).crew.find? (fun r => r.context == c && r.attr / 4 % 2 == 1) with
  | some e =>
    let r : Ready := ⟨256, c, .trend, .entry, 0, strokeNat s, e.vaddr, false, false⟩
    forEach (unitsOf s c) (fun u t => startBest (updScull t u (fun x => { x with ready := x.ready ++ [r] })) u) s
  | none => s

/-- An ENTRY run of a context is still to end. -/
def entryPending (s : State) (c : Nat) : Bool :=
  (unitsOf s c).any (fun u =>
    (scullAt s u).ready.any (fun r => r.ctx == c && r.kind == .entry) ||
      (match (ctxAt s (ctxKey u c)).step with
       | some x => x.kind == .entry
       | none => false))

/-- A GUARD or TREND instance whose group is prepared waits for its switch edge (R560). -/
def switchHold (s : State) (i : Nat) : Bool :=
  (clsOf s i == some .guard || clsOf s i == some .trend)
    && s.chg.groups.any (fun g => g.prepared && !g.switched && g.insts.contains i)

/-- An instance may be given a step: it is placed, its context runs, and it is neither fenced nor held. -/
def mayStep (s : State) (i : Nat) : Bool :=
  let x := instAt s i
  runs x && !switchHold s i
where
  runs (x : Inst) : Bool := s.run && x.placed && !x.fenced && !x.held && !x.waitCatch && !ctxHalted s (ctxOfInst s i)

def stepVaddr (s : State) (i : Nat) : Nat :=
  match modelOf s i with
  | some m => m.stepVaddr
  | none => 0

/-- The bytes of an instance's buffers. -/
def outBytes (s : State) (i : Nat) : List Byte :=
  match modelOf s i with
  | some m => memRead s (outAddr s i) m.outLen
  | none => []
def inBytes (s : State) (i : Nat) : List Byte :=
  match modelOf s i with
  | some m => memRead s (inAddr s i) m.inLen
  | none => []

/-! ## Abandonment (R466, R468, R469) -/

/-- Take everything of context `c` off a scull: its queued and running instructions and its channels. -/
def clearUnit (s : State) (u c : Nat) : State :=
  let keep (q : QEntry) : Bool := q.ctx != c
  updScull s u (fun x =>
    { x with
      qArray := x.qArray.filter keep, qSchuss := x.qSchuss.filter keep, qVector := x.qVector.filter keep
      qScan := x.qScan.filter keep, qDma := x.qDma.filter keep
      channels := x.channels.filter (fun e => e.2.ctx != c)
      running := if x.running = some c then none else x.running
      preempting := if x.running = some c then false else x.preempting })

/-- Discard a context's step: instructions, held set, due traps and the scan; it next starts at STEP_VADDR. A handler that
was running goes with it (assumption 26). -/
def dropStep (c : Ctx) : Ctx :=
  { c with
    held := [], saved := [], savedCh := [], due := [], scan := none, step := none, suspended := false, waitDone := false
    tw := false, hd := 0 }

/-- Abandon the step of an instance on all its sculls. -/
def abandonStep (s : State) (i : Nat) : State :=
  let c := ctxOfInst s i
  let s1 := updInst s i (fun x => { x with running := none })
  forEach (List.range 16) (fun u t =>
    let t1 := updScull t u (fun x => { x with ready := x.ready.filter (fun r => r.inst != i) })
    let k := ctxKey u c
    match (ctxAt t1 k).step with
    | some st =>
      if st.inst = i then startBest (clearUnit (updCtx t1 k dropStep) u c) u else t1
    | none => t1) s1

/-! ## GUARD events (R467) -/

/-- The trigger word of a watching GUARD instance. -/
def trigWord (s : State) (i : Nat) (e : Sched) : Nat := natOf (memRead s (outAddr s i + e.trigOff) 4)

/-- Give an event to a GUARD instance; beyond four pending it replaces the oldest. -/
def addEvent (s : State) (g : Nat) (v : Nat) : State :=
  let x := instAt s g
  let e : Event := ⟨BitVec.ofNat 32 v, strokeNat s, s.now, s.catchAt, blockOfInst s g⟩
  if x.pending.length < 4 then putInst s g { x with pending := x.pending ++ [e] }
  else flag (countRun (putInst s g { x with pending := x.pending.drop 1 ++ [e] }) .svcShedCnt g) .svcSticky 0 3

/-- The GUARD instances that watch a triggering instance. -/
def watchers (s : State) (i : Nat) : List Sched :=
  (image s).sched.filter (fun e => clsOf s e.inst == some .guard && e.trigInst == i)

/-- The commit of a triggering instance: every watcher of a non-zero word gets its event; then the words are cleared. -/
def commitTriggers (s : State) (i : Nat) : State :=
  let ws := (watchers s i).filter (fun e => trigWord s i e != 0)
  let s1 := forEach ws (fun e t => addEvent t e.inst (trigWord s i e)) s
  forEach ws (fun e t => memWrite t (outAddr t i + e.trigOff) (bytesOf 4 0)) s1

/-! ## Completion (R24, R28, R44, R458, R470) -/

/-- The words of the newest sample instant go to their slots of a REFLEX instance's input buffer (assumption 27). -/
def reflexInput (s : State) (i : Nat) : State :=
  forEach ((image s).sense.filter (fun e => e.inst == i && chanOn s e.chan)) (fun e t =>
    let w := (chanAt t e.chan).word
    let k := ceilDiv (w.toNat % 2 ^ 24 * outputsOf t e.chan) (periodNs t)
    memWrite t (inAddr t i + e.bufOff + 8 * k) (bytesOf 8 w.toNat)) s

/-- Release a REFLEX step now. -/
def releaseReflex (s : State) (i : Nat) : State := release (reflexInput s i) i .step (strokeNat s) (stepVaddr s i) 0 0

/-- The releases of a REFLEX instance queue: its previous step or an ENTRY run of its context is in progress, or its group
is about to switch (R470, R561). -/
def reflexQueues (s : State) (i : Nat) : Bool :=
  (instAt s i).running.isSome || (instAt s i).closing.isSome || entryPending s (ctxOfInst s i)

/-- REFLEX_OVERRUN ends when the queue is empty (R470). -/
def settleOverrun (s : State) (i : Nat) : State :=
  updInst s i (fun x => { x with overrun := x.overrun && decide (0 < x.queued) })

/-- The next release that waits in a REFLEX queue; at a switch edge, only those for instants before it (R470, R561). -/
def takeQueued (s : State) (i : Nat) : State :=
  let x := instAt s i
  let due := match x.closing with
    | some n => n
    | none => x.queued
  if x.running.isSome || x.queued = 0 || due = 0 || entryPending s (ctxOfInst s i) then s
  else releaseReflex (settleOverrun (putInst s i { x with queued := x.queued - 1, closing := x.closing.map (· - 1) }) i) i

/-- Releases that wait for the ENTRY run of a context go on when it ends. -/
def entryEnds (s : State) (c : Nat) : State :=
  forEach ((instsOf s .reflex).filter (fun i => ctxOfInst s i == c)) (fun i t => takeQueued t i) s

/-- The queue of a REFLEX instance whose group no longer waits for its edge goes on (R561). -/
def reopen (i : Nat) (s : State) : State :=
  if (instAt s i).closing.isSome then takeQueued (updInst s i (fun x => { x with closing := none })) i else s

/-- Groups that wait for the releases before their edge wait no longer. -/
def reopenAll (s : State) : State := forEach s.chg.groups (fun g t => forEach g.insts reopen t) s

/-- A step has executed `done` on every scull of its mask. Between the cut-off and finish a REFLEX output and a coast output
meet no finish (R24, R44); GUARD and TREND results follow R28. -/
def completeStep (s : State) (i : Nat) (r : Running) (stop : Bool) (outs : BitVec 12) : State :=
  let out := outBytes s i
  let s0 := updInst s i (fun x => { x with running := none })
  match r.kind with
  | .coast => if s0.phase == .cutoff then s0 else
    updInst s0 i (fun x => { x with out := out, inputOf := x.heldInputOf, hasResult := true, stopBit := stop, payloadEpoch := x.epoch })
  | .entry => s0
  | .step =>
    match clsOf s0 i with
    | some .stroke =>
      updInst s0 i (fun x => { x with complete := true, newOut := some out, newInputOf := r.stroke + 1, newEpoch := x.epoch, newStop := stop })
    | some .reflex =>
      let s1 := if s0.phase == .cutoff then s0
        else updInst s0 i (fun x => { x with newOut := some out, newInputOf := r.stroke + 1, newEpoch := x.epoch, newStop := stop, staleLeft := x.staleLeft - 1 })
      let s2 := commitTriggers (reflexStops s1 i outs) i
      takeQueued s2 i
    | some _ =>
      commitTriggers (updInst s0 i (fun x =>
        { x with newOut := some out, newInputOf := r.stroke + 1, newEpoch := x.epoch, newStop := stop })) i
    | none => s0

/-- `done` on scull `u` ends the step there (R458). -/
def endStep (s : State) (u k : Nat) (stop : Bool) (outs : BitVec 12) : State :=
  let s1 := updCtx s k (fun c => { advance' c with step := none, suspended := false })
  let s2 := updScull s1 u (fun x => { x with running := none, preempting := false })
  let s3 := match (ctxAt s k).step with
    | some st =>
      if st.kind == .entry then entryEnds s2 (k % 64) else match (instAt s2 st.inst).running with
      | some r =>
        let left := r.left &&& ~~~ (1#16 <<< u)
        if left = 0 then completeStep s2 st.inst r stop outs
        else updInst s2 st.inst (fun x => { x with running := some { r with left := left } })
      | none => s2
    | none => s2
  startBest s3 u
where
  advance' (c : Ctx) : Ctx := { c with pc := c.pc + 8, seqNo := c.seqNo + 1 }

/-! ## REFLEX (R458, R470, R487) -/

/-- The bank whose granule starts the release of an instance with an SRC 0 layer at the head of its chain. -/
def releaseBank (s : State) (i : Nat) : Option Nat :=
  ((image s).layers.find? (fun l => l.inst == i && headsSample s 4 l && (tightAfter s l).isNone)).map (·.bank)

/-- A release of a REFLEX instance; at most eight wait, and a ninth raises REFLEX_OVERRUN. -/
def reflexDue (s : State) (i : Nat) : State :=
  let x := instAt s i
  if !reflexQueues s i then releaseReflex s i
  else
    let s1 := countRun (putInst s i { x with queued := x.queued + 1 }) .svcOverCnt i
    if x.queued < 8 then s1
    else
      let s2 := if x.overrun then s1 else raiseNow s1 cReflexOverrun scInstance i
      setAllStops (updInst s2 i (fun y => { y with overrun := true })) i

def execReflexRelease (inst : Fin 256) (s : State) : Host.Outcome State Fault Refusal :=
  let i := inst.val
  if clsOf s i != some .reflex || !mayStep s i then unchanged s
  else match releaseBank s i with
    | some b =>
      if (bankAt s b).toRelease = 0 then unchanged s
      else .next (reflexDue (updBank s b (fun x => { x with toRelease := x.toRelease - 1 })) i)
    | none => .next (reflexDue s i)

/-! ## GUARD (R467, R468) -/

/-- No other GUARD instance that shares a scull holds an older event. -/
def oldestEvent (s : State) (i : Nat) (e : Event) : Bool :=
  (instsOf s .guard).all (fun g => g == i || (maskOf s g &&& maskOf s i) == 0 || (instAt s g).running.isSome ||
    !mayStep s g || (instAt s g).pending.all (fun f => decide (e.raised ≤ f.raised)))

/-- Of `n` mapped words `v` are valid, fewer than VALID_MIN asks (R471). -/
def fewValid (s : State) (i : Nat) (w : Nat × Nat) : Bool :=
  match schedOf s i with
  | some e => e.validMin != 0 && decide (w.1 * 256 < e.validMin * w.2)
  | none => false

/-- Fewer valid words than VALID_MIN arrived for a STROKE step. -/
def validLow (s : State) (i : Nat) : Bool := fewValid s i (validWords s i)

/-- The 16 bytes of the event header (R468). -/
def eventHeader (e : Event) : List Byte := bytesOf 4 e.val.toNat ++ bytesOf 4 0 ++ bytesOf 8 e.stroke

def execGuardEventTaken (inst : Fin 256) (s : State) : Host.Outcome State Fault Refusal :=
  let i := inst.val
  let x := instAt s i
  match x.pending with
  | [] => unchanged s
  | e :: rest =>
    if clsOf s i != some .guard || !mayStep s i || x.running.isSome || !oldestEvent s i e then unchanged s
    else
      let s1 := putInst s i { x with pending := rest }
      if fewValid s i (validIn s i [e.block]) then .next (flag (flag (countRun s1 .svcShedCnt i) .svcSticky 0 3) .svcSticky 0 7)
      else
        let s2 := memWrite s1 (inAddr s1 i) (splice e.block 0 (eventHeader e))
        .next (release s2 i .step e.stroke (stepVaddr s i) e.raised e.caught)

def limitOf (s : State) (i : Nat) : Nat :=
  match schedOf s i with
  | some e => e.limit
  | none => 0

/-- A GUARD step or pending events whose horizon has passed (R467, R468). -/
def execGuardHorizonExpiry (inst : Fin 256) (s : State) : Host.Outcome State Fault Refusal :=
  let i := inst.val
  let lim := limitOf s i
  if clsOf s i != some .guard then unchanged s
  else
    let s1 := match (instAt s i).running with
      | some r =>
        if r.event + lim ≤ s.now then
          updInst (countRun (abandonStep s i) .svcOverCnt i) i (fun x => { x with late := true })
        else s
      | none => s
    let gone := (instAt s1 i).pending.filter (fun e => decide (e.caught + lim ≤ s.now))
    if gone.isEmpty then .next s1
    else
      let s2 := updInst s1 i (fun x => { x with pending := x.pending.filter (fun e => !decide (e.caught + lim ≤ s.now)) })
      .next (flag (if s.run then bumpBy s2 .svcShedCnt i gone.length else s2) .svcSticky 0 3)

/-! ## TREND (R469, R471) -/

/-- A frame is shed: counted, and its step abandoned. -/
def shedFrame (s : State) (i : Nat) : State :=
  let s1 := flag (countRun (abandonStep s i) .svcShedCnt i) .svcSticky 0 5
  updInst s1 i (fun x => { x with shed := true })

/-- The blocks gathered since the previous frame, oldest first. -/
def frameBlocks (s : State) (i : Nat) : List (List Byte) :=
  let x := instAt s i
  if x.given then x.blocks else x.blocks ++ [blockOfInst s i]

/-- A frame takes the gathered blocks. -/
def giveBlocks (s : State) (i : Nat) : State := updInst s i (fun x => { x with blocks := [], given := true })

/-- A frame's input: block j of those gathered lies j × IN_LEN behind the start of the input buffer (assumption 127). -/
def frameInput (s : State) (i : Nat) : State :=
  memWrite (giveBlocks s i) (inAddr s i) (frameBlocks s i).flatten

def execTrendFrameDue (inst : Fin 256) (s : State) : Host.Outcome State Fault Refusal :=
  let i := inst.val
  let x := instAt s i
  if clsOf s i != some .trend || x.framesDue == 0 || !mayStep s i then unchanged s
  else
    let s1 := putInst s i { x with framesDue := x.framesDue - 1 }
    if x.running.isSome then .next (flag (countRun s1 .svcDecimCnt i) .svcSticky 0 4)
    else if fewValid s i (validIn s i (frameBlocks s i)) then .next (shedFrame (flag (giveBlocks s1 i) .svcSticky 0 7) i)
    else .next (release (frameInput s1 i) i .step (strokeNat s) (stepVaddr s i) 0 0)

/-- A frame not complete LIMIT_NS after its release. -/
def execTrendFrameShed (inst : Fin 256) (s : State) : Host.Outcome State Fault Refusal :=
  let i := inst.val
  match (instAt s i).running with
  | some r =>
    if clsOf s i == some .trend && decide (r.since + limitOf s i ≤ s.now) then
      .next (restoreSlots (shedFrame s i) i (fun d => d.ckpt != 0))
    else unchanged s
  | none => unchanged s

/-! ## Budgets (R460, R465) -/

/-- A step passes its budget: counted once; a STROKE step is suspended behind the scull's other STROKE steps. -/
def execStrokeBudgetExhausted (u : Fin 16) (s : State) : Host.Outcome State Fault Refusal :=
  match (scullAt s u.val).running with
  | none => unchanged s
  | some c =>
    let k := ctxKey u.val c
    match (ctxAt s k).step with
    | some st =>
      if (ctxAt s k).suspended || st.kind != .step || clsOf s st.inst == some .reflex then unchanged s
      else
        let s1 := flag (countRun s .svcOverCnt st.inst) .svcSticky 0 6
        let s2 := updCtx s1 k (fun x => { x with suspended := true })
        .next (if clsOf s st.inst == some .stroke then updScull s2 u.val (fun x => { x with preempting := true }) else s2)
    | none => unchanged s

/-- A STROKE release pre-empts GUARD and TREND, a GUARD release pre-empts TREND (R460). -/
def execPreemption (u : Fin 16) (s : State) : Host.Outcome State Fault Refusal :=
  match runningRank s u.val, bestReady s u.val with
  | some a, some r =>
    let b := ctxRank s r.ctx
    if 1 ≤ b && b < a && decide (2 ≤ a) && !(scullAt s u.val).preempting then
      .next (updScull s u.val (fun x => { x with preempting := true }))
    else unchanged s
  | _, _ => unchanged s

/-! ## Context faults (R411, R480) -/

/-- The context halts: its held set is discarded, its running engine instructions complete, its steps end. -/
def haltContext (s : State) (c code : Nat) : State :=
  let insts := ((image s).models.filter (fun m => m.ctx == c)).map (·.inst)
  let s1 := forEach (unitsOf s c) (fun u t =>
    let k := ctxKey u c
    let t1 := updCtx t k (fun x =>
      { x with halt := .fault code, held := [], saved := [], savedCh := [], due := [], step := none, suspended := false, waitDone := false })
    updScull t1 u (fun x =>
      let keep (q : QEntry) : Bool := q.ctx != c || q.started
      { x with
        qArray := x.qArray.filter keep, qSchuss := x.qSchuss.filter keep, qVector := x.qVector.filter keep
        qScan := x.qScan.filter keep, qDma := x.qDma.filter (fun q => q.ctx != c)
        ready := x.ready.filter (fun r => r.ctx != c)
        running := if x.running = some c then none else x.running
        preempting := if x.running = some c then false else x.preempting })) s
  let s2 := forEach insts (fun i t => updInst t i (fun x => { x with running := none, queued := 0, closing := x.closing.map (fun _ => 0), overrun := false })) s1
  forEach (unitsOf s c) (fun u t => startBest t u) s2

end Sys2Proof.Machine
end

