-- ==== Sys2Proof/Machine/Fence.lean ====
section
/-! DEFINITION. Admission (15_service_classes_and_overload.md R459, R463, R464) and fencing with re-admission
(20_faults.md R602 to R604, R609, R611). -/

namespace Sys2Proof.Machine

/-! ## Admission arithmetic -/

/-- Placements on scull `u` of class `k`. -/
def onScull (s : State) (ps : List Placed) (u : Nat) (k : Class) : List Sched :=
  (ps.filter (fun p => p.mask.getLsbD u && clsOf s p.inst == some k)).filterMap (fun p => schedOf s p.inst)

/-- S_s (R463). -/
def strokeLoad (s : State) (ps : List Placed) (u : Nat) : Nat :=
  let st := onScull s ps u .stroke
  let shared := !(onScull s ps u .guard).isEmpty || !(onScull s ps u .trend).isEmpty
  (st.map (fun e => e.budget + Config.switchAllowance (image s).buildId e.inst)).sum
    + (if shared && !st.isEmpty then 1305 else 0)

def reserveLoad (s : State) (ps : List Placed) (u : Nat) : Nat :=
  ((onScull s ps u .guard ++ onScull s ps u .trend).map (·.reserve)).sum

def coastLoad (s : State) (ps : List Placed) (u : Nat) : Nat := ((onScull s ps u .stroke).map (·.coastNs)).sum

/-- Layers of an instance that run in fallback because their bank, or that of a tight neighbour, is marked suspect (R494). -/
def suspectLayers (s : State) (i : Nat) : Nat :=
  let bad (l : Layer) : Bool := bankState s l.bank == 2
  let near (o : Option Layer) : Bool := match o with | some m => bad m | none => false
  (image s).layers.countP (fun l => l.inst == i && (bad l || near (tightBefore s l) || near (tightAfter s l)))

/-- The checks of R463 for one scull. -/
def scullFits (s : State) (ps : List Placed) (u : Nat) : Bool :=
  let p := periodNs s
  let f := finishNs s
  let sl := strokeLoad s ps u
  let cl := coastLoad s ps u
  let spread (e : Sched) : Bool := decide (e.budget ≤ e.reserve * (e.limit / p))
  decide (sl + 620 ≤ f) && decide (sl + reserveLoad s ps u + cl + 2600 ≤ p) && decide (cl + f + 2200 ≤ p)
    && (onScull s ps u .guard).all spread && (onScull s ps u .trend).all spread
    && (onScull s ps u .reflex).all (fun e => decide (e.budget + 180 * suspectLayers s e.inst ≤ e.limit))

/-- The masks that an instance may take, in order (R464). -/
def masksOf (s : State) (i : Nat) : List (BitVec 16 × Nat) :=
  match modelOf s i with
  | some m =>
    let alts := match schedOf s i with
      | some e => (e.alt.zipIdx.filter (fun a => a.1 != 0)).map (fun a => (a.1, a.2 + 1))
      | none => []
    (m.mask, 0) :: alts
  | none => []

def liveMask (s : State) : BitVec 16 := (rd s .idScullLive 0).truncate 16

/-- R459: a scull that any mask of a REFLEX instance names hosts only REFLEX contexts. -/
def reflexApart (s : State) (i : Nat) (m : BitVec 16) : Bool :=
  (instsOf s .reflex).all (fun r => clsOf s i == some .reflex || (masksOf s r).all (fun a => a.1 &&& m == 0))

/-- Place one instance beside those placed: the first mask whose sculls are live and whose checks pass. -/
def placeOne (s : State) (ps : List Placed) (i : Nat) : Option Placed :=
  ((masksOf s i).find? (fun a =>
    a.1 &&& liveMask s == a.1 && reflexApart s i a.1 &&
      (maskList a.1).all (scullFits s (⟨i, a.1, a.2⟩ :: ps)))).map (fun a => ⟨i, a.1, a.2⟩)

/-- Place instances in INSTANCE order; those that find no place are left out. -/
def placeList (s : State) (ps : List Placed) : List Nat → List Placed
  | [] => ps
  | i :: is =>
    match placeOne s ps i with
    | some p => placeList s (p :: ps) is
    | none => placeList s ps is

/-- Rising order. -/
def inOrder (l : List Nat) : List Nat := sortBy (fun a b => decide (a ≤ b)) l

/-- SVC_STAT and SVC_LOAD of a placement. -/
def showPlacement (s : State) (ps : List Placed) (ok : Bool) : State :=
  let s1 := wrb (bumpf s .svcStat 0 15 0 1) .svcStat 0 31 ok
  let s2 := wrf s1 .svcStat 0 23 16 (ps.length - 1)
  forEach (List.range 16) (fun u t => wrf t .svcLoad u 23 0 (strokeLoad s ps u + reserveLoad s ps u)) s2

/-- The placements in force. -/
def placements (s : State) : List Placed :=
  (instances s).filterMap (fun i =>
    let x := instAt s i
    if x.placed then some ⟨i, x.mask, x.alt⟩ else none)

/-! ## Fencing (R274, R478, R509, R602, R611) -/

/-- REPLACE_TRAY (R604). -/
def replaceTray (s : State) : State := raiseNow s cReplaceTray scDevice 0

/-- The steps of an instance end and its records carry FENCED; a REFLEX instance raises its stop outputs. -/
def fenceInst (s : State) (i : Nat) : State :=
  let s1 := updInst (abandonStep s i) i (fun x => { x with fenced := true, queued := 0, closing := x.closing.map (fun _ => 0), overrun := false })
  if clsOf s i == some .reflex then setAllStops s1 i else s1

/-- An instance stays without a placement: its bit in FLT_UNPLACED, UNPLACED, and REPLACE_TRAY (R603). -/
def leaveUnplaced (s : State) (i : Nat) : State :=
  let s1 := updInst s i (fun x => { x with placed := false, fenced := true })
  replaceTray (flag (wrb s1 .fltUnplaced (i / 32) (i % 32) true) .fltSticky 0 3)

/-- A bank is served by scull `u`. -/
def servedBy (s : State) (u b : Nat) : Bool := bankState s b != 0 && rdf s .rfxBankStat b 28 24 == u

/-- A bank whose serving scull is fenced is SUSPECT, and what was to run there is gone. -/
def bankLoses (b : Nat) (s : State) : State := updBank (suspect s b 6) b (fun x => { x with jobs := [] })

/-- It moves to ALT; without a live ALT its layer's instance is fenced. -/
def bankMoves (b : Nat) (s : State) : State :=
  match servingOf s b, layerOfBank s b with
  | some v, _ => wrf s .rfxBankStat b 28 24 v
  | none, some l => replaceTray (fenceInst s l.inst)
  | none, none => s

/-- The banks that a fenced scull served; what the fence raises comes in ascending order of the codes (R610). -/
def banksFence (u : Nat) (s : State) : State :=
  let hit := allBanks.filter (servedBy s u)
  forEach hit bankMoves (forEach hit bankLoses s)

/-- Re-admission starts, or starts again with the larger set (R603, R609); with Cox halted its instances stay unplaced. -/
def startReadmit (s : State) (u : Nat) (mailbox : Option Nat) (hit : List Nat) : State :=
  if coxHalted s then forEach hit (fun i t => leaveUnplaced t i) s
  else
    let old := match s.readmit with
      | some r => r
      | none => ⟨0, 0, none⟩
    { s with readmit := some ⟨old.sculls ||| (1#16 <<< u), s.now, if mailbox.isSome then mailbox else old.mailbox⟩ }

/-- Fence logical scull `u` with a code. -/
def fenceScull (s : State) (u code : Nat) (mailbox : Option Nat) : State :=
  if !live s u then s
  else
    let hit := (instances s).filter (fun i => (maskOf s i).getLsbD u)
    let ckpts := s.recovery.filter (fun r => match r with
      | .checkpoint i _ => hit.contains i
      | _ => false)
    let s1 := wrf (wrb s .idScullLive 0 u false) .fltScull u 15 0 code
    let s2 := raiseNow s1 code scScull u
    let s3 := if s2.run then forEach hit (fun i t => fenceInst t i) s2 else s2
    let s4 := banksFence u s3
    let s5 := { putScull s4 u Scull.reset with
      ctxs := s4.ctxs.filter (fun e => e.1 / 64 != u)
      recovery := s4.recovery.filter (fun r => !ckpts.contains r) }
    let s6 := forEach ckpts (fun r t => match r with
      | .checkpoint i _ => dropCkpt t i
      | _ => t) s5
    if s6.admitted then startReadmit s6 u mailbox hit else s6

/-- An engine, crossing or trap entry that does not end in time (R276, R420). -/
def hang (s : State) (u : Nat) : State := fenceScull s u cEngineHang none

/-! ## Re-admission (R603) -/

/-- An instance takes a placement again: restored in the next recovery, released from the catch after it. -/
def placeAgain (s : State) (p : Placed) : State :=
  updInst s p.inst (fun x => { x with placed := true, mask := p.mask, alt := p.alt, restoreDue := true })

/-- The notice of a fence that no service asked for: the outcome and the scull (R217; assumption 28). -/
def fenceNotice (s : State) (res : List Byte) (u : Nat) : State :=
  let code := rdf s .fltScull u 15 0
  if code = cFenceRequest then s else notice s ⟨0x8000 + code, 0, reqId .cox, res ++ bytesOf 1 u⟩

/-- FENCE_SCULL (R218, R219, R238). -/
def execFenceScull (s : State) : Host.Outcome State Fault Refusal :=
  .next (serve s svFenceScull (fun m =>
    let u := reqField s m 8 1
    if 16 ≤ u || !live s u then answer s m cBadArg []
    else
      let t := startLong s m 20050000 0 []
      if s.long.isSome then t else fenceScull t u cFenceRequest (some m)))

/-! ## Faults that fence (R70, R71, R276, R420, R634) -/

/-- The device fail-stops its STROKE outputs (R70): as in fail-stop, until reset. -/
def stallOutputs (s : State) : State := flag (wrb s .stkStatus 0 2 true) .stkSticky 0 2

/-- The scull of an island; `none` for an island outside the sculls. -/
def islandScull (i : Island) : Option Nat :=
  match i with
  | .array u => some u.val
  | .sequencer u => some u.val
  | .scratchpad u => some u.val
  | _ => none

/-- A crossing not accepted within 2 µs (R70). -/
def execCrossingTimeout (target : Island) (s : State) : Host.Outcome State Fault Refusal :=
  match islandScull target with
  | some u => .next (fenceScull s u cFabricStall none)
  | none => .next (stallOutputs (raiseNow s cFabricStall scDevice 0))

/-- An adaptive island cannot hold its floor (R71). Islands that do not adapt have no floor to lose. -/
def execIslandFloor (isl : Island) (s : State) : Host.Outcome State Fault Refusal :=
  match isl with
  | .stern => .next { raiseNow s cIslandFloor scDevice 0 with floorAt := s.now }
  | _ => match islandScull isl with
    | some u => .next (fenceScull s u cIslandFloor none)
    | none => unchanged s

/-- A started instruction heads the queue of an engine (R276). -/
def engineRuns (s : State) (u : Nat) (e : Engine) : Bool :=
  match (queueOf (scullAt s u) e).head? with
  | some q => q.started
  | none => false

def execEngineHang (u : Fin 16) (e : Engine) (s : State) : Host.Outcome State Fault Refusal :=
  if engineRuns s u.val e then .next (hang s u.val) else unchanged s

/-- A scan that misses a chunk boundary (R390); a wait on the feeder does not count. -/
def execScanHang (u : Fin 16) (s : State) : Host.Outcome State Fault Refusal :=
  let runs := match shownScan s u.val with
    | some k => k.running && !(k.w0.getLsbD 43 && k.staged == 0)
    | none => false
  if runs then .next (hang s u.val) else unchanged s

/-- A channel that runs past its bound (R450). -/
def execDmaChannelTimeout (u : Fin 16) (ch : Fin 4) (s : State) : Host.Outcome State Fault Refusal :=
  if (chAt (scullAt s u.val) ch.val).state = 1 then .next (hang s u.val) else unchanged s

/-- A trap entry that does not come to its first handler instruction (R420). -/
def execTrapEntryTimeout (u : Fin 16) (s : State) : Host.Outcome State Fault Refusal :=
  match runKey s u.val with
  | some k => if (nextTrap (ctxAt s k)).isSome then .next (hang s u.val) else unchanged s
  | none => unchanged s

/-- A sensor over its limit for 1 ms (R634): 115 °C for a bank, 110 °C for an array island. -/
def execOverTemperature (sensor : Fin 32) (temp : BitVec 16) (s : State) : Host.Outcome State Fault Refusal :=
  let n := sensor.val
  let s1 := wrf s .thmTemp n 15 0 temp.toNat
  if n < 16 then
    if temp.toInt < 1840 then .next s1 else .next (suspect (flag s1 .thmSticky 0 1) (n / 4) 4)
  else if temp.toInt < 1760 then .next s1 else .next (fenceScull s1 (n - 16) cIslandFloor none)

end Sys2Proof.Machine
end

