-- ==== Sys2Proof/Machine/Admission.lean ====
section
/-! DEFINITION. What admission checks beside the budgets (06_start_up.md R194; 01_stroke.md R26; 03_sense_inputs.md R78,
R79; 04_axis_links_and_stop_lines.md R138; 08_scull.md R264; 14_memory_translation_dma.md R431, R436, R448). -/

namespace Sys2Proof.Machine

/-- R26: the longest upstream frame ends 250 ns before the next catch. -/
def framesFit (s : State) : Bool :=
  (List.range 12).all (fun n => !linkOn s n || decide (finishNs s + rdf s .axlCfg n 21 12 * 20 + 250 ≤ periodNs s))

/-- R78: at most 65,536 sample words a stroke. -/
def wordsFit (s : State) : Bool :=
  decide ((((List.range 64).filter (chanOn s)).map (outputsOf s)).sum ≤ 65536)

/-- R79: no modulator channel is enabled without MCLK. -/
def clocked (s : State) : Bool := rdb s .snsMclk 0 31 || (List.range 48).all (fun n => !chanOn s n)

/-- The bound on the network latency of a stop with `f` layers in fallback: 250 ns (R138), else what R139 leaves beside the
150 ns of the way to it and from it. -/
def networkBound (f : Nat) : Nat := if f = 0 then 250 else 180 * f

/-- R138, or R139, for a stop-capable REFLEX instance. -/
def stopsInTime (s : State) (i : Nat) : Bool :=
  let f := suspectLayers s i
  match modelOf s i with
  | some m => m.stopOuts == 0 || decide (Config.networkLatency (image s).buildId i f ≤ networkBound f)
  | none => true

/-- R264, R436 and R448 on the masks in force, and the staged regions. -/
def memoryFits (s : State) : Bool :=
  (List.range 16).all (fun u => decide (spadUse s u ≤ spadLen) && decide (imemOf s u ≤ 131072))
    && decide (lockedOf s 0 ≤ 768) && decide (lockedOf s 1 ≤ 768) && stagedFits (image s)

/-- Take placements into the instances. -/
def takePlaces (s : State) (ps : List Placed) : State :=
  forEach ps (fun p t => updInst t p.inst (fun x => { x with placed := true, mask := p.mask, alt := p.alt })) s

/-- What R194 asks beside places and memory. -/
def admitRest (s : State) : Bool :=
  framesFit s && wordsFit s && clocked s && (instsOf s .reflex).all (stopsInTime s)

/-- Placements of every instance, in INSTANCE order; one that finds none is left out. -/
def placeAll (s : State) : List Placed := placeList s [] (inOrder (instances s))

/-- Every instance has a place. -/
def allPlaced (s : State) (ps : List Placed) : Bool := (instances s).all (fun i => ps.any (fun p => p.inst == i))

/-- Admission as a whole (R194). -/
def admits (s : State) : Bool :=
  let ps := placeAll s
  allPlaced s ps && admitRest s && memoryFits (takePlaces s ps)

end Sys2Proof.Machine
end

