-- ==== Sys2Proof/Machine/Regatta.lean ====
section
/-! DEFINITION. The regatta (17_regatta_links.md): lane maps and heats of the optical ports, their states, control
messages and time transfer, bundles and their barriers, slip, mirrors and takeover. -/

namespace Sys2Proof.Machine

/-! ## Members (R521 to R523) -/

def oplOn (s : State) : Bool := rdb s .oplCfg 0 31
def selfId (s : State) : Nat := rdf s .oplCfg 0 2 0
def membersMask (s : State) : Nat := rdf s .oplCfg 0 23 16
def aliveMask (s : State) : Nat := rdf s .oplStat 0 23 16
def inSlip (s : State) : Bool := rdb s .oplStat 0 29

/-- The members of a mask, in rising order. -/
def membersOf (m : Nat) : List Nat := (List.range 8).filter (fun j => m.testBit j)

/-- The member `k` places after member `j` in the ring. -/
def ringMember (s : State) (j k : Nat) : Nat :=
  let l := membersOf (membersMask s)
  l.getD (((l.findIdx? (· == j)).getD 0 + k) % Nat.max 1 l.length) 0

/-- The neighbour that port A (0) or port B (1) joins. -/
def neighbour (s : State) (p : Nat) : Nat :=
  ringMember s (selfId s) (if p = 0 then 1 else (membersOf (membersMask s)).length - 1)

/-- STATE of a port: 0 DARK, 1 TRAIN, 2 HELLO, 3 UP, 4 DOWN. -/
def portState (s : State) (p : Nat) : Nat := rdf s .oplPStat p 31 29
def setPortState (s : State) (p st : Nat) : State := wrf s .oplPStat p 31 29 st
def portUp (s : State) (p : Nat) : Bool := portState s p == 3

/-- RING and LEADER follow ALIVE and the ports (R523, R534). -/
def settleRing (s : State) : State :=
  let ring :=
    if !oplOn s then 0
    else if !(portUp s 0 || portUp s 1) then 1
    else if aliveMask s = membersMask s then 3 else 2
  wrf (wrf s .oplStat 0 31 30 ring) .oplStat 0 26 24 ((membersOf (aliveMask s)).headD (selfId s))

/-- ALIVE takes a value, this member among it. -/
def setAlive (s : State) (m : Nat) : State :=
  settleRing (wrf s .oplStat 0 23 16 ((m &&& membersMask s) ||| 2 ^ selfId s))

/-- The path from a port over `n` hops is open: the port is UP, and every member that lies between is in ALIVE. -/
def pathOpen (s : State) (p n : Nat) : Bool :=
  let l := membersOf (membersMask s)
  portUp s p && (List.range (n - 1)).all (fun k =>
    (aliveMask s).testBit (ringMember s (selfId s) (if p = 0 then k + 1 else l.length - (k + 1))))

/-- The port of the shorter path to a member, port A on a tie; the only open path otherwise (R524). -/
def routeTo (s : State) (dst : Nat) : Option Nat :=
  let l := membersOf (membersMask s)
  let i := (l.findIdx? (· == selfId s)).getD 0
  let j := (l.findIdx? (· == dst)).getD 0
  let ahead := (j + l.length - i) % Nat.max 1 l.length
  if !(aliveMask s).testBit dst then none
  else match pathOpen s 0 ahead, pathOpen s 1 (l.length - ahead) with
    | true, true => some (if ahead ≤ l.length - ahead then 0 else 1)
    | true, false => some 0
    | false, true => some 1
    | false, false => none

/-! ## Lane maps (R517 to R519, R544) -/

/-- The physical lanes that carry logical lanes 0, 1, … -/
def laneMap (s : State) (r : Reg) (p : Nat) : List Nat :=
  ((List.range 8).map (fun i => rdf s r p (4 * i + 3) (4 * i))).filter (· != 15)

def txLanes (s : State) (p : Nat) : List Nat := laneMap s .oplPTxmap p
def rxLanes (s : State) (p : Nat) : List Nat := laneMap s .oplPRxmap p

/-- Write a map and its lane count; a direction below 8 lanes sets DEGRADED. -/
def setMap (s : State) (tx : Bool) (p : Nat) (l : List Nat) : State :=
  let r : Reg := if tx then .oplPTxmap else .oplPRxmap
  let w := ((List.range 8).map (fun i => l.getD i 15 * 16 ^ i)).sum
  let s1 := wr s r p (BitVec.ofNat 32 w)
  let s2 := if tx then wrf s1 .oplPStat p 28 25 l.length else wrf s1 .oplPStat p 24 21 l.length
  if l.length < 8 then flag s2 .oplSticky 0 3 else s2

/-- Lanes that the OPL section excludes on a port (R530). -/
def excluded (s : State) (p l : Nat) : Bool :=
  (image s).exclude.any (fun e => e.1 == p && e.2.testBit l)

/-- A lane is marked failed in a direction. -/
def laneFailed (s : State) (tx : Bool) (p l : Nat) : Bool := rdb s .oplPLane p (if tx then l else 16 + l)

/-- The lane that a heat of the port holds. -/
def heatedLane (s : State) (p : Nat) : Option Nat := (portAt s p).heat.map (·.lane)

/-- The lanes that stand by: not in the map, not failed, not excluded, not being heated. -/
def spareLanes (s : State) (tx : Bool) (p : Nat) : List Nat :=
  (List.range 10).filter (fun l =>
    !(if tx then txLanes s p else rxLanes s p).contains l && !laneFailed s tx p l && !excluded s p l
      && !(tx && heatedLane s p == some l))

/-- The map at start: the lowest-numbered lanes neither failed nor excluded, up to 8. -/
def firstMap (s : State) (tx : Bool) (p : Nat) : List Nat :=
  ((List.range 10).filter (fun l => !laneFailed s tx p l && !excluded s p l)).take 8

/-- The transmit map epoch increments, wrapping. -/
def nextEpoch (s : State) (p : Nat) : State := wrf s .oplPStat p 7 0 (rdf s .oplPStat p 7 0 + 1)

/-- The heat of a port aborts: HEAT_ABORT, and the lane is a spare as it was. -/
def abortOplHeat (s : State) (p : Nat) : State :=
  flag (updPort s p (fun x => { x with heat := none })) .oplSticky 0 8

/-- A physical lane leaves a map: a spare takes its place, or the direction is striped over one lane fewer. The spare is the
lowest-numbered one (DESIGN CHOICE, assumption 30). -/
def replaceLane (s : State) (tx : Bool) (p l : Nat) : State :=
  let m := if tx then txLanes s p else rxLanes s p
  if !m.contains l then s
  else match spareLanes s tx p with
    | sp :: _ => setMap s tx p (m.map (fun x => if x = l then sp else x))
    | [] => setMap s tx p (m.filter (· != l))

/-- The transmitter moves a failed lane (R518, R519, R544): a heat of that lane ends without calibration; a heat that holds
the only spare aborts first. -/
def laneFailure (s : State) (p l : Nat) : State :=
  if laneFailed s true p l then s
  else
    let s1 := flag s .oplPLane p l
    let mapped := (txLanes s p).contains l
    let s2 :=
      if heatedLane s1 p == some l then updPort s1 p (fun x => { x with heat := none })
      else if mapped && (spareLanes s1 true p).isEmpty && (portAt s1 p).heat.isSome then abortOplHeat s1 p
      else s1
    if !mapped then s2
    else
      let s3 := nextEpoch (replaceLane s2 true p l) p
      if (txLanes s3 p).length = (txLanes s2 p).length then flag (countRun s3 .oplSwitchCnt p) .oplSticky 0 2
      else raiseNow s3 cOplDegraded scPort p

/-! ## Messages (R525, R526) -/

/-- Append the CRC to the first 60 bytes of a message. -/
def sealMessage (b : List Byte) : Message :=
  let body := slice b 0 0x3C
  body ++ bytesOf 4 (crc32 body).toNat

def messageOk (m : Message) (typ : Nat) : Bool :=
  m.length == 64 && field m 0x3C 4 == (crc32 (m.take 0x3C)).toNat && field m 0 1 == typ

/-- The STROKE message of a port. -/
def strokeMessage (s : State) (p : Nat) : Message :=
  let x := portAt s p
  sealMessage (bytesOf 1 2 ++ bytesOf 1 (selfId s) ++ bytesOf 1 (s.heardPrev.toNat ||| 2 ^ selfId s)
    ++ bytesOf 1 (rdf s .oplPStat p 7 0) ++ bytesOf 4 (strokeNs s) ++ bytesOf 4 x.echoTx ++ bytesOf 4 x.echoRx
    ++ bytesOf 8 (regattaStroke s) ++ bytesOf 4 x.rxSeq)

/-- The HELLO message of a port. -/
def helloMessage (s : State) (p : Nat) : Message :=
  sealMessage (bytesOf 1 1 ++ bytesOf 1 (selfId s) ++ bytesOf 1 (membersMask s) ++ bytesOf 1 (rdf s .oplPStat p 7 0)
    ++ bytesOf 4 (periodNs s) ++ bytesOf 8 0 ++ bytesOf 4 (rd s .oplRid 0).toNat ++ bytesOf 4 (rd s .oplRid 1).toNat)

/-- The LANE message of a port: the lanes failed in receive. -/
def laneMessageOf (s : State) (p : Nat) : Message :=
  sealMessage (bytesOf 1 3 ++ bytesOf 1 (selfId s) ++ bytesOf 1 0 ++ bytesOf 1 (rdf s .oplPStat p 7 0)
    ++ bytesOf 4 (rdf s .oplPLane p 25 16))

/-- At t = 1,000 ns every port in HELLO or UP sends its message (R526). -/
def execStrokeMessageSend (s : State) : Host.Outcome State Fault Refusal :=
  if !s.timerOn || s.refLost || decide (strokeNs s < 1000) then unchanged s
  else
    .next (forEach [0, 1] (fun p t =>
      if portState t p = 3 then
        let m := strokeMessage t p
        updPort t p (fun x => { x with outbox := [m], txNs := strokeNs t })
      else if portState t p = 2 then
        let m := helloMessage t p
        updPort t p (fun x => { x with outbox := [m] })
      else t) s)

/-- A receiver declares a lane failed and sends a LANE message at once, ahead of a STROKE message (R518, R547). -/
def execOplLaneFailure (p : Fin 2) (lane : Fin 10) (s : State) : Host.Outcome State Fault Refusal :=
  let k := p.val
  if portState s k = 0 || laneFailed s false k lane.val then unchanged s
  else
    let s1 := replaceLane (flag s .oplPLane k (16 + lane.val)) false k lane.val
    let m := laneMessageOf s1 k
    .next (updPort s1 k (fun x => { x with outbox := m :: x.outbox }))

/-- A message that fails its check is discarded and counted. -/
def badMessage (s : State) (p : Nat) : State := countRun s .oplCrcCnt p

/-- A message has been received from the peer (R548). -/
def heardFrom (s : State) (p : Nat) : State := updPort s p (fun x => { x with lastHeard := strokeNat s })

/-- A LANE message from the peer (R518, R519). -/
def execLaneMessage (p : Fin 2) (msg : Message) (s : State) : Host.Outcome State Fault Refusal :=
  let k := p.val
  if portState s k = 0 then unchanged s
  else if !messageOk msg 3 then .next (badMessage s k)
  else
    let failed := field msg 4 4
    .next (forEach ((List.range 10).filter (fun l => failed.testBit l)) (fun l t => laneFailure t k l) (heardFrom s k))

/-! ## Ports (R522, R548, R549) -/

/-- A port leaves UP: PEER is 0xFF, and what it had not delivered is dropped (DESIGN CHOICE, assumption 31). -/
def leaveUp (s : State) (p st : Nat) : State :=
  let x := portAt s p
  let lost := x.unacked.map (·.chan) ++ x.fwd.map (fun b => field b 0 1)
  let s1 := forEach lost (fun c t => countRun t .oplChDrop (c % 64)) s
  settleRing (setPortState (wrf (updPort s1 p (fun y =>
    { y with unacked := [], fwd := [], heat := none, txSeq := 0, rxSeq := 0, discarding := false, started := 0,
             echoTx := 0, echoRx := 0, txNs := 0, downAt := s.now })) .oplPStat p 15 8 0xFF) p st)

/-- Whether a HELLO matches (R522). -/
def helloMatches (s : State) (p : Nat) (m : Message) : Bool :=
  let src := field m 1 1
  field m 0x10 4 == (rd s .oplRid 0).toNat && field m 0x14 4 == (rd s .oplRid 1).toNat
    && field m 2 1 == membersMask s && field m 4 4 == periodNs s && src == neighbour s p
    && !(portUp s (1 - p) && rdf s .oplPStat (1 - p) 15 8 == src)

/-- A HELLO from the peer (R522). -/
def execHelloMessage (p : Fin 2) (msg : Message) (s : State) : Host.Outcome State Fault Refusal :=
  let k := p.val
  if portState s k ≠ 2 ∧ portState s k ≠ 3 then unchanged s
  else if !messageOk msg 1 then .next (badMessage s k)
  else if portState s k = 3 then .next (heardFrom s k)
  else if !helloMatches s k msg then .next (flag s .oplSticky 0 1)
  else
    let s1 := wrf (setPortState s k 3) .oplPStat k 15 8 (field msg 1 1)
    .next (settleRing (updPort s1 k (fun x => { x with lastHeard := strokeNat s, peerEpoch := field msg 3 1 })))

/-- The causes of R548. -/
def portFailing (s : State) (p : Nat) : Bool :=
  let x := portAt s p
  decide ((txLanes s p).length < 4) || decide ((rxLanes s p).length < 4)
    || x.unacked.any (fun b => decide (4 ≤ b.tries)) || (portUp s p && decide (x.lastHeard + 8 ≤ strokeNat s))

/-- A port goes DOWN (R548). -/
def execPortDown (p : Fin 2) (s : State) : Host.Outcome State Fault Refusal :=
  let k := p.val
  if (portState s k == 2 || portState s k == 3) && portFailing s k then .next (raiseNow (leaveUp s k 4) cOplDown scPort k)
  else unchanged s

/-- A DOWN port retrains from TRAIN every 100 ms. -/
def execPortRetrain (p : Fin 2) (s : State) : Host.Outcome State Fault Refusal :=
  if portState s p.val = 4 ∧ (portAt s p.val).downAt + 100000000 ≤ s.now then
    .next (setPortState (updPort s p.val (fun x => { x with downAt := s.now })) p.val 1)
  else unchanged s

/-- The lanes of a port in TRAIN lock and the maps are agreed. -/
def execOplLanesLocked (p : Fin 2) (s : State) : Host.Outcome State Fault Refusal :=
  let k := p.val
  if portState s k = 1 then
    .next (setPortState (setMap (setMap s true k (firstMap s true k)) false k (firstMap s false k)) k 2)
  else unchanged s

/-- LIGHT_L below 1/256 of nominal for 1 µs: both ports DARK, and LIGHT_LOSS (R549, R641). -/
def execLightLLoss (s : State) : Host.Outcome State Fault Refusal :=
  let s1 := forEach [0, 1] (fun p t => leaveUp t p 0) { s with lightL := false }
  .next (raiseNow (if oplOn s then setAlive s1 0 else s1) cLightLoss scDevice 0)

/-- The light returns: the ports of an enabled regatta retrain. -/
def execLightLReturn (s : State) : Host.Outcome State Fault Refusal :=
  let s1 := { s with lightL := true }
  .next (forEach [0, 1] (fun p t => if oplOn s && portState s p == 0 then setPortState t p 1 else t) s1)

/-! ## Lane heats (R520, R544) -/

/-- A heat of a physical lane starts: a lane in use first moves to a free spare; without one the heat waits. -/
def execOplLaneHeat (p : Fin 2) (lane : Fin 10) (s : State) : Host.Outcome State Fault Refusal :=
  let k := p.val
  let l := lane.val
  let h : Heat := ⟨l, none, 2, 0, [], 1⟩
  if (portAt s k).heat.isSome || portState s k == 0 || laneFailed s true k l || excluded s k l then unchanged s
  else if (txLanes s k).contains l then
    match spareLanes s true k with
    | [] => unchanged s
    | sp :: _ =>
      let s1 := nextEpoch (setMap s true k ((txLanes s k).map (fun x => if x = l then sp else x))) k
      .next (updPort s1 k (fun x => { x with heat := some h }))
  else .next (updPort s k (fun x => { x with heat := some h }))

/-- The end of a timed step of a lane heat: the 20 µs wait, the 1 µs check, the 200 µs calibration. -/
def execOplHeatTimer (p : Fin 2) (obs : HeatObs) (s : State) : Host.Outcome State Fault Refusal :=
  let k := p.val
  match (portAt s k).heat with
  | none => unchanged s
  | some h =>
    match obs, h.step with
    | .settled, 2 => .next (updPort s k (fun x => { x with heat := some { h with step := 3 } }))
    | .dark level, 3 =>
      if level = 0 then .next (updPort s k (fun x => { x with heat := some { h with step := 4 } }))
      else .next (abortOplHeat s k)
    | .row _ _, 4 =>
      .next (countRun (updPort s k (fun x =>
        { x with heat := none, heatedAt := Tab.set id zeroDefault h.lane s.now x.heatedAt })) .oplHeatCnt k)
    | _, _ => unchanged s

/-- A lane that goes 30 s without a heat sets HEAT_AGE; judged at each catch. -/
def catchHeatAge (s : State) : State :=
  let old (p : Nat) : Bool := portState s p != 0 &&
    (List.range 10).any (fun l => !laneFailed s true p l && !excluded s p l
      && decide (Tab.get zeroDefault (portAt s p).heatedAt l + 30000000000 ≤ s.now))
  if old 0 || old 1 then flag s .oplSticky 0 9 else s

/-! ## STROKE messages: heartbeat, acknowledgement and time transfer (R523, R528, R533, R534) -/

/-- The members that a message names, this one included. -/
def hear (s : State) (m : Nat) : State :=
  setAlive { s with heard := s.heard ||| BitVec.ofNat 8 m } (aliveMask s ||| m)

/-- The port toward the leader; `none` for the leader itself and when no path exists. -/
def leaderPort (s : State) : Option Nat :=
  let leader := rdf s .oplStat 0 26 24
  if leader = selfId s then none else routeTo s leader

/-- OPL_OFS and the RS offset from the message `m` that port `p` received, whose Δ is `delta`. The part of the sum beyond
the neighbour is an open value: no message carries it (assumption 32). -/
def takeTime (s : State) (p : Nat) (m : Message) (delta : Int) : State :=
  if rdf s .oplStat 0 26 24 = selfId s then { wr s .oplOfs 0 0 with rsOfs := s.rsOfs }
  else if leaderPort s = some p then
    let rs : Int := (field m 0x10 8 : Nat)
    let s1 := { s with rsOfs := rs - roundEven delta (Nat.max 1 (periodNs s)) - (strokeNat s : Int) }
    if rdf s .oplStat 0 26 24 = neighbour s p then wr s1 .oplOfs 0 (BitVec.ofInt 32 delta)
    else
      let (w, s2) := freshWord s1
      wr s2 .oplOfs 0 (BitVec.ofInt 32 delta + w)
  else s

/-- Δ and d of R533 when the message echoes this port's last one. -/
def exchange (s : State) (p : Nat) (m : Message) : State :=
  let x := portAt s p
  let a : Int := x.txNs
  let b : Int := (field m 0x0C 4 : Nat)
  let c : Int := (field m 4 4 : Nat)
  let e : Int := (strokeNs s : Nat)
  if field m 8 4 = x.txNs && x.txNs != 0 then
    let delta := ((e - c) - (b - a)) / 2
    let d := ((e - c) + (b - a)) / 2
    let s1 := updPort (wrf s .oplPDelay p 19 0 d.toNat) p (fun y => { y with delta := delta })
    takeTime s1 p m delta
  else s

/-- A member missed for three strokes leaves ALIVE (R523). -/
def execHeartbeatMiss (member : Fin 8) (s : State) : Host.Outcome State Fault Refusal :=
  let j := member.val
  if oplOn s && j != selfId s && (aliveMask s).testBit j && decide (3 ≤ Tab.get zeroDefault s.misses j) then
    .next (setAlive s (aliveMask s ^^^ 2 ^ j))
  else unchanged s

/-- The heartbeat counts at a catch: the stroke that ends is judged. -/
def catchHeart (s : State) : State :=
  if !oplOn s then s
  else
    let others := (membersOf (membersMask s)).filter (· != selfId s)
    let miss := others.foldl (fun t j =>
      Tab.set id zeroDefault j (if s.heard.getLsbD j then 0 else Tab.get zeroDefault t j + 1) t) s.misses
    let since := (membersOf (membersMask s)).foldl (fun t j =>
      Tab.set id zeroDefault j (if (aliveMask s).testBit j && !inSlip s then Tab.get zeroDefault t j + 1 else 0) t) s.aliveFor
    { s with heardPrev := s.heard, heard := 0, misses := miss, aliveFor := since }

/-! ## Slip (R535) -/

/-- Consecutive strokes beyond and within TT_LIMIT, at a catch. -/
def catchSlip (s : State) : State :=
  if !oplOn s then s
  else
    let ofs := (rd s .oplOfs 0).toInt.natAbs
    if rdf s .oplTime 0 12 0 < ofs then { s with slipRun := s.slipRun + 1, okRun := 0 }
    else { s with slipRun := 0, okRun := s.okRun + 1 }

def execSlipEntry (s : State) : Host.Outcome State Fault Refusal :=
  if oplOn s && !inSlip s && decide (16 ≤ s.slipRun) then
    .next (raiseNow (flag (wrb s .oplStat 0 29 true) .oplSticky 0 4) cRegattaSlip scDevice 0)
  else unchanged s

def execSlipExit (s : State) : Host.Outcome State Fault Refusal :=
  if inSlip s && decide (64 ≤ s.okRun) then .next (wrb s .oplStat 0 29 false) else unchanged s

/-! ## Bundles on the line (R527, R528) -/

/-- The payload blocks of a bundle with their trailers. -/
def withTrailers : Nat → List Byte → List Byte
  | 0, _ => []
  | n + 1, b =>
    let blk := slice b 0 4096
    blk ++ bytesOf 4 (crc32 blk).toNat ++ bytesOf 4 0 ++ withTrailers n (b.drop 4096)

/-- The blocks of a received bundle, when every trailer holds. -/
def takeBlocks : Nat → List Byte → Option (List Byte)
  | 0, b => if b.isEmpty then some [] else none
  | n + 1, b =>
    let blk := b.take 4096
    if 4104 ≤ b.length && field b 4096 4 == (crc32 blk).toNat && field b 4100 4 == 0 then
      (takeBlocks n (b.drop 4104)).map (fun r => blk ++ r)
    else none

/-- A whole bundle, header first. -/
def bundleBytes (chan src dst seq : Nat) (o : Outgoing) : List Byte :=
  let h := slice (bytesOf 1 chan ++ bytesOf 1 src ++ bytesOf 1 dst ++ bytesOf 1 o.epoch ++ bytesOf 4 seq ++ bytesOf 8 o.rs
    ++ bytesOf 8 o.due ++ bytesOf 4 o.bytes.length ++ bytesOf 4 o.part ++ bytesOf 1 o.slot) 0 0x3C
  h ++ bytesOf 4 (crc32 h).toNat ++ withTrailers (o.bytes.length / 4096) o.bytes

/-- The header with another SEQ: a forwarded bundle takes the next of its new direction. -/
def reseq (b : List Byte) (seq : Nat) : List Byte :=
  let h := splice (slice b 0 0x3C) 4 (bytesOf 4 seq)
  h ++ bytesOf 4 (crc32 h).toNat ++ b.drop 64

/-- The data of a bundle whose header and trailers hold. -/
def bundleData (b : List Byte) : Option (List Byte) :=
  let len := field b 0x18 4
  if 64 ≤ b.length && field b 0x3C 4 == (crc32 (b.take 0x3C)).toNat && len % 4096 == 0
      && decide (4096 ≤ len) && decide (len ≤ 1048576) then takeBlocks (len / 4096) (b.drop 64)
  else none

/-- The entry of a channel. -/
def channelOf (s : State) (c : Nat) : Option OplChan := (image s).chans.find? (fun e => e.chan == c)

/-- Put a bundle on the line of a port. -/
def startBundle (s : State) (p c : Nat) (mk : Nat → List Byte) : State :=
  countRun (updPort s p (fun x =>
    let seq := x.txSeq + 1
    { x with txSeq := seq, started := x.started + 1, unacked := x.unacked ++ [⟨seq, c, mk seq, 1, strokeNat s⟩] })) .oplTxCnt p

/-- The first unacknowledged bundle of a port is due to be sent again: one stroke after its ACK was due, which is the
peer's message of the stroke after it was sent. -/
def resendDue (s : State) (p : Nat) : Bool :=
  match (portAt s p).unacked.head? with
  | some b => decide (b.sentAt + 2 ≤ strokeNat s)
  | none => false

/-- How many resends the first four starts of a recovery leave room for. -/
def resendsNow (s : State) (p : Nat) : Nat := if resendDue s p then Nat.min 4 (portAt s p).unacked.length else 0

/-- A port may start one more bundle. -/
def mayStart (s : State) (p : Nat) : Bool :=
  portUp s p && !inSlip s && decide ((portAt s p).started + resendsNow s p < 4) && decide ((portAt s p).unacked.length < 16)

/-- Resends of a port in recovery (R528, R529). -/
def execBundleResend (p : Fin 2) (s : State) : Host.Outcome State Fault Refusal :=
  let k := p.val
  let x := portAt s k
  let n := Nat.min (4 - x.started) (resendsNow s k)
  if s.phase != .recovery || !portUp s k || inSlip s || n = 0 then unchanged s
  else
    let again := (x.unacked.take n).map (fun b => { b with tries := b.tries + 1, sentAt := strokeNat s })
    let s1 := putPort s k { x with unacked := again ++ x.unacked.drop n, started := x.started + n }
    .next (flag (if s.run then bumpBy s1 .oplRetxCnt k n else s1) .oplSticky 0 5)

/-! ## What a channel sends (R524, R529, R531, R536) -/

/-- Order of the kinds: STREAM, MIRROR, LIBRARY, TELEMETRY, lower channels first. -/
def channelOrder (s : State) : List OplChan :=
  ((List.range 4).map (fun t => (List.range 64).filterMap (fun c =>
    (image s).chans.find? (fun e => e.chan == c && e.typ == t)))).flatten

/-- This member's end of a mirror, and the other member. -/
def mirrorEnd (s : State) (c : OplChan) : Option (Nat × Nat) :=
  if c.typ != 1 then none
  else if c.src = selfId s then some (c.srcInst, c.dst)
  else if c.dst = selfId s then some (c.dstInst, c.src)
  else none

/-- The links that carry an instance's records. -/
def linksOf (s : State) (i : Nat) : List Nat :=
  ((image s).axis.filter (fun e => e.kind == 0 && e.inst == i)).map (·.link)

/-- The tray is active for an instance: on every link that carries its records, or by ROLE when none does (R131, R536). -/
def activeFor (s : State) (i : Nat) : Bool :=
  match linksOf s i with
  | [] => !rdb s .axlTray 0 8
  | l => l.all (activeOn s)

/-- The member that a bundle of a channel goes to. -/
def sendsTo (s : State) (c : OplChan) : Option Nat :=
  if c.typ = 1 then
    match mirrorEnd s c with
    | some (i, other) => if activeFor s i then some other else none
    | none => none
  else if c.src = selfId s then some c.dst else none

/-- PERIOD of a channel in strokes. -/
def periodOf (c : OplChan) : Nat := if c.typ = 1 && c.period = 0 then 64 else c.period

/-- A channel that is due takes its data; what still waits is replaced (R529, R531). -/
def takeChannel (c : OplChan) (s : State) : State :=
  let rs := regattaStroke s
  if c.typ = 1 || c.src != selfId s || rs % Nat.max 1 c.period != 0 || inSlip s then s
  else
    let x := instAt s c.srcInst
    let o : Outgoing := ⟨rs, rs + c.lag, x.payloadEpoch, 0, 0, slice x.shown c.srcOff c.len⟩
    let s1 := if (rchanAt s c.chan).waiting.isSome then flag (countRun s .oplChDrop c.chan) .oplSticky 0 7 else s
    updRchan s1 c.chan (fun y => { y with waiting := some o })

/-- Start what a channel has ready: nothing in SLIP; without a path the bundle is never sent (R524). -/
def startChannel (c : OplChan) (s : State) : State :=
  match sendsTo s c with
  | none => s
  | some dst =>
    if inSlip s then s
    else match routeTo s dst, (rchanAt s c.chan).waiting with
      | none, some _ => countRun (updRchan s c.chan (fun y => { y with waiting := none })) .oplChDrop c.chan
      | some p, some o =>
        if mayStart s p then
          startBundle (updRchan s c.chan (fun y => { y with waiting := none })) p c.chan (fun n => bundleBytes c.chan (selfId s) dst n o)
        else s
      | _, none => s

/-- Start up to `n` bundles of a mirror cycle. -/
def startMirror (c : OplChan) : Nat → State → State
  | 0, s => s
  | n + 1, s =>
    match sendsTo s c, (rchanAt s c.chan).mirrorQ with
    | some dst, o :: rest =>
      match routeTo s dst with
      | some p =>
        if mayStart s p && !inSlip s then
          startMirror c n (startBundle (updRchan s c.chan (fun y => { y with mirrorQ := rest })) p c.chan
            (fun k => bundleBytes c.chan (selfId s) dst k o))
        else s
      | none => s
    | _, _ => s

/-- Start forwarded bundles of a port. -/
def startForwards (p : Nat) : Nat → State → State
  | 0, s => s
  | n + 1, s =>
    match (portAt s p).fwd with
    | b :: rest =>
      if mayStart s p then
        startForwards p n (startBundle (updPort s p (fun x => { x with fwd := rest })) p (field b 0 1) (fun k => reseq b k))
      else s
    | [] => s

/-- The bundle starts of a recovery, in the order of R529; resends keep their room. Mirror bundles come after the recovery's
checkpoints (R27). -/
def startBundles (s : State) : State :=
  let s1 := forEach [0, 1] (fun p t => startForwards p 4 t) s
  let ckpts := s.recovery.any isCkpt
  forEach (channelOrder s) (fun c t =>
    if c.typ = 1 then (if ckpts then t else startMirror c 4 t) else startChannel c t) s1

/-- What becomes ready in a recovery starts in it while starts are left (R529). -/
def startMore (s : State) : State := if s.phase == .recovery && oplOn s && s.run then startBundles s else s

/-- At a finish: the channels that are due take their data, and bundles start (R529, R531). -/
def finishRegatta (s : State) : State :=
  if !oplOn s || !s.run then s
  else
    let s1 := forEach [0, 1] (fun p t => updPort t p (fun x => { x with started := 0 })) s
    startBundles (forEach (channelOrder s) takeChannel s1)

/-- A STROKE message from the peer. -/
def execStrokeMessage (p : Fin 2) (msg : Message) (s : State) : Host.Outcome State Fault Refusal :=
  let k := p.val
  if portState s k ≠ 3 then unchanged s
  else if !messageOk msg 2 then .next (badMessage s k)
  else
    let ack := field msg 0x18 4
    let s1 := exchange (hear s (field msg 2 1)) k msg
    .next (startMore (updPort s1 k (fun x =>
      { x with
        lastHeard := strokeNat s, echoTx := field msg 4 4, echoRx := strokeNs s, peerEpoch := field msg 3 1
        unacked := x.unacked.filter (fun b => decide (ack < b.seq)) })))

/-! ## Mirror cycles (R536, R551) -/

/-- A mirror cycle of a channel is due at this finish: this member sends; before the channel's first cycle both members have
been in ALIVE and outside SLIP for 64 strokes. -/
def mirrorDue (s : State) (c : OplChan) : Bool :=
  match mirrorEnd s c with
  | some (i, other) =>
    oplOn s && activeFor s i && regattaStroke s % periodOf c == 0 && !inSlip s
      && ((rchanAt s c.chan).begun
        || decide (64 ≤ Tab.get zeroDefault s.aliveFor (selfId s)) && decide (64 ≤ Tab.get zeroDefault s.aliveFor other))
  | none => false

/-- The 64-byte checkpoint header with its stroke number as RS (R383, R536). -/
def mirrorHeader (s : State) (i k : Nat) (d : SlotDir) (c : Copy) : List Byte :=
  slice (bytesOf 8 (unsigned 64 ((c.stroke : Int) + s.rsOfs)) ++ bytesOf 1 c.epoch ++ bytesOf 1 i ++ bytesOf 1 k ++ bytesOf 5 0
    ++ bytesOf 4 d.len ++ bytesOf 4 (crc32 (slice c.bytes 0 d.len)).toNat) 0 64

/-- Cut a padded slot into bundles of at most 1 MiB. -/
def cutParts (rs epoch slot : Nat) : Nat → Nat → List Byte → List Outgoing
  | 0, _, _ => []
  | n + 1, part, b =>
    if b.isEmpty then []
    else ⟨rs, 0, epoch, slot, part, b.take 1048576⟩ :: cutParts rs epoch slot n (part + 1) (b.drop 1048576)

/-- The bundles of one slot: contents, header, padding to a multiple of 4,096 (assumption 33). -/
def slotBundles (s : State) (i k : Nat) (d : SlotDir) : List Outgoing :=
  match newestCopy (instAt s i) k with
  | some c =>
    let raw := slice c.bytes 0 d.len ++ mirrorHeader s i k d c
    cutParts (regattaStroke s) c.epoch k 8 0 (slice raw 0 (ceilDiv raw.length 4096 * 4096))
  | none => []

/-- Start a mirror cycle (R536): a cycle that is still incomplete skips its remaining slots. -/
def beginMirror (s : State) (chan : Nat) : State :=
  match (channelOf s chan).bind (mirrorEnd s) with
  | some (i, _) =>
    let late := !(rchanAt s chan).mirrorQ.isEmpty
    let s1 := if late then raiseNow (flag s .oplSticky 0 6) cMirrorLate scRegatta chan else s
    let slots : List (SlotDir × Nat) := match modelOf s1 i with
      | some m => m.slots.zipIdx.filter (fun e => e.1.mirror)
      | none => []
    let q := (slots.map (fun e => slotBundles s1 i e.2 e.1)).flatten
    startBundles (updRchan s1 chan (fun y => { y with mirrorQ := q, begun := true }))
  | none => s

/-- Key of the mirror buffers of a slot. -/
def mirrorKey (i k : Nat) : Nat := i * 64 + k

/-- Newest of two mirrors, by RS. -/
def newerCopy (a b : Option Copy) : Option Copy :=
  match a, b with
  | some x, some y => some (if x.stroke < y.stroke then y else x)
  | some x, none => some x
  | none, y => y

/-- Put a complete mirror into the buffer that does not hold the newest. -/
def putMirrorCopy (m : MirrorBuf) (c : Copy) : MirrorBuf :=
  let intoA := match m.a, m.b with
    | some x, some y => decide (x.stroke < y.stroke)
    | some _, none => false
    | none, _ => true
  if intoA then { m with a := some c, part := [] } else { m with b := some c, part := [] }

/-- MIR_READY: a first whole cycle has come on every inbound MIRROR channel. -/
def settleReady (s : State) : State :=
  let inbound := (image s).chans.filter (fun c => match mirrorEnd s c with
    | some (i, _) => !activeFor s i
    | none => false)
  if !inbound.isEmpty && inbound.all (fun c => (rchanAt s c.chan).mirrorDone) then wrb s .oplStat 0 28 true else s

/-- A bundle of a mirror arrives (R536): its part is appended; the one that carries the header completes the slot. -/
def mirrorArrives (s : State) (c : OplChan) (b data : List Byte) : State :=
  match mirrorEnd s c with
  | some (i, _) =>
    let k := field b 0x20 1
    match (modelOf s i).bind (fun m => m.slots[k]?) with
    | some d =>
      let key := mirrorKey i k
      let m := mirrorAt s key
      let part := field b 0x1C 4
      let all := (if part = 0 then [] else m.part.take (part * 1048576)) ++ data
      if all.length < d.len + 64 then putMirror s key { m with part := all }
      else
        let h := slice all d.len 64
        let good := field h 20 4 == (crc32 (all.take d.len)).toNat && field h 16 4 == d.len
        if !good then putMirror s key { m with part := [] }
        else
          let s1 := putMirror s key (putMirrorCopy m ⟨h, all.take d.len⟩)
          let last : Bool := match modelOf s i with
            | some md => (md.slots.zipIdx.filter (fun e => e.1.mirror)).all (fun e => decide (e.2 ≤ k))
            | none => false
          if last then settleReady (updRchan s1 c.chan (fun y => { y with mirrorDone := true })) else s1
    | none => s
  | none => s

/-! ## Arrival and barriers (R524, R528, R531, R545) -/

/-- An intact bundle in order: for this member its data waits for the barrier; for another it is forwarded. -/
def acceptBundle (s : State) (p : Nat) (b data : List Byte) : State :=
  let c := field b 0 1
  if field b 2 1 ≠ selfId s then
    if portUp s (1 - p) then updPort s (1 - p) (fun x => { x with fwd := x.fwd ++ [b] })
    else countRun s .oplChDrop (c % 64)
  else match channelOf s c with
    | some e =>
      if e.typ = 1 then mirrorArrives s e b data
      else updRchan s c (fun y => { y with arrived := y.arrived ++ [(strokeNat s, slice b 0 64 ++ data)] })
    | none => s

/-- A bundle as received between its control blocks. -/
def execBundle (p : Fin 2) (bytes : List Byte) (s : State) : Host.Outcome State Fault Refusal :=
  let k := p.val
  if portState s k ≠ 3 then unchanged s
  else match bundleData bytes with
    | none => .next (updPort (badMessage s k) k (fun x => { x with discarding := true }))
    | some data =>
      let x := portAt s k
      let seq := field bytes 4 4
      if seq ≠ (x.rxSeq + 1) % 2 ^ 32 then
        .next (putPort s k { x with discarding := x.discarding || decide (x.rxSeq < seq) })
      else
        let s1 := countRun (putPort s k { x with rxSeq := seq, discarding := false }) .oplRxCnt k
        .next (startMore (acceptBundle s1 k bytes data))

/-- Write a channel's status word, zeros and data into the destination's input buffer (R531). -/
def deliverBarrier (s : State) (c : OplChan) (late : Bool) (b : List Byte) : State :=
  let st := statusWord true late false false (field b 8 8) + field b 3 1 * 2 ^ 32
  putInput s c.dstInst c.dstOff (bytesOf 8 st ++ List.replicate 56 0 ++ slice (b.drop 64) 0 c.len)

/-- MISSING: the status word of regatta stroke `n`; the data area keeps what it holds. -/
def deliverMissing (s : State) (c : OplChan) (n : Nat) : State :=
  putInput s c.dstInst c.dstOff (bytesOf 8 (statusWord false false true false n))

/-- One channel at a catch. `arrived` keeps what is still early. -/
def catchChannel (c : OplChan) (s : State) : State :=
  if c.typ = 1 || c.dst != selfId s then s
  else
    let rs := regattaStroke s
    let dueOf (e : Nat × List Byte) : Nat := field e.2 0x10 8
    let y := rchanAt s c.chan
    let gone := inSlip s || !(portUp s 0 || portUp s 1)
    let onTime := y.arrived.find? (fun e => dueOf e == rs)
    let past := y.arrived.filter (fun e => decide (dueOf e < rs))
    let window (e : Nat × List Byte) : Bool := decide (strokeNat s ≤ e.1 + 1)
    let lateOne := past.find? (fun e => dueOf e + 1 == rs
      && !y.arrived.any (fun f => decide (dueOf e < dueOf f) && window f))
    let s1 := putRchan s c.chan { y with arrived := y.arrived.filter (fun e => decide (rs < dueOf e)) }
    let lost := past.length - (if lateOne.isSome && onTime.isNone then 1 else 0)
    let s2 := if s.run then bumpBy s1 .oplChLate c.chan lost else s1
    let isDue := decide (c.lag ≤ rs) && (rs - c.lag) % Nat.max 1 c.period == 0
    let fenced := (instAt s c.dstInst).fenced
    match (if onTime.isSome then onTime else lateOne) with
    | some e =>
      if gone then (if isDue then deliverMissing s2 c (rs - c.lag) else s2)
      else if fenced then countRun s2 .oplChDrop c.chan
      else deliverBarrier s2 c onTime.isNone e.2
    | none => if isDue && s.run then deliverMissing s2 c (rs - c.lag) else s2

/-- The barriers of a catch. -/
def catchBarriers (s : State) : State :=
  if oplOn s then forEach (channelOrder s) catchChannel s
  else s

/-! ## Holding and takeover (R131, R134, R537 to R539, R543, R571) -/

/-- Instances that stand at the receiving end of a mirror while the tray is not active on their links. -/
def mustHold (s : State) (i : Nat) : Bool :=
  (image s).chans.any (fun c => match mirrorEnd s c with
    | some (k, _) => k == i && !activeFor s i
    | none => false)

/-- The newest complete mirror of a slot whose epoch is the instance's. -/
def mirrorOf (s : State) (i k : Nat) : Option Copy :=
  let ok (c : Option Copy) : Option Copy := c.filter (fun x => x.epoch == (instAt s i).epoch)
  let m := mirrorAt s (mirrorKey i k)
  newerCopy (ok m.a) (ok m.b)

/-- The tray becomes active: a held instance restores its slots, and carries STALE as R539 says. K without any mirror is an
open value (assumption 34). -/
def takeover (i : Nat) (s : State) : State :=
  match modelOf s i with
  | none => s
  | some m =>
    let ks := m.slots.zipIdx
    let s1 := forEach ks (fun e t =>
      match (if e.1.mirror then mirrorOf t i e.2 else none) with
      | some c => slotWrite t m e.1 c.bytes
      | none => slotWrite t m e.1 (carryBytes t i e.2)) s
    let used := ks.filterMap (fun e => if e.1.mirror then (mirrorOf s i e.2).map (·.stroke) else none)
    let absent := ks.any (fun e => e.1.mirror && (mirrorOf s i e.2).isNone)
    let (w, s2) := freshWord s1
    let rs := regattaStroke s
    let k := match used with
      | [] => w.toNat % 8191 + 1
      | l => Nat.max 1 (Nat.min 8191 (rs - l.foldl Nat.min rs))
    let stroke := m.cls == .reflex || m.cls == .stroke
    let s3 := updInst s2 i (fun x =>
      { x with held := false, staleLeft := if stroke then k else 0, staleK := k, staleUntilResult := !stroke })
    if absent then raiseNow s3 cCarryLost scInstance i else s3

/-- Every instance at a catch: it is held, or it takes over. -/
def catchHeld (s : State) : State :=
  forEach (instances s) (fun i t =>
    if mustHold t i then updInst t i (fun x => { x with held := true })
    else if (instAt t i).held then takeover i t else t) s

/-- The regatta at a catch. -/
def catchRegatta (s : State) : State := catchHeatAge (catchSlip (catchBarriers (catchHeart s)))

end Sys2Proof.Machine
end

