-- ==== Sys2Proof/Machine/Scalar.lean ====
section
/-! DEFINITION. The scalar and control instructions that a sequencer and the stern core execute themselves
(13_instruction_set.md R395, R398 to R406, R412, R416). -/

namespace Sys2Proof.Machine

/-! ## ALU -/

/-- A 64-bit number read as two's complement. -/
def s64 (v : Nat) : Int := signed 64 v
def u64 (v : Int) : Nat := unsigned 64 v

/-- alu: the result, or `none` for a shift by 64 or more, whose result the spec does not state. min and max are signed
(assumption 18). -/
def aluResult (op a b : Nat) : Option Nat :=
  match op with
  | 0 => some ((a + b) % 2 ^ 64)
  | 1 => some ((a + 2 ^ 64 - b) % 2 ^ 64)
  | 2 => some (a &&& b)
  | 3 => some (a ||| b)
  | 4 => some (a ^^^ b)
  | 5 => if b < 64 then some (a * 2 ^ b % 2 ^ 64) else none
  | 6 => if b < 64 then some (a / 2 ^ b) else none
  | 7 => if b < 64 then some (u64 (s64 a / (2 ^ b : Int))) else none
  | 8 => some (a * b % 2 ^ 64)
  | 9 => some (u64 (s64 a * s64 b / 2 ^ 64))
  | 10 => some (a * b / 2 ^ 64)
  | 11 => some (if s64 a ≤ s64 b then a else b)
  | 12 => some (if s64 a ≤ s64 b then b else a)
  | 13 => some (if s64 a < s64 b then 1 else 0)
  | 14 => some (if a < b then 1 else 0)
  | _ => some (if a = b then 1 else 0)

/-- Write an ALU result; an open one is a free value (assumption 4). -/
def putAlu (s : State) (k rd : Nat) (r : Option Nat) : Host.Outcome State Fault Refusal :=
  match r with
  | some v => putScalar s k rd v
  | none => putScalar { s with free := s.free + 1 } k rd (Config.word64 s.free).toNat

def execAlu (u : Fin 17) (w : BitVec 56) (s : State) : Host.Outcome State Fault Refusal :=
  issueOn s u.val 0x00 w (fun t k =>
    scalarOp t u.val k 0x00 w (iMinor w < 16 && iRc w == 0 && iFn w == 0) [iRa w, iRb w] [iRd w] (fun t c =>
      putAlu t k (iRd w) (aluResult (iMinor w) (sVal c (iRa w)) (sVal c (iRb w)))))

def execAlui (u : Fin 17) (w : BitVec 56) (s : State) : Host.Outcome State Fault Refusal :=
  issueOn s u.val 0x01 w (fun t k =>
    scalarOp t u.val k 0x01 w (decide (iMinor w < 16)) [iRa w] [iRd w] (fun t c =>
      putAlu t k (iRd w) (aluResult (iMinor w) (sVal c (iRa w)) (u64 (iImm w)))))

/-- li: minor 1 keeps rd[35:0] and takes rd[63:36] from imm[27:0]. -/
def execLi (u : Fin 17) (w : BitVec 56) (s : State) : Host.Outcome State Fault Refusal :=
  issueOn s u.val 0x02 w (fun t k =>
    let hi := iMinor w == 1
    scalarOp t u.val k 0x02 w (decide (iMinor w < 2) && iRa w == 0 && (!hi || decide (iImmBits w < 2 ^ 28)))
      (if hi then [iRd w] else []) [iRd w] (fun t c =>
        putScalar t k (iRd w) (if hi then iImmBits w * 2 ^ 36 + sVal c (iRd w) % 2 ^ 36 else u64 (iImm w))))

/-! ## Loads and stores (R256, R395, R425 to R427) -/

/-- Bytes of an access: 1, 2, 4 or 8. -/
def accSize (w : BitVec 56) : Nat := 2 ^ (iMinor w % 4)
def accLocal (w : BitVec 56) : Bool := iMinor w / 8 % 2 == 1
def accAddr (c : Ctx) (w : BitVec 56) : Nat := u64 ((sVal c (iRa w) : Int) + iImm w)

/-- The value that a load leaves in rd. -/
def loadValue (w : BitVec 56) (bs : List Byte) : Nat :=
  let v := natOf bs
  if iMinor w / 4 % 2 = 1 then u64 (signed (8 * bs.length) v) else v

/-- A load from a scratchpad local offset. -/
def loadLocal (s : State) (u k : Nat) (w : BitVec 56) (a n : Nat) (ecc : Ecc) : Host.Outcome State Fault Refusal :=
  match localAddr s u (k % 64) a n with
  | none => spadRange s k 0 a false
  | some d =>
    if !mayIssue s k [] [] (some (granules d n)) none then stall s u
    else
      let s1 := eccRead s d ecc
      retire s1 k (fun c => sSet c (iRd w) ⟨BitVec.ofNat 64 (loadValue w (memRead s1 d n)), poisonIn s1 d n⟩)

/-- A load from a context address. -/
def loadCtx (s : State) (u k : Nat) (w : BitVec 56) (a n : Nat) (ecc : Ecc) : Host.Outcome State Fault Refusal :=
  match ctxRead s u k a n with
  | (t, .fault num r) => .next (seqTrap t k num (memDetails (ctxAt t k).pc a 0 0 false false r 0 0))
  | (t, .data bs p dev) =>
    let t1 := if dev < regBase then eccRead t dev ecc else t
    let bad := if dev < regBase then poisonIn t1 dev n else p
    retire t1 k (fun c => sSet c (iRd w) ⟨BitVec.ofNat 64 (loadValue w bs), bad⟩)

def execLd (u : Fin 17) (w : BitVec 56) (ecc : Ecc) (s : State) : Host.Outcome State Fault Refusal :=
  issueOn s u.val 0x03 w (fun t k =>
    scalarOp t u.val k 0x03 w (decide (iMinor w < 16)) [iRa w] [iRd w] (fun t c =>
      let a := accAddr c w
      let n := accSize w
      if a % n ≠ 0 then misaligned t k 0x03 w a
      else if accLocal w then loadLocal t u.val k w a n ecc else loadCtx t u.val k w a n ecc))

/-- POISON of a store narrower than 64 bits into a poisoned word (R426). -/
def storePoison (s : State) (k a dev : Nat) : Host.Outcome State Fault Refusal :=
  .next (seqTrap s k tPoison (memDetails (ctxAt s k).pc a 0 0 true false 0 dev 0))

/-- Write bytes and their poison at a device address, and wake a layer whose GO word this is (R486). -/
def putDev (s : State) (d : Nat) (bs : List Byte) (poison : Bool) : State :=
  let s1 := memWrite s d bs
  goHook (if poison then poisonRange s1 d bs.length else s1) d bs

def storeLocal (s : State) (u k : Nat) (a n : Nat) (v : Scalar) : Host.Outcome State Fault Refusal :=
  match localAddr s u (k % 64) a n with
  | none => spadRange s k 0 a true
  | some d =>
    if !mayIssue s k [] [] none (some (granules d n)) then stall s u
    else if n < 8 && poisonIn s d n then storePoison s k a (d / 8 * 8)
    else retire (putDev s d (bytesOf n v.val.toNat) v.poison) k id

/-- The device address that a context's store reached, for GO words. -/
def goAfter (s : State) (u k a : Nat) (bs : List Byte) : State :=
  match walk s (rootOf s (eightOf u) (spaceOf k)) a with
  | (some (x, size), _) => goHook s (leafAddr x size a) bs
  | _ => s

def storeCtx (s : State) (u k : Nat) (a n : Nat) (v : Scalar) : Host.Outcome State Fault Refusal :=
  let bs := bytesOf n v.val.toNat
  match ctxWrite s u k a bs v.poison with
  | (t, .fault num r) => .next (seqTrap t k num (memDetails (ctxAt t k).pc a 0 0 true false r 0 0))
  | (t, .poisoned dev) => storePoison t k a (dev / 8 * 8)
  | (t, .ok) => retire (goAfter t u k a bs) k id

/-- st carries poison and does not trap on a poisoned rd (R427). -/
def execSt (u : Fin 17) (w : BitVec 56) (s : State) : Host.Outcome State Fault Refusal :=
  issueOn s u.val 0x04 w (fun t k =>
    scalarOp t u.val k 0x04 w (decide (iMinor w < 16) && iMinor w / 4 % 2 == 0 && scalarOk (iRd w)) [iRa w] [] (fun t c =>
      let a := accAddr c w
      let n := accSize w
      if !mayIssue t k [rnS c (iRd w)] [] none none then stall t u.val
      else if a % n ≠ 0 then misaligned t k 0x04 w a
      else if accLocal w then storeLocal t u.val k a n (sGet c (iRd w)) else storeCtx t u.val k a n (sGet c (iRd w))))

/-! ## FP32 on scalars -/

/-- Sources of a fop: rb for the two-operand forms, rc for fma. -/
def fopSources (w : BitVec 56) : List Nat :=
  if iMinor w = 3 then [iRa w, iRb w, iRc w] else if iMinor w < 8 then [iRa w, iRb w] else [iRa w]

def fopResult (op a b c : Nat) : Nat × CvtFlags :=
  match op with
  | 0 => (fadd a b, .none)
  | 1 => (fsub a b, .none)
  | 2 => (fmul a b, .none)
  | 3 => (ffma a b c, .none)
  | 4 => (fmin a b, .none)
  | 5 => (fmax a b, .none)
  | 6 => (if flt a b then 1 else 0, .none)
  | 7 => (if feq a b then 1 else 0, .none)
  | 8 => (i2f (signed 32 a), .none)
  | _ => let (v, f) := toIntSat 32 false (f32 a); (unsigned 32 v, f)

def execFop (u : Fin 17) (w : BitVec 56) (s : State) : Host.Outcome State Fault Refusal :=
  issueOn s u.val 0x05 w (fun t k =>
    let m := iMinor w
    scalarOp t u.val k 0x05 w (decide (m < 10) && iFn w == 0 && (m == 3 || iRc w == 0) && (decide (m < 8) || iRb w == 0))
      (fopSources w) [iRd w] (fun t c =>
        let v (n : Nat) : Nat := sVal c n % 2 ^ 32
        let (r, f) := fopResult m (v (iRa w)) (v (iRb w)) (v (iRc w))
        putScalar (if u.val < 16 then cvtSticky t u.val f else t) k (iRd w) r))

/-! ## Branches and jumps -/

def brTaken (op a b : Nat) : Bool :=
  match op with
  | 0 => a == 0
  | 1 => a != 0
  | 2 => decide (s64 a < 0)
  | 3 => decide (0 ≤ s64 a)
  | 4 => decide (s64 a < s64 b)
  | 5 => decide (a < b)
  | 6 => a == b
  | _ => a != b

/-- PC + 8 × off, wrapping. -/
def branchTo (pc : DWord) (w : BitVec 56) : DWord := BitVec.ofNat 64 (u64 ((pc.toNat : Int) + 8 * iImm w))

/-- Go on at `pc`. -/
def jumpTo (s : State) (k : Nat) (pc : DWord) (f : Ctx → Ctx) : Host.Outcome State Fault Refusal :=
  .next (updCtx s k (fun c => { f c with pc := pc, seqNo := c.seqNo + 1 }))

/-- BR: ra lies in bits [47:42] and rb in [41:36]. -/
def execBr (u : Fin 17) (w : BitVec 56) (s : State) : Host.Outcome State Fault Refusal :=
  issueOn s u.val 0x10 w (fun t k =>
    let two := decide (4 ≤ iMinor w)
    scalarOp t u.val k 0x10 w (decide (iMinor w < 8) && (two || iRa w == 0)) (if two then [iRd w, iRa w] else [iRd w]) [] (fun t c =>
      jumpTo t k (if brTaken (iMinor w) (sVal c (iRd w)) (sVal c (iRa w)) then branchTo c.pc w else c.pc + 8) id))

/-- jmp and call: minor 0 names an offset, minor 1 a register. -/
def jumpOk (w : BitVec 56) : Bool :=
  if iMinor w = 0 then iRd w == 0 && iRa w == 0 else iMinor w == 1 && iRd w == 0 && iImmBits w == 0
def jumpSources (w : BitVec 56) : List Nat := if iMinor w = 1 then [iRa w] else []
def jumpTarget (c : Ctx) (w : BitVec 56) : DWord := if iMinor w = 1 then (sGet c (iRa w)).val else branchTo c.pc w

def execJmp (u : Fin 17) (w : BitVec 56) (s : State) : Host.Outcome State Fault Refusal :=
  issueOn s u.val 0x11 w (fun t k =>
    scalarOp t u.val k 0x11 w (jumpOk w) (jumpSources w) [] (fun t c =>
      let a := jumpTarget c w
      if a.toNat % 8 ≠ 0 then misaligned t k 0x11 w a.toNat else jumpTo t k a id))

/-! ## Windows and the spill port (R401 to R406) -/

/-- The 16 registers of window `n`. -/
def windowRegs (c : Ctx) (n : Nat) : List Scalar := (List.range 16).map (fun i => Tab.get sDefault c.win (n * 16 + i))

/-- Put 16 registers into window `n`. -/
def setWindow (c : Ctx) (n : Nat) (l : List Scalar) : Ctx := { c with win := Tab.setMany sDefault (n * 16) (l.take 16) c.win }

/-- What the spill port meets: an error trap number with its reason. -/
inductive Spill where
  | done
  | exhausted
  | failed (reason addr : Nat) (write : Bool)
  deriving DecidableEq, Repr

/-- Write a spill record: 16 registers of 8 bytes each, with their poison. -/
def spillWrite (s : State) (u k a : Nat) : List Scalar → State × Spill
  | [] => (s, .done)
  | r :: rs =>
    match ctxWrite s u k a (bytesOf 8 r.val.toNat) r.poison with
    | (t, .ok) => spillWrite t u k (a + 8) rs
    | (t, .fault _ x) => (t, .failed x a true)
    | (t, .poisoned _) => (t, .failed 0 a true)

/-- Read a spill record. -/
def spillRead (s : State) (u k a : Nat) : Nat → State × Spill × List Scalar
  | 0 => (s, .done, [])
  | n + 1 =>
    match ctxRead s u k a 8 with
    | (t, .data bs p _) =>
      match spillRead t u k (a + 8) n with
      | (t2, r, l) => (t2, r, ⟨BitVec.ofNat 64 (natOf bs), p⟩ :: l)
    | (t, .fault _ x) => (t, .failed x a false, [])

/-- wspill: the oldest ring frame goes to [PTR, PTR + 128). -/
def spillFrame (s : State) (u k : Nat) : State × Spill :=
  let c := ctxAt s k
  if c.spillLim.toNat < c.spillPtr.toNat + 128 then (s, .exhausted)
  else
    match spillWrite s u k c.spillPtr.toNat (windowRegs c ((c.cwp + 8 - c.live) % 7)) with
    | (t, .done) => (updCtx t k (fun x => { x with spillPtr := x.spillPtr + 128, live := x.live - 1 }), .done)
    | (t, r) => (t, r)

/-- wfill: [PTR − 128, PTR) goes to the frame below the oldest. -/
def fillFrame (s : State) (u k : Nat) : State × Spill :=
  let c := ctxAt s k
  if c.spillPtr = c.spillBase then (s, .exhausted)
  else
    match spillRead s u k (c.spillPtr.toNat - 128) 16 with
    | (t, .done, l) =>
      (updCtx t k (fun x =>
        { setWindow x ((c.cwp + 7 - c.live) % 7) l with spillPtr := x.spillPtr - 128, live := x.live + 1 }), .done)
    | (t, r, _) => (t, r)

/-- The trap of a failed spill-port access (R406, R440). -/
def spillTrap (s : State) (k : Nat) (r : Spill) : Host.Outcome State Fault Refusal :=
  match r with
  | .failed x a wrt => .next (seqTrap s k tSpill (memDetails (ctxAt s k).pc a 10 0 wrt false x 0 0))
  | _ => .next (seqTrap s k tExhausted [])

/-- A hardware spill or fill, counted in SEQ_HWSPILL (R405). -/
def hwCount (s : State) (u : Nat) : State := if u < 16 then countRun s .seqHwspill u else s

/-- WINDOW_OVERFLOW and WINDOW_UNDERFLOW (R410). -/
def windowTrap (s : State) (k num : Nat) : Host.Outcome State Fault Refusal :=
  let c := ctxAt s k
  .next (issueTrap s k num [c.pc, BitVec.ofNat 64 (c.cwp % 8 + c.live % 8 * 8), c.spillPtr])

/-- The rotation of a call: a frame of zeros with the return PC in s15. -/
def rotateIn (c : Ctx) : Ctx :=
  let n := (c.cwp + 1) % 7
  let fresh := List.replicate 15 Scalar.zero ++ [⟨c.pc + 8, false⟩]
  let c1 := setWindow c n fresh
  { c1 with cwp := n, live := c.live + 1, hd := if c.tw then c.hd + 1 else c.hd }

def execCall (u : Fin 17) (w : BitVec 56) (s : State) : Host.Outcome State Fault Refusal :=
  issueOn s u.val 0x12 w (fun t k =>
    scalarOp t u.val k 0x12 w (jumpOk w && !((ctxAt t k).tw && decide (255 ≤ (ctxAt t k).hd))) (jumpSources w) [] (fun t c =>
      let a := jumpTarget c w
      if a.toNat % 8 ≠ 0 then misaligned t k 0x12 w a.toNat
      else if c.live < 7 then jumpTo t k a rotateIn
      else if !c.tw then windowTrap t k tOverflow
      else match spillFrame t u.val k with
        | (t2, .done) => jumpTo (hwCount t2 u.val) k a rotateIn
        | (t2, r) => spillTrap t2 k r))

/-- The rotation of a return to the frame below. -/
def rotateOut (c : Ctx) : Ctx :=
  { c with cwp := (c.cwp + 6) % 7, live := c.live - 1, hd := if c.tw then c.hd - 1 else c.hd }

/-- A return needs an aligned address in s15 as a jump does (assumption 29). -/
def returnTo (s : State) (k : Nat) (w : BitVec 56) (f : Ctx → Ctx) : Host.Outcome State Fault Refusal :=
  let a := (sGet (ctxAt s k) 31).val
  if a.toNat % 8 ≠ 0 then misaligned s k 0x13 w a.toNat else jumpTo s k a f

def execRet (u : Fin 17) (w : BitVec 56) (s : State) : Host.Outcome State Fault Refusal :=
  issueOn s u.val 0x13 w (fun t k =>
    scalarOp t u.val k 0x13 w (iMinor w == 0 && ib w 47 0 == 0) [31] [] (fun t c =>
      if c.tw && c.hd == 0 then illegal t k 0x13 w
      else if (c.tw && c.hd == 1) || decide (2 ≤ c.live) then returnTo t k w rotateOut
      else if c.spillPtr.toNat ≤ c.spillBase.toNat then illegal t k 0x13 w
      else if !c.tw then windowTrap t k tUnderflow
      else match fillFrame t u.val k with
        | (t2, .done) => returnTo (hwCount t2 u.val) k w rotateOut
        | (t2, r) => spillTrap t2 k r))

def execWspill (u : Fin 17) (w : BitVec 56) (s : State) : Host.Outcome State Fault Refusal :=
  issueOn s u.val 0x19 w (fun t k =>
    scalarOp t u.val k 0x19 w (iMinor w == 0 && ib w 47 0 == 0 && (ctxAt t k).tw && decide (1 < (ctxAt t k).live)) [] [] (fun t _ =>
      match spillFrame t u.val k with
      | (t2, .done) => retire t2 k id
      | (t2, r) => spillTrap t2 k r))

def execWfill (u : Fin 17) (w : BitVec 56) (s : State) : Host.Outcome State Fault Refusal :=
  issueOn s u.val 0x1A w (fun t k =>
    let c := ctxAt t k
    scalarOp t u.val k 0x1A w
      (iMinor w == 0 && ib w 47 0 == 0 && c.tw && c.live != 7 && c.spillPtr != c.spillBase) [] [] (fun t _ =>
      match fillFrame t u.val k with
      | (t2, .done) => retire t2 k id
      | (t2, r) => spillTrap t2 k r))

/-! ## Control registers (R398) -/

def execCrr (u : Fin 17) (w : BitVec 56) (s : State) : Host.Outcome State Fault Refusal :=
  issueOn s u.val 0x17 w (fun t k =>
    scalarOp t u.val k 0x17 w (iMinor w == 0 && iRa w == 0 && crListed (iImmBits w)) [] [iRd w] (fun t c =>
      putScalar t k (iRd w) (crGet c (iImmBits w)).toNat))

def execCwr (u : Fin 17) (w : BitVec 56) (s : State) : Host.Outcome State Fault Refusal :=
  issueOn s u.val 0x18 w (fun t k =>
    scalarOp t u.val k 0x18 w (iMinor w == 0 && iRd w == 0 && crListed (iImmBits w)) [iRa w] [] (fun t c =>
      match crSet c (iImmBits w) (sGet c (iRa w)).val with
      | some c2 => retire t k (fun _ => c2)
      | none => retire (if u.val < 16 then flag t .seqSticky u.val 0 else t) k id))

/-! ## SWTRAP, fence, done, brk -/

/-- trap: an issue trap that resumes at the next instruction (R407). -/
def execTrap (u : Fin 17) (w : BitVec 56) (s : State) : Host.Outcome State Fault Refusal :=
  issueOn s u.val 0x15 w (fun t k =>
    scalarOp t u.val k 0x15 w (iMinor w == 0 && iRd w == 0 && iRa w == 0) [] [] (fun t c =>
      .next (addTrap t k { blankTrap with
        num := tSwtrap, seq := c.seqNo, rpc := some (c.pc + 8)
        details := padDetails [c.pc, BitVec.ofNat 64 (iImmBits w % 2 ^ 16)] })))

/-- The engines that a fence mask names; bit 0 names scalar accesses, which complete as they execute. -/
def fenceEngines (m : Nat) : List Engine :=
  (if m.testBit 1 then [Engine.dma] else []) ++ (if m.testBit 2 then [Engine.array] else [])
    ++ (if m.testBit 3 then [Engine.schuss] else []) ++ (if m.testBit 4 then [Engine.vector] else [])
    ++ (if m.testBit 5 then [Engine.scan] else [])

def execFence (u : Fin 17) (w : BitVec 56) (s : State) : Host.Outcome State Fault Refusal :=
  issueOn s u.val 0x16 w (fun t k =>
    scalarOp t u.val k 0x16 w (iMinor w == 0 && iRd w == 0 && iRa w == 0 && decide (iImmBits w < 64)) [] [] (fun t _ =>
      if (inFlight t k).any (fun q => (fenceEngines (iImmBits w)).contains q.engine) then stall t u.val else retire t k id))

/-- done: on a scull ends the step; on the stern core waits for the next catch (R395, R458). -/
def execDone (u : Fin 17) (w : BitVec 56) (stop : Bool) (stopOuts : BitVec 12) (s : State) :
    Host.Outcome State Fault Refusal :=
  issueOn s u.val 0x1B w (fun t k =>
    scalarOp t u.val k 0x1B w (iMinor w == 0 && ib w 47 0 == 0) [] [] (fun t _ =>
      if !(inFlight t k).isEmpty then stall t u.val
      else if u.val = sternUnit then retire t k (fun c => { c with waitDone := true })
      else .next (endStep t u.val k stop stopOuts)))

/-- Whether a grant lets the debugger halt the context (R233, R234). -/
def haltAllowed (s : State) (k : Nat) : Bool :=
  let lvl := rdf s .coxStat 0 5 4
  lvl == 2 || (lvl == 1 && (k / 64 == 16 || ctxRank s (k % 64) == 3))

/-- A brk is ignored (R416); under a level 1 grant it asked for the halt of a protected context (R233, assumption 125). -/
def brkIgnored (s : State) (u : Nat) : State :=
  let s1 := if u < 16 then flag s .seqSticky u 1 else s
  if rdf s .coxStat 0 5 4 = 1 then flag s1 .coxSticky 0 4 else s1

/-- brk: a debug halt, else ignored (R416). Issue stops at once; what runs completes, and nothing else starts. -/
def execBrk (u : Fin 17) (w : BitVec 56) (s : State) : Host.Outcome State Fault Refusal :=
  issueOn s u.val 0x1C w (fun t k =>
    scalarOp t u.val k 0x1C w (iMinor w == 0 && ib w 47 0 == 0) [] [] (fun t _ =>
      if !haltAllowed t k then retire (brkIgnored t u.val) k id
      else retire t k (fun c => { c with halt := .debug })))

end Sys2Proof.Machine
end

