-- ==== Sys2Proof/Machine/Vector.lean ====
section
/-! DEFINITION. The vector engine and its special-function unit (08_scull.md R251 to R263; 10_number_formats.md R325 to
R327; 11_functions_norms_softmax.md; 13_instruction_set.md R395 to R397, R427). -/

namespace Sys2Proof.Machine

/-! ## What vector instructions share -/

/-- Extra collection cycles: source registers that share a bank (R254). -/
def bankConflicts (srcs : List Nat) : Nat :=
  let l := srcs.eraseDups
  ((List.range 16).map (fun b => l.countP (fun n => n % 16 == b))).foldl Nat.max 1 - 1

/-- Source registers: conflicts counted, dead reads flagged (R254, R263). -/
def readVs (s : State) (u k : Nat) (srcs : List Nat) (err : EngineErr) : State :=
  let s1 := deadRead s u (srcs.any (fun n => !vLive (ctxAt s k) n))
  let n := bankConflicts srcs + err.vrfLost
  if n = 0 then s1 else bumpBy s1 .sclVrfConf u n

/-- A poisoned source traps (R427). -/
def vPoison (s : State) (k : Nat) (srcs : List Nat) : Bool := srcs.any (fun n => (vAll (ctxAt s k) n).any (·.poison))

/-- Run `f` on clean sources; else POISON. -/
def vRun (s : State) (u k : Nat) (q : QEntry) (srcs : List Nat) (err : EngineErr) (f : State → Ctx → State) : State :=
  if vPoison s k srcs then engPoison s k q 2 0 0 else f (readVs s u k srcs err) (ctxAt s k)

/-- Lane values of a register. -/
def lane (c : Ctx) (n i : Nat) : Nat := (vGet c n i).val.toNat

def clean (v : Nat) : Elem := ⟨BitVec.ofNat 32 v, false⟩

/-- Write lanes 0 to 127 of a register. -/
def putLanes (s : State) (k rd : Nat) (l : List Nat) : State := updCtx s k (fun c => vPut c rd (l.map clean))

/-- NaN lanes of a result: how many, and the record of the lowest; `gen` says which were generated. -/
def laneNans (s : State) (u k : Nat) (q : QEntry) (engine : Nat) (l : List Nat) (gen : Nat → Bool) : State :=
  let idx := (List.range l.length).filter (fun i => isNan (l.getD i 0))
  match idx.head? with
  | none => s
  | some i => nanWritten s u k q idx.length ⟨engine, 0, if gen i then 1 else 0, i, 0, l.getD i 0⟩

/-- Unused fields of a REG instruction are zero (R393). -/
def regFields (w : BitVec 56) (rd ra rb rc fn : Bool) : Bool :=
  (rd || iRd w == 0) && (ra || iRa w == 0) && (rb || iRb w == 0) && (rc || iRc w == 0) && (fn || iFn w == 0)

/-! ## valu and vfma -/

/-- One lane of valu; none for a shift by 32 or more, whose result is not stated. -/
def valuLane (minor a b : Nat) : Option Nat :=
  let int := decide (16 ≤ minor)
  match minor % 16 with
  | 0 => some (if int then (a + b) % 2 ^ 32 else fadd a b)
  | 1 => some (if int then (a + 2 ^ 32 - b) % 2 ^ 32 else fsub a b)
  | 2 => some (if int then a * b % 2 ^ 32 else fmul a b)
  | 3 => some (if int then (if signed 32 a ≤ signed 32 b then a else b) else fmin a b)
  | 4 => some (if int then (if signed 32 a ≤ signed 32 b then b else a) else fmax a b)
  | 5 => some (a &&& b)
  | 6 => some (a ||| b)
  | 7 => some (a ^^^ b)
  | 8 => if b < 32 then some (a * 2 ^ b % 2 ^ 32) else none
  | 9 => if b < 32 then some (a / 2 ^ b) else none
  | 10 => some (if (if int then decide (signed 32 a < signed 32 b) else flt a b) then 1 else 0)
  | _ => some (if (if int then a == b else feq a b) then 1 else 0)

def execValu (u : Fin 17) (w : BitVec 56) (s : State) : Host.Outcome State Fault Refusal :=
  issueOn s u.val 0x50 w (fun t k =>
    engineOp t u.val k 0x50 w (decide (iMinor w < 32 ∧ iMinor w % 16 < 12) && regFields w true true true false false) [] (fun t _ =>
      toEngine t u.val k 0x50 w .vector [rnV (iRa w), rnV (iRb w)] [rnV (iRd w)] none none []))

def runValu (s : State) (u k : Nat) (q : QEntry) (err : EngineErr) : State :=
  let w := q.w
  let m := iMinor w
  vRun s u k q [iRa w, iRb w] err (fun t c =>
    let l := (List.range 128).map (fun i =>
      (valuLane m (lane c (iRa w) i) (lane c (iRb w) i)).getD (Config.word32 (t.free + i)).toNat)
    let t2 := putLanes { t with free := t.free + 128 } k (iRd w) l
    if m < 5 then laneNans t2 u k q 2 l (fun i => !isNan (lane c (iRa w) i) && !isNan (lane c (iRb w) i)) else t2)

def execVfma (u : Fin 17) (w : BitVec 56) (s : State) : Host.Outcome State Fault Refusal :=
  issueOn s u.val 0x51 w (fun t k =>
    engineOp t u.val k 0x51 w (iMinor w == 0 && regFields w true true true true false) [] (fun t _ =>
      toEngine t u.val k 0x51 w .vector [rnV (iRa w), rnV (iRb w), rnV (iRc w)] [rnV (iRd w)] none none []))

def runVfma (s : State) (u k : Nat) (q : QEntry) (err : EngineErr) : State :=
  let w := q.w
  vRun s u k q [iRa w, iRb w, iRc w] err (fun t c =>
    let v (n i : Nat) : Nat := lane c n i
    let l := (List.range 128).map (fun i => ffma (v (iRa w) i) (v (iRb w) i) (v (iRc w) i))
    laneNans (putLanes t k (iRd w) l) u k q 2 l
      (fun i => !isNan (v (iRa w) i) && !isNan (v (iRb w) i) && !isNan (v (iRc w) i)))

/-! ## vld and vst (R260, R426, R427) -/

def vldStrided (w : BitVec 56) : Bool := iMinor w == 1
def vldOk (w : BitVec 56) : Bool := decide (iMinor w < 2) && iRc w == 0 && (vldStrided w || iRb w == 0)
def vldGs (w : BitVec 56) : List Nat := if vldStrided w then [iRa w, iRb w] else [iRa w]

/-- First local offset and pitch of the elements. -/
def vldBase (c : Ctx) (w : BitVec 56) : Nat := (sVal c (iRa w) + iFn w) % 2 ^ 64
def vldPitch (c : Ctx) (w : BitVec 56) : Nat := if vldStrided w then sVal c (iRb w) else 4
/-- The hull of the elements. -/
def vldLen (pitch : Nat) : Nat := 127 * pitch + 4

def execVld (u : Fin 17) (w : BitVec 56) (ecc : Ecc) (s : State) : Host.Outcome State Fault Refusal :=
  issueOn s u.val 0x52 w (fun t k =>
    engineOp t u.val k 0x52 w (vldOk w) (vldGs w) (fun t c =>
      let o := vldBase c w
      let p := vldPitch c w
      let t1 := match localAddr t u.val (k % 64) o (vldLen p) with
        | some a => eccRead t a ecc
        | none => t
      toEngineRanges t1 u.val k 0x52 w .vector 2 ((vldGs w).map (rnS c)) [rnV (iRd w)] (some (o, vldLen p)) none
        [BitVec.ofNat 64 o, BitVec.ofNat 64 p]))

/-- Elements at a pitch with the poison of their words. -/
def pitchElems (s : State) (u k o pitch : Nat) : List Elem :=
  match localAddr s u (k % 64) o (vldLen pitch) with
  | some a => (List.range 128).map (fun i =>
      ⟨BitVec.ofNat 32 (natOf (memRead s (a + pitch * i) 4)), poisonIn s (a + pitch * i) 4⟩)
  | none => List.replicate 128 Elem.zero

def runVld (s : State) (u k : Nat) (q : QEntry) : State :=
  updCtx s k (fun c => vPut c (iRd q.w) (pitchElems s u k (argOf q 0) (argOf q 1)))

def execVst (u : Fin 17) (w : BitVec 56) (s : State) : Host.Outcome State Fault Refusal :=
  issueOn s u.val 0x53 w (fun t k =>
    engineOp t u.val k 0x53 w (vldOk w) (vldGs w) (fun t c =>
      let o := vldBase c w
      let p := vldPitch c w
      toEngineRanges t u.val k 0x53 w .vector 2 (rnV (iRd w) :: (vldGs w).map (rnS c)) [] none (some (o, vldLen p))
        [BitVec.ofNat 64 o, BitVec.ofNat 64 p]))

/-- Elements stored one by one at a pitch. -/
def pitchStore (s : State) (u k : Nat) (q : QEntry) (o pitch : Nat) (l : List Elem) : State :=
  match localAddr s u (k % 64) o (vldLen pitch) with
  | none => s
  | some a =>
    match (List.range 128).findSome? (fun i => edgePoison s (a + pitch * i) 4) with
    | some w => engPoisonW s k q 2 (o + w - a) w
    | none => forEach l.zipIdx (fun e t => storeElems t (a + pitch * e.2) [e.1]) s

def runVst (s : State) (u k : Nat) (q : QEntry) (err : EngineErr) : State :=
  let l := vAll (ctxAt s k) (iRd q.w)
  let t := readVs s u k [iRd q.w] err
  if vldStrided q.w then pitchStore t u k q (argOf q 0) (argOf q 1) l else localStore t u k q 2 (argOf q 0) l

/-! ## vcvt (R325, R326) -/

def cvtSrc (w : BitVec 56) : Nat := ib w 23 20
def cvtDst (w : BitVec 56) : Nat := ib w 19 16
def cvtMax (w : BitVec 56) : Bool := ib w 13 13 == 1
def cvtQ (w : BitVec 56) : Nat := ib w 12 8

def vcvtOk (w : BitVec 56) : Bool :=
  iMinor w == 0 && decide (cvtSrc w ≤ 10) && decide (cvtDst w ≤ 10) && ib w 7 0 == 0

/-- Vector registers read: ra, and for a Q24 source the register whose lanes hold Q. -/
def vcvtSrcs (w : BitVec 56) : List Nat := if cvtSrc w = 9 then [iRa w, iRc w] else [iRa w]

/-- The exponents of a BX8 source and of a BX8 destination: four blocks to a register. -/
def cvtSrcExps (w : BitVec 56) (g : DWord) : Option (Nat × Nat) := if cvtSrc w = 10 then some (bxAt 0x54 w g 0, 4) else none
def cvtDstExps (w : BitVec 56) (g : DWord) : Option (Nat × Nat) := if cvtDst w = 10 then some (bxAt 0x54 w g 1, 4) else none

def execVcvt (u : Fin 17) (w : BitVec 56) (s : State) : Host.Outcome State Fault Refusal :=
  issueOn s u.val 0x54 w (fun t k =>
    engineOp t u.val k 0x54 w (vcvtOk w) (if cvtMax w then [iRb w] else []) (fun t c =>
      let g := (sGet c (iRb w)).val
      toEngineRanges t u.val k 0x54 w .vector 2 ((vcvtSrcs w).map rnV ++ (if cvtMax w then [rnS c (iRb w)] else [])) [rnV (iRd w)]
        (cvtSrcExps w g) (joinOf (if cvtMax w then some (g.toNat, 4) else none) (cvtDstExps w g)) [g]))

/-- The number in lane `i` of a conversion's source. -/
def cvtNum (c : Ctx) (w : BitVec 56) (exps : List Nat) (i : Nat) : Num :=
  let raw := lane c (iRa w) i
  if cvtSrc w = 10 then
    let e := exps.getD (i / 32) 0
    if e = 255 then .nan false else ofInt false (signed 8 raw) ((e : Int) - 133)
  else elemNum (cvtSrc w) (if cvtSrc w = 9 then lane c (iRc w) i % 256 else 0) (raw % 2 ^ fmtBits (cvtSrc w))

/-- A raw element in its lane: the bits above a narrow element are open (assumption 4). -/
def inLane (k free raw : Nat) : Nat :=
  let m := 2 ^ fmtBits k
  raw % m + (Config.word32 free).toNat / m * m

/-- The running maximum after elements `xs` (R326): the word, and whether an infinity was met. -/
def runMax (old : Nat) (xs : List Num) : Nat × Bool :=
  xs.foldl (fun a x => match x with
    | .nan _ => a
    | .inf _ => (0x7F800000, true)
    | .fin _ m e => let b := rn (.fin false m e); if flt a.1 b then (b, a.2) else a) (old, false)

def runVcvt (s : State) (u k : Nat) (q : QEntry) (err : EngineErr) : State :=
  let w := q.w
  let o := argOf q 0
  let g := q.args.getD 0 0
  match rangesPoison s u k [if cvtMax w then some (o, 4) else none, cvtSrcExps w g], edgeOf s u k (cvtDstExps w g) with
  | some (x, dev), _ => engPoison s k q 2 x dev
  | none, some (x, dev) => engPoisonW s k q 2 x dev
  | none, none =>
    vRun s u k q (vcvtSrcs w) err (fun t c =>
      let exps := bxExps t u k (cvtSrcExps w g)
      let xs := (List.range 128).map (cvtNum c w exps)
      let blocks := if cvtDst w = 10 then (List.range 4).map (fun b => bxBlock (ib w 15 15 == 1) ((xs.drop (32 * b)).take 32)) else []
      let enc := xs.map (encElem (cvtDst w) (cvtQ w) (ib w 15 15 == 1) (ib w 14 14 == 1))
      let raws := if cvtDst w = 10 then (blocks.map (·.1)).flatten else enc.map (·.1)
      let flags := (if cvtDst w = 10 then blocks.map (·.2.2) else enc.map (·.2)).foldl CvtFlags.or .none
      let l := raws.zipIdx.map (fun e => inLane (cvtDst w) (t.free + 16 + e.2) e.1)
      let t1 := cvtSticky (putLanes { t with free := t.free + 256 } k (iRd w) l) u flags
      let old := natOf (localBytes t u k o 4)
      let (mx, inf) := runMax old xs
      let t1b := match cvtDstExps w g with
        | some (b, _) => localWrite t1 u (k % 64) b (blocks.map (fun b => BitVec.ofNat 8 b.2.1))
        | none => t1
      let t2 := if cvtMax w then localWrite t1b u (k % 64) o (bytesOf 4 mx) else t1b
      let t3 := if cvtMax w && inf then flag t2 .vecNumSticky u 5 else t2
      let nans := (List.range 128).filter (fun i =>
        if cvtDst w = 10 then ((blocks.map (·.2.1)).getD (i / 32) 0) == 255
        else isFloatFmt (cvtDst w) && (match xs.getD i (.fin false 0 0) with | .nan _ => true | _ => false))
      let kind (i : Nat) : Nat := if cvtDst w = 10 || (cvtSrc w == 10 && exps.getD (i / 32) 0 == 255) then 2 else 0
      match nans.head? with
      | none => t3
      | some i => nanWritten t3 u k q nans.length ⟨2, 0, kind i, i, 0, raws.getD i 0⟩)

/-! ## vamax.scale (R327) -/

def vamaxOk (w : BitVec 56) : Bool :=
  iMinor w == 0 && iRc w == 0 && ib w 3 3 == 0 && ib w 23 8 == 0 && decide (ib w 7 4 ≤ 10) && scalarOk (iRd w)

def execVamaxScale (u : Fin 17) (w : BitVec 56) (s : State) : Host.Outcome State Fault Refusal :=
  issueOn s u.val 0x55 w (fun t k =>
    engineOp t u.val k 0x55 w (vamaxOk w) [iRa w, iRb w] (fun t c =>
      let o := (sGet c (iRa w)).val
      toEngineRanges t u.val k 0x55 w .vector 2 [rnS c (iRa w), rnS c (iRb w)] [rnS c (iRd w)] (some (o.toNat, 4))
        (if ib w 2 2 = 1 then some (o.toNat, 4) else none) [o, (sGet c (iRb w)).val, BitVec.ofNat 64 (rnS c (iRd w))]))

/-- The largest finite value of a format. -/
def fmtMax (k : Nat) : Num := if k = 9 then .fin false (2 ^ 23 - 1) 0 else (fmtRange k 0).2

/-- floor(log2(a ÷ b)) of positive finite numbers. -/
def log2Ratio (ma : Nat) (ea : Int) (mb : Nat) (eb : Int) : Int :=
  let d : Int := (Nat.log2 ma : Int) - Nat.log2 mb
  let up := if 0 ≤ d then decide (mb * 2 ^ d.toNat ≤ ma) else decide (mb ≤ ma * 2 ^ (-d).toNat)
  (if up then d else d - 1) + ea - eb

/-- The scale for a running maximum; none where the spec states no result (a NaN or a negative word). -/
def scaleOf (dst margin m prev : Nat) : Option Nat :=
  match f32 m with
  | .nan _ => none
  | .inf neg => if neg then none else some prev
  | .fin neg k e =>
    if k = 0 then some prev
    else if neg then none
    else match fmtMax dst with
      | .fin _ f g => some (rn (.fin false 1 (log2Ratio f g k e - margin)))
      | _ => none

/-- Write a scalar register by its scoreboard number. -/
def putByNumber (c : Ctx) (n : Nat) (v : Scalar) : Ctx :=
  if n < 16 then { c with g := Tab.set id sDefault n v c.g } else { c with win := Tab.set id sDefault (n - 16) v c.win }

def runVamax (s : State) (u k : Nat) (q : QEntry) : State :=
  let w := q.w
  let o := argOf q 0
  poisonFree s u k q 2 o 4 (fun t =>
    let m := natOf (localBytes t u k o 4)
    let v := (scaleOf (ib w 7 4) (ib w 1 0) m (argOf q 1 % 2 ^ 32)).getD (Config.word32 t.free).toNat
    let t1 := updCtx { t with free := t.free + 1 } k (fun c => putByNumber c (argOf q 2) ⟨BitVec.ofNat 64 v, false⟩)
    if ib w 2 2 = 1 then localWrite t1 u (k % 64) o [0, 0, 0, 0] else t1)

/-! ## vrel -/

def relList (w : BitVec 56) : List Nat := (List.range 8).filter (fun i => (iImmBits w).testBit i)
def relOk (w : BitVec 56) : Bool := iMinor w == 0 && iRd w == 0 && iRa w == 0 && decide (iImmBits w < 256)

def execVrel (u : Fin 17) (w : BitVec 56) (s : State) : Host.Outcome State Fault Refusal :=
  issueOn s u.val 0x56 w (fun t k =>
    engineOp t u.val k 0x56 w (relOk w) [] (fun t _ =>
      toEngine t u.val k 0x56 w .vector [] (((relList w).map (fun g => (List.range 8).map (fun i => rnV (8 * g + i)))).flatten) none none []))

def runVrel (s : State) (k : Nat) (q : QEntry) : State := updCtx s k (fun c => (relList q.w).foldl releaseV c)

/-! ## The special-function unit -/

/-- Note the table words that an instruction used, and whether `hit` was among them: TAB_PAR, and whether the same word
erred in 4 consecutive uses (R360). -/
def tableUse (s : State) (u : Nat) (used : List (Nat × Nat)) (hit : Option (Fin 8 × Fin 64)) : State × Bool :=
  let bad := match hit with
    | some (t, g) => if used.contains (t.val, g.val) then some (t.val * 64 + g.val) else none
    | none => none
  let words := (used.map (fun e => e.1 * 64 + e.2)).eraseDups
  let x := scullAt s u
  let errs := words.foldl (fun t n =>
    Tab.set id zeroDefault n (if bad = some n then Tab.get zeroDefault t n + 1 else 0) t) x.sfuErr
  let s1 := putScull s u { x with sfuErr := errs }
  (if bad.isSome then flag s1 .sfuSticky u 4 else s1, match bad with
    | some n => decide (4 ≤ Tab.get zeroDefault errs n)
    | none => false)

/-- Whether a result used the erring word. -/
def usedBad (hit : Option (Fin 8 × Fin 64)) (r : FnOut) : Bool :=
  match hit with
  | some (t, g) => r.used.contains (t.val, g.val)
  | none => false

def sfuOk (w : BitVec 56) : Bool :=
  iMinor w == 0 && iRb w == 0 && iRc w == 0 && decide (ib w 23 20 ≤ 10) && ib w 18 0 == 0
def linOf (w : BitVec 56) : Bool := ib w 19 19 == 1

def execSfu (u : Fin 17) (w : BitVec 56) (s : State) : Host.Outcome State Fault Refusal :=
  issueOn s u.val 0x60 w (fun t k =>
    engineOp t u.val k 0x60 w (sfuOk w) [] (fun t _ =>
      toEngine t u.val k 0x60 w .vector [rnV (iRa w)] [rnV (iRd w)] none none []))

/-- sfu; also whether SFU_FAULT fences the scull. -/
def runSfu (s : State) (u k : Nat) (q : QEntry) (err : EngineErr) : State × Bool :=
  let w := q.w
  if vPoison s k [iRa w] then (engPoison s k q 2 0 0, false)
  else
    let c := ctxAt s k
    let outs := (List.range 128).map (fun i => sfuFn (ib w 23 20) (linOf w) (lane c (iRa w) i))
    let l := outs.map (fun r => (⟨BitVec.ofNat 32 r.bits, usedBad err.tableWord r⟩ : Elem))
    let s1 := updCtx (readVs s u k [iRa w] err) k (fun c => vPut c (iRd w) l)
    let s2 := outs.foldl (fun t r => fnSticky t u r) (bump s1 .sfuCnt u)
    let (s3, broken) := tableUse s2 u ((outs.map (·.used)).flatten) err.tableWord
    (laneNans s3 u k q 3 (l.map (fun e => if e.poison then 0 else e.val.toNat)) (fun i => !isNan (lane c (iRa w) i)), broken)

/-! ## Row statistics and soft max (R349 to R354) -/

def statLocal (w : BitVec 56) : Bool := ib w 1 1 == 0
def statMask (w : BitVec 56) : Bool := ib w 2 2 == 1
def statN (c : Ctx) (w : BitVec 56) : Nat := sVal c (iRb w) % 2 ^ 32
def statBitmap (c : Ctx) (w : BitVec 56) : Nat := sVal c (iRb w) / 2 ^ 32

/-- n from 1 to 16,384; from registers at most 1,024, within v63. -/
def statNOk (w : BitVec 56) (n : Nat) : Bool :=
  decide (1 ≤ n) && decide (n ≤ 16384) && (statLocal w || (decide (n ≤ 1024) && decide (iRa w + ceilDiv n 128 ≤ 64)))

/-- Vector registers of the source. -/
def statVs (w : BitVec 56) (n : Nat) : List Nat := if statLocal w then [] else (List.range (ceilDiv n 128)).map (· + iRa w)

/-- The hull of the row and, when a mask is named, of its bitmap. -/
def statRange (w : BitVec 56) (o n bm : Nat) : Option (Nat × Nat) :=
  let mb := ceilDiv n 8
  match statLocal w, statMask w with
  | true, false => some (o, 4 * n)
  | true, true => some (Nat.min o bm, Nat.max (o + 4 * n) (bm + mb) - Nat.min o bm)
  | false, true => some (bm, mb)
  | false, false => none

/-- Issue of vstat and vmaxr. -/
def statIssue (s : State) (u major : Nat) (w : BitVec 56) (ok : Bool) (more : List Nat) : Host.Outcome State Fault Refusal :=
  issueOn s u major w (fun t k =>
    let gs := (if statLocal w then [iRa w] else []) ++ iRb w :: more
    engineOp t u k major w ok gs (fun t c =>
      let n := statN c w
      if !statNOk w n then illegal t k major w
      else
        let o := sVal c (iRa w)
        let bm := statBitmap c w
        toEngineRanges t u k major w .vector 2 (gs.map (rnS c) ++ (statVs w n).map rnV) [rnV (iRd w)]
          (statRange w o n bm) none [BitVec.ofNat 64 o, (sGet c (iRb w)).val, (sGet c (iRc w)).val]))

def execVstat (u : Fin 17) (w : BitVec 56) (s : State) : Host.Outcome State Fault Refusal :=
  statIssue s u.val 0x61 w (iMinor w == 0 && ib w 23 3 == 0) [iRc w]

def execVmaxr (u : Fin 17) (w : BitVec 56) (s : State) : Host.Outcome State Fault Refusal :=
  statIssue s u.val 0x62 w (iMinor w == 0 && iRc w == 0 && ib w 23 2 == 0 && ib w 0 0 == 0) []

/-- The elements of a row. -/
def statRow (s : State) (u k : Nat) (q : QEntry) (n : Nat) : List Nat :=
  let bytes := if statLocal q.w then localBytes s u k (argOf q 0) (4 * n) else []
  (List.range n).map (fun i => if statLocal q.w then field bytes (4 * i) 4 else lane (ctxAt s k) (iRa q.w + i / 128) (i % 128))

/-- Whether one of the first `n` elements of a row in registers is poison. -/
def rowVPoison (s : State) (k : Nat) (w : BitVec 56) (n : Nat) : Bool :=
  !statLocal w && (List.range n).any (fun i => (vGet (ctxAt s k) (iRa w + i / 128) (i % 128)).poison)

/-- The ranges of a row that are read: its elements, and its bitmap when a mask is named. -/
def statReads (w : BitVec 56) (o n bm : Nat) : List (Option (Nat × Nat)) :=
  [if statLocal w then some (o, 4 * n) else none, if statMask w then some (bm, ceilDiv n 8) else none]

/-- Run `f` on a row without poison. -/
def rowRun (s : State) (u k : Nat) (q : QEntry) (err : EngineErr) (f : State → List Nat → State × Bool) : State × Bool :=
  let n := argOf q 1 % 2 ^ 32
  let vs := statVs q.w n
  match rangesPoison s u k (statReads q.w (argOf q 0) n (argOf q 1 / 2 ^ 32)) with
  | some (x, dev) => (engPoison s k q 2 x dev, false)
  | none =>
    if rowVPoison s k q.w n then (engPoison s k q 2 0 0, false)
    else f (readVs s u k vs err) (statRow s u k q n)

def runVstat (s : State) (u k : Nat) (q : QEntry) (err : EngineErr) : State × Bool :=
  rowRun s u k q err (fun t row =>
    let w := q.w
    let bits := localBytes t u k (argOf q 1 / 2 ^ 32) (ceilDiv row.length 8)
    let xs := row.zipIdx.map (fun e => if statMask w && !((bits.getD (e.2 / 8) 0).getLsbD (e.2 % 8)) then none else some e.1)
    let eps := argOf q 2 % 2 ^ 32
    let (l0, l1, l2, l3, empty, used) := rowStats (ib w 0 0 == 1) eps xs
    let rsq := fnRsq false (fadd l1 eps)
    let bad := usedBad err.tableWord { rsq with used := used }
    let t1 := updCtx t k (fun c => vPut1 (vPut1 (vPut1 (vPut1 c (iRd w) 0 (clean l0)) (iRd w) 1 (clean l1)) (iRd w) 2
      ⟨BitVec.ofNat 32 l2, bad⟩) (iRd w) 3 (clean l3))
    let t2 := fnSticky (emptyRow (bump t1 .sfuCnt u) u empty) u rsq
    let (t3, broken) := tableUse t2 u used err.tableWord
    let l := [l0, l1, if bad then 0 else l2, l3]
    let src := (xs.filterMap id).any isNan
    let inf := (xs.filterMap id).any isInf
    (laneNans t3 u k q (if isNan l0 || isNan l1 then 2 else 3) l (fun i => !src && (i < 2 || inf || !isNan eps)), broken))

def runVmaxr (s : State) (u k : Nat) (q : QEntry) (err : EngineErr) : State × Bool :=
  rowRun s u k q err (fun t row =>
    let m := rowMax row
    let t1 := updCtx t k (fun c => vPut1 c (iRd q.w) 0 (clean m))
    (laneNans t1 u k q 2 [m] (fun _ => false), false))

def vexpsOk (w : BitVec 56) : Bool := iMinor w == 0 && ib w 23 20 == 0 && ib w 18 0 == 0

def execVexps (u : Fin 17) (w : BitVec 56) (s : State) : Host.Outcome State Fault Refusal :=
  issueOn s u.val 0x63 w (fun t k =>
    let gs := [iRa w, iRb w, iRc w]
    engineOp t u.val k 0x63 w (vexpsOk w) gs (fun t c =>
      let n := sVal c (iRc w) % 2 ^ 32
      if n = 0 ∨ 16384 < n then illegal t k 0x63 w
      else toEngineRanges t u.val k 0x63 w .vector 2 (gs.map (rnS c)) [rnV (iRd w)] (some (sVal c (iRa w), 4 * n))
        (some (sVal c (iRb w), 4 * n)) [(sGet c (iRa w)).val, (sGet c (iRb w)).val, (sGet c (iRc w)).val]))

/-- vexps: the exponentials, their sum, and the first NaN in the order of the writes: 128 elements a cycle, then s. -/
def runVexps (s : State) (u k : Nat) (q : QEntry) (err : EngineErr) : State × Bool :=
  let w := q.w
  let n := argOf q 2 % 2 ^ 32
  let m := argOf q 2 / 2 ^ 32
  match localPoison s u k (argOf q 0) (4 * n) with
  | some (x, dev) => (engPoison s k q 2 x dev, false)
  | none =>
    let bytes := localBytes s u k (argOf q 0) (4 * n)
    let row := (List.range n).map (fun i => field bytes (4 * i) 4)
    let outs := row.map (expElem (linOf w) m)
    let es := outs.map (fun r => (⟨BitVec.ofNat 32 r.bits, usedBad err.tableWord r⟩ : Elem))
    let sum := rowSum (outs.map (·.bits))
    let anyBad := es.any (·.poison)
    match (match localAddr s u (k % 64) (argOf q 1) (4 * n) with
      | some a => (edgePoison s a (4 * n)).map (fun x => (argOf q 1 + x - a, x))
      | none => none) with
    | some (x, dev) => (engPoisonW s k q 2 x dev, false)
    | none =>
      let s1 := localStore s u k q 2 (argOf q 1) es
      let s2 := updCtx s1 k (fun c => vPut1 c (iRd w) 0 ⟨BitVec.ofNat 32 sum, anyBad⟩)
      let s3 := emptyRow (outs.foldl (fun t r => fnSticky t u r) (bump s2 .sfuCnt u)) u (m == 0xFF800000)
      let (s4, broken) := tableUse s3 u ((outs.map (·.used)).flatten) err.tableWord
      let nans := es.zipIdx.filter (fun e => !e.1.poison && isNan e.1.val.toNat)
      let extra := if !anyBad && isNan sum then 1 else 0
      match nans.head? with
      | some (e, i) =>
        (nanWritten s4 u k q (nans.length + extra) ⟨3, 0, if isNan m || isNan (row.getD i 0) then 0 else 1, i % 128, i / 128, e.val.toNat⟩, broken)
      | none => (if extra = 1 then nanWritten s4 u k q 1 ⟨2, 0, 1, 0, 0, sum⟩ else s4, broken)

def execVcorr (u : Fin 17) (w : BitVec 56) (s : State) : Host.Outcome State Fault Refusal :=
  issueOn s u.val 0x64 w (fun t k =>
    engineOp t u.val k 0x64 w (iMinor w == 0 && iRc w == 0 && ib w 23 20 == 0 && ib w 18 0 == 0) [iRa w, iRb w] (fun t c =>
      toEngine t u.val k 0x64 w .vector [rnS c (iRa w), rnS c (iRb w)] [rnV (iRd w)] none none
        [(sGet c (iRa w)).val, (sGet c (iRb w)).val]))

def runVcorr (s : State) (u k : Nat) (q : QEntry) (err : EngineErr) : State × Bool :=
  let a := argOf q 0 % 2 ^ 32
  let b := argOf q 1 % 2 ^ 32
  let r := corrFactor (linOf q.w) a b
  let bad := usedBad err.tableWord r
  let s1 := updCtx s k (fun c => vPut1 c (iRd q.w) 0 ⟨BitVec.ofNat 32 r.bits, bad⟩)
  let (s2, broken) := tableUse (fnSticky (bump s1 .sfuCnt u) u r) u r.used err.tableWord
  (laneNans s2 u k q 3 [if bad then 0 else r.bits] (fun _ => !isNan a && !isNan b), broken)

end Sys2Proof.Machine
end

