-- ==== Sys2Proof/Machine/Scan.lean ====
section
/-! DEFINITION. The scan engine (12_scan_engine.md R362 to R380, R386 to R389) and the moves between register files
(08_scull.md R252, 13_instruction_set.md R397). -/

namespace Sys2Proof.Machine

/-! ## The descriptor (R365, R366, R368) -/

def bitsOf (v : DWord) (hi lo : Nat) : Nat := v.toNat / 2 ^ lo % 2 ^ (hi + 1 - lo)

def scForm (w0 : DWord) : Nat := bitsOf w0 63 60
def scCN (w0 : DWord) : Nat := bitsOf w0 59 57
def scCP (w0 : DWord) : Nat := bitsOf w0 56 54
def scW (w0 : DWord) : Nat := 128 * (bitsOf w0 53 51 + 1)
def scFmt (w0 : DWord) : Bool := w0.getLsbD 50
def scOfmt (w0 : DWord) : Bool := w0.getLsbD 49
def scOmode (w0 : DWord) : Nat := bitsOf w0 48 47
def scDsp (w0 : DWord) : Bool := w0.getLsbD 46
def scGs (w0 : DWord) : Bool := w0.getLsbD 45
def scVm (w0 : DWord) : Bool := w0.getLsbD 44
def scStream (w0 : DWord) : Bool := w0.getLsbD 43
def scN (w0 : DWord) : Nat := bitsOf w0 19 0 + 1
def scChunks (w0 : DWord) : Nat := ceilDiv (scN w0) 64

/-- Fields of a record, bytes of one field, and the record and output pitches. -/
def scFields (w0 : DWord) : Nat := if scForm w0 = 0 then 1 else 2
def scElem (b : Bool) : Nat := if b then 2 else 4
def scFieldLen (w0 : DWord) : Nat := ceilDiv (scW w0 * scElem (scFmt w0)) 64 * 64
def scRP (w0 : DWord) : Nat := scFields w0 * scFieldLen w0 + (if scVm w0 then 64 else 0)
def scOP (w0 : DWord) : Nat := ceilDiv (scW w0 * scElem (scOfmt w0)) 64 * 64

/-- Output rows, and the bytes of the staging area. -/
def scRows (w0 : DWord) : Nat :=
  match scOmode w0 with
  | 0 => 0
  | 1 => scN w0
  | _ => scChunks w0
def scStaging (w0 : DWord) : Nat := 192 * scRP w0 + (if scOmode w0 = 0 then 0 else 128 * scOP w0)

/-- Whether the form reads cP (R364). -/
def scReadsP (w0 : DWord) : Bool := scForm w0 == 0 || scForm w0 == 2

def scanOk (w0 w3 : DWord) : Bool :=
  decide (scForm w0 ≤ 3) && scOmode w0 != 3 && scCN w0 != scCP w0 && bitsOf w0 42 20 == 0 && decide (w3.toNat < 2 ^ 23)
    && (if scStream w0 then w3 != 0 else w3 == 0)

def execScnRun (u : Fin 17) (w : BitVec 56) (s : State) : Host.Outcome State Fault Refusal :=
  issueOn s u.val 0x70 w (fun t k =>
    let d := iRa w
    let gs := [d, d + 1, d + 2, d + 3]
    engineOp t u.val k 0x70 w (iMinor w == 0 && regFields w false true false false false && decide (d ≤ 12)) gs (fun t c =>
      let g (i : Nat) : DWord := (sGet c (d + i)).val
      let w0 := g 0
      if !scanOk w0 (g 3) then illegal t k 0x70 w
      else if (g 1).toNat % 64 ≠ 0 then misaligned t k 0x70 w (g 1).toNat
      else if scOmode w0 ≠ 0 ∧ (g 2).toNat % 64 ≠ 0 then misaligned t k 0x70 w (g 2).toNat
      else
        let rs := gs.map rnG ++ (if scReadsP w0 then [rnC (scCP w0)] else [])
        let out := scRows w0 * scOP w0
        let rd := if scStream w0 then none else some ((g 1).toNat, scN w0 * scRP w0)
        let wr := if scStream w0 then some ((g 3).toNat, scStaging w0) else if out = 0 then none else some ((g 2).toNat, out)
        toEngineRanges t u.val k 0x70 w .scan 7 rs [rnC (scCN w0)] rd wr [g 0, g 1, g 2, g 3]))

/-! ## One chunk (R362, R367, R373, R374) -/

/-- a_t and b_t of one channel: `p` from cP, `x` and `y` the record's fields in order. -/
def scanCoef (w0 : DWord) (p x y : Nat) : Nat × Nat :=
  match scForm w0 with
  | 0 => (p, x)
  | 1 => (x, y)
  | 2 =>
    let d := if scDsp w0 then (fnSoftplus false x).bits else x
    ((fnExp2 false (fmul d p)).bits, fmul d y)
  | _ =>
    let z := if scGs w0 then (fnSig false x).bits else x
    (fsub 0x3F800000 z, fmul z y)

/-- One level of the prefix: all pairs at once, from the values of the level before. -/
def prefixLevel (d : Nat) (l : List (Nat × Nat)) : List (Nat × Nat) :=
  l.zipIdx.map (fun e =>
    if e.2 < d then e.1
    else
      let b := l.getD (e.2 - d) (0, 0)
      (fmul e.1.1 b.1, ffma e.1.1 b.2 e.1.2))

/-- The states h_0 … h_{m−1} of one channel. -/
def scanStates (h : Nat) (l : List (Nat × Nat)) : List Nat :=
  ([1, 2, 4, 8, 16, 32].foldl (fun t d => prefixLevel d t) l).map (fun e => ffma e.1 h e.2)

/-- Steps of chunk `n`. -/
def chunkLen (w0 : DWord) (n : Nat) : Nat := Nat.min 64 (scN w0 - 64 * n)

/-- Element `i` of field `f` of the record that starts at offset `o` of `bs`, as FP32. -/
def recordElem (w0 : DWord) (bs : List Byte) (o f i : Nat) : Nat :=
  let e := scElem (scFmt w0)
  let v := field bs (o + f * scFieldLen w0 + e * i) e
  if scFmt w0 then v * 65536 else v

/-- VALID of a record. -/
def recordValid (w0 : DWord) (bs : List Byte) (o : Nat) : Bool :=
  !scVm w0 || (bs.getD (o + scFields w0 * scFieldLen w0) 0).getLsbD 0

/-- The coefficients of one channel over a chunk. -/
def chanCoefs (w0 : DWord) (bs : List Byte) (m p i : Nat) : List (Nat × Nat) :=
  (List.range m).map (fun j =>
    let o := j * scRP w0
    if recordValid w0 bs o then scanCoef w0 p (recordElem w0 bs o 0 i) (if scForm w0 = 0 then 0 else recordElem w0 bs o 1 i)
    else (0x3F800000, 0))

/-- One output row: FP32, or B16 rounded to nearest even, padded to the pitch. -/
def outRow (w0 : DWord) (row : List Nat) : List Byte :=
  let l := row.map (fun b => if scOfmt w0 then bytesOf 2 (encFloat fmtB16 false false (f32 b)).1 else bytesOf 4 b)
  slice l.flatten 0 (scW w0 * scElem (scOfmt w0))

/-- Rows of a chunk's output, each with its row number. -/
def outRows (w0 : DWord) (n m : Nat) (states : List (List Nat)) : List (Nat × List Byte) :=
  let row (j : Nat) : List Byte := outRow w0 (states.map (fun h => h.getD j 0))
  match scOmode w0 with
  | 0 => []
  | 1 => (List.range m).map (fun j => (64 * n + j, row j))
  | _ => [(n, row (m - 1))]

/-! ## Chunk by chunk (R377 to R380) -/

/-- Where the records of the next chunk lie: a local offset, in the staging ring for a stream. -/
def chunkAt (k : Scan) : Nat :=
  if scStream k.w0 then k.w3.toNat + k.prog % 3 * (64 * scRP k.w0) else k.w1.toNat + k.prog * 64 * scRP k.w0

/-- Stop the scan at its boundary. -/
def haltScan (s : State) (key : Nat) : State :=
  updCtx s key (fun c => { c with scan := c.scan.map (fun x => { x with running := false }) })

/-- A trap of a scan, taken at its chunk boundary. -/
def scanTrap (s : State) (key : Nat) (q : QEntry) (num : Nat) (details : List DWord) : State :=
  addTrap (haltScan s key) key
    { blankTrap with num := num, kind := .channel, seq := q.seq, chan := 4, details := padDetails details }

/-- Unbind DMA channel 3 (R370, R371). -/
def unbind (s : State) (u : Nat) : State :=
  updScull s u (fun x => if (chAt x 3).state = 4 then setCh x 3 Channel.idle else x)

/-- A row of a stream's output in the ring of 2 chunks behind the records (R370): `n` rows stand before it in its chunk. -/
def ringRow (s : State) (u key : Nat) (k : Scan) (n : Nat) (bs : List Byte) : State :=
  localWrite s u (key % 64) (k.w3.toNat + 192 * scRP k.w0 + k.prog % 2 * (64 * scOP k.w0) + n * scOP k.w0) bs

/-- Store the output rows of a chunk: in the window, or for a stream through its ring in memory, by the feeder. A row of a
stream that does not translate gives the context address, trap and REASON. -/
def storeRows (s : State) (u key : Nat) (k : Scan) : List (Nat × List Byte) → State × Option (Nat × Nat × Nat)
  | [] => (s, none)
  | (r, bs) :: rest =>
    let o := k.w2.toNat + r * scOP k.w0
    if scStream k.w0 then
      match ctxWrite (ringRow s u key k (if scOmode k.w0 = 1 then r % 64 else 0) bs) u key o bs false with
      | (t, .ok) => storeRows t u key k rest
      | (t, .fault num reason) => (t, some (o, num, reason))
      | (t, .poisoned _) => storeRows t u key k rest
    else storeRows (localWrite s u (key % 64) o bs) u key k rest

/-- After a chunk: the scan ends, stops for a pre-emption, or goes on (R377, R378, R386). -/
def nextChunk (s : State) (u key : Nat) (k : Scan) : State :=
  if k.prog + 1 = scChunks k.w0 then
    let s1 := updCtx s key (fun c => { c with scan := none })
    afterEngine (if scStream k.w0 then unbind s1 u else s1) u .scan
  else
    let stop := decide ((scullAt s u).running = some (key % 64)) && (scullAt s u).preempting
    let next := { k with prog := k.prog + 1, staged := k.staged - 1, waitSince := s.now, running := !stop }
    let s1 := updCtx s key (fun c => { c with scan := some next })
    if stop && scStream k.w0 then unbind s1 u else s1

/-- KIND of a NaN at step `j` of a channel: propagated when an operand up to there was NaN. -/
def scanNanKind (h : Nat) (l : List (Nat × Nat)) (j : Nat) : Nat :=
  if isNan h || (l.take (j + 1)).any (fun e => isNan e.1 || isNan e.2) then 0 else 1

/-- A chunk completes (R379, R380): poison in its records, cN or cP writes nothing; a NaN traps at the boundary. -/
def runChunk (s : State) (u key : Nat) (k : Scan) : State :=
  let w0 := k.w0
  let c := ctxAt s key
  let q := k.entry
  let m := chunkLen w0 k.prog
  let len := m * scRP w0
  let ws := List.range (scW w0)
  let cBad := ws.any (fun i => (cGet c (scCN w0) i).poison || (scReadsP w0 && (cGet c (scCP w0) i).poison))
  match localPoison s u key (chunkAt k) len with
  | some (o, dev) => scanTrap s key q tPoison (memDetails q.pc o 7 0 false false 0 dev 0)
  | none =>
    if cBad then scanTrap s key q tPoison (memDetails q.pc 0 7 0 false false 0 0 0)
    else
      let bs := localBytes s u key (chunkAt k) len
      let s0 := deadRead s u (!cLive c (scCN w0) || (scReadsP w0 && !cLive c (scCP w0)))
      let chans := ws.map (fun i =>
        let l := chanCoefs w0 bs m (cGet c (scCP w0) i).val.toNat i
        let h := (cGet c (scCN w0) i).val.toNat
        (h, l, scanStates h l))
      let states := chans.map (·.2.2)
      match storeRows s0 u key k (outRows w0 k.prog m states) with
      | (t, some (o, num, reason)) =>
        scanTrap t key q num (memDetails q.pc o 9 3 true false reason 0 0)
      | (t, none) =>
        let last := states.map (fun h => (⟨BitVec.ofNat 32 (h.getD (m - 1) 0), false⟩ : Elem))
        let t1 := bump (updCtx t key (fun c => cPut c (scCN w0) 0 last)) .scnChunks u
        let nans := ((List.range m).map (fun j => (ws.filter (fun i => isNan ((states.getD i []).getD j 0))).map (fun i => (j, i)))).flatten
        let written := (last.countP (fun e => isNan e.val.toNat))
          + (if scOmode w0 = 1 then nans.length else if scOmode w0 = 2 then last.countP (fun e => isNan e.val.toNat) else 0)
        match nans.head? with
        | none => nextChunk t1 u key k
        | some (j, i) =>
          let ch := chans.getD i (0, [], [])
          let r : NanRec := ⟨4, 0, scanNanKind ch.1 ch.2.1 j, j, i / 128, ch.2.2.getD j 0⟩
          if q.nte then haltScan (nextChunk (nanTrap t1 u key q .channel r) u key k) key
          else nanMasked (nextChunk t1 u key k) u written

/-- A chunk of the running scan completes; a stream's records must be staged. -/
def execScanChunkComplete (e : ChunkEnd) (s : State) : Host.Outcome State Fault Refusal :=
  match scanKey s e.scull.val with
  | none => unchanged s
  | some key =>
    match (ctxAt s key).scan with
    | none => unchanged s
    | some k =>
      if scStream k.w0 && k.staged == 0 then unchanged s
      else .next (runChunk (lossesOf (parityHit s e.scull.val key k.entry e.err.parity) e.err.loss) e.scull.val key k)

/-! ## The feeder (R370 to R372) -/

/-- The first granule of [a, a + 64n) that the feeder cannot read: its context address, trap, REASON and device word. -/
def feedFault (s : State) (u key a : Nat) : Nat → Option (Nat × Nat × Nat × Nat)
  | 0 => none
  | n + 1 =>
    match ctxRead s u key a 64 with
    | (_, .fault num r) => some (a, num, r, 0)
    | (_, .data _ true dev) => some (a, tPoison, 0, (firstPoison s dev 64).getD dev)
    | _ => feedFault s u key (a + 64) n

/-- The chunk that the feeder fetches next, as its context address and granules; none when the ring of 3 is full or all
is staged. -/
def feedNext (k : Scan) : Option (Nat × Nat) :=
  let c := k.prog + k.staged
  if 3 ≤ k.staged || decide (scChunks k.w0 ≤ c) then none
  else some (k.w1.toNat + c * 64 * scRP k.w0, chunkLen k.w0 c * scRP k.w0 / 64)

/-- Copy granules from context address `a` to the local offset `o`. -/
def copyGranules (s : State) (u key a o : Nat) : Nat → State
  | 0 => s
  | n + 1 =>
    match ctxRead s u key a 64 with
    | (t, .data bs _ _) => copyGranules (localWrite t u (key % 64) o bs) u key (a + 64) (o + 64) n
    | (t, _) => t

/-- Channel 3 is, or can be, bound to the scan. -/
def mayBind (s : State) (u : Nat) : Bool := (chAt (scullAt s u) 3).state == 0 || (chAt (scullAt s u) 3).state == 4

/-- Sequencer cycles in a time, at the island's frequency (SCL_CLK). -/
def seqCycles (s : State) (u ns : Nat) : Nat := ns * rdf s .sclClk u 20 10 / 1000

/-- The feeder has staged the next chunk; a wait of the engine is counted. -/
def execScanFeedStaged (sc : Fin 16) (s : State) : Host.Outcome State Fault Refusal :=
  let u := sc.val
  match scanKey s u with
  | none => unchanged s
  | some key =>
    match (ctxAt s key).scan with
    | none => unchanged s
    | some k =>
      match feedNext k with
      | none => unchanged s
      | some (a, n) =>
        if !scStream k.w0 || !mayBind s u || (feedFault s u key a n).isSome then unchanged s
        else
          let s1 := updScull s u (fun x => setCh x 3 { Channel.idle with state := 4, ctx := key % 64 })
          let s2 := copyGranules s1 u key a (k.w3.toNat + (k.prog + k.staged) % 3 * (64 * scRP k.w0)) n
          let s3 := updCtx s2 key (fun c => { c with scan := some { k with staged := k.staged + 1 } })
          let wait := seqCycles s u (s.now - k.waitSince)
          .next (if k.staged = 0 ∧ wait ≠ 0 then bumpBy (flag s3 .scnSticky u 0) .scnFeedWait u wait else s3)

/-! ## Loads, stores, release and moves (R382, R397, R252) -/

def scnLdOk (w : BitVec 56) : Bool :=
  iMinor w == 0 && iRb w == 0 && iRc w == 0 && decide (iRd w < 8) && ib w 23 3 == 0
def grpOf (w : BitVec 56) : Nat := ib w 2 0

def execScnLd (u : Fin 17) (w : BitVec 56) (s : State) : Host.Outcome State Fault Refusal :=
  issueOn s u.val 0x71 w (fun t k =>
    engineOp t u.val k 0x71 w (scnLdOk w) [iRa w] (fun t c =>
      let o := (sGet c (iRa w)).val
      toEngineRanges t u.val k 0x71 w .scan 7 [rnS c (iRa w)] [rnC (iRd w)] (some (o.toNat, 512)) none [o]))

def runScnLd (s : State) (u k : Nat) (q : QEntry) : State :=
  updCtx s k (fun c => cPut c (iRd q.w) (grpOf q.w * 128) (localElems s u k (argOf q 0) 128))

def execScnSt (u : Fin 17) (w : BitVec 56) (s : State) : Host.Outcome State Fault Refusal :=
  issueOn s u.val 0x72 w (fun t k =>
    engineOp t u.val k 0x72 w (scnLdOk w) [iRa w] (fun t c =>
      let o := (sGet c (iRa w)).val
      toEngineRanges t u.val k 0x72 w .scan 7 [rnS c (iRa w), rnC (iRd w)] [] none (some (o.toNat, 512)) [o]))

/-- The 128 elements of a group. -/
def cGroup (c : Ctx) (n g : Nat) : List Elem := (List.range 128).map (fun i => cGet c n (g * 128 + i))

def runScnSt (s : State) (u k : Nat) (q : QEntry) : State :=
  let c := ctxAt s k
  localStore (deadRead s u (!cLive c (iRd q.w))) u k q 7 (argOf q 0) (cGroup c (iRd q.w) (grpOf q.w))

def execCRel (u : Fin 17) (w : BitVec 56) (s : State) : Host.Outcome State Fault Refusal :=
  issueOn s u.val 0x73 w (fun t k =>
    engineOp t u.val k 0x73 w (relOk w) [] (fun t _ =>
      toEngine t u.val k 0x73 w .scan [] ((relList w).map rnC) none none []))

def runCRel (s : State) (k : Nat) (q : QEntry) : State := updCtx s k (fun c => (relList q.w).foldl releaseC c)

def execMvVc (u : Fin 17) (w : BitVec 56) (s : State) : Host.Outcome State Fault Refusal :=
  issueOn s u.val 0x80 w (fun t k =>
    engineOp t u.val k 0x80 w (scnLdOk w) [] (fun t _ =>
      toEngine t u.val k 0x80 w .scan [rnV (iRa w)] [rnC (iRd w)] none none []))

def runMvVc (s : State) (u k : Nat) (q : QEntry) : State :=
  let c := ctxAt s k
  updCtx (deadRead s u (!vLive c (iRa q.w))) k (fun c => cPut c (iRd q.w) (grpOf q.w * 128) (vAll c (iRa q.w)))

def execMvCv (u : Fin 17) (w : BitVec 56) (s : State) : Host.Outcome State Fault Refusal :=
  issueOn s u.val 0x81 w (fun t k =>
    let ok := iMinor w == 0 && iRb w == 0 && iRc w == 0 && decide (iRa w < 8) && ib w 23 3 == 0
    engineOp t u.val k 0x81 w ok [] (fun t _ =>
      toEngine t u.val k 0x81 w .vector [rnC (iRa w)] [rnV (iRd w)] none none []))

def runMvCv (s : State) (u k : Nat) (q : QEntry) : State :=
  let c := ctxAt s k
  updCtx (deadRead s u (!cLive c (iRa q.w))) k (fun c => vPut c (iRd q.w) (cGroup c (iRa q.w) (grpOf q.w)))

def mvOk (w : BitVec 56) (g : Nat) : Bool :=
  iMinor w == 0 && iRb w == 0 && iRc w == 0 && ib w 23 7 == 0 && scalarOk g
def laneOf (w : BitVec 56) : Nat := ib w 6 0

/-- mv.gv carries the poison of its scalar. -/
def execMvGv (u : Fin 17) (w : BitVec 56) (s : State) : Host.Outcome State Fault Refusal :=
  issueOn s u.val 0x82 w (fun t k =>
    engineOp t u.val k 0x82 w (mvOk w (iRa w)) [] (fun t c =>
      if !mayIssue t k [rnS c (iRa w)] [] none none then stall t u.val
      else
        let v := sGet c (iRa w)
        toEngine t u.val k 0x82 w .vector [rnS c (iRa w)] [rnV (iRd w)] none none [v.val, if v.poison then 1 else 0]))

def runMvGv (s : State) (k : Nat) (q : QEntry) : State :=
  updCtx s k (fun c => vPut1 c (iRd q.w) (laneOf q.w) ⟨BitVec.ofNat 32 (argOf q 0), argOf q 1 == 1⟩)

def execMvVg (u : Fin 17) (w : BitVec 56) (s : State) : Host.Outcome State Fault Refusal :=
  issueOn s u.val 0x83 w (fun t k =>
    engineOp t u.val k 0x83 w (mvOk w (iRd w)) [] (fun t c =>
      toEngine t u.val k 0x83 w .vector [rnV (iRa w)] [rnS c (iRd w)] none none [BitVec.ofNat 64 (rnS c (iRd w))]))

def runMvVg (s : State) (u k : Nat) (q : QEntry) (err : EngineErr) : State :=
  let e := vGet (ctxAt s k) (iRa q.w) (laneOf q.w)
  updCtx (readVs s u k [iRa q.w] err) k (fun c => putByNumber c (argOf q 0) ⟨BitVec.ofNat 64 e.val.toNat, e.poison⟩)

end Sys2Proof.Machine
end

