-- ==== Sys2Proof/Machine/Dma.lean ====
section
/-! DEFINITION. DMA (14_memory_translation_dma.md R442 to R446, R451, R452): descriptors, the channels of a unit, their
granules, faults, resumption and abort; and the three dma instructions. -/

namespace Sys2Proof.Machine

/-! ## Granules (R443, R445) -/

/-- What a granule meets. -/
inductive Gran where
  | moved
  | fault (num reason addr dev : Nat) (write : Bool)
  deriving DecidableEq, Repr

/-- Read a granule of the source. -/
def granRead (s : State) (u k : Nat) (d : Desc) (a : Nat) : State × Gran × List Byte :=
  if d.srcLocal then
    match localAddr s u (k % 64) a 64 with
    | none => (s, .fault tSpadRange 0 a 0 false, [])
    | some x => match firstPoison s x 64 with
      | some w => (s, .fault tPoison 0 (a + w - x) w false, [])
      | none => (s, .moved, memRead s x 64)
  else match ctxRead s u k a 64 with
    | (t, .fault num r) => (t, .fault num r a 0 false, [])
    | (t, .data bs p dev) => if p then (t, .fault tPoison 0 a ((firstPoison t dev 64).getD dev) false, []) else (t, .moved, bs)

/-- Write a granule to the destination. It starts no pass: GO takes a 64-bit store (R486). -/
def granWrite (s : State) (u k : Nat) (d : Desc) (a : Nat) (bs : List Byte) : State × Gran :=
  if d.dstLocal then
    match localAddr s u (k % 64) a 64 with
    | none => (s, .fault tSpadRange 0 a 0 true)
    | some x => (memWrite s x bs, .moved)
  else match ctxWrite s u k a bs false with
    | (t, .ok) => (t, .moved)
    | (t, .fault num r) => (t, .fault num r a 0 true)
    | (t, .poisoned dev) => (t, .fault tPoison 0 a dev true)

/-- Move up to `n` granules from (row, bytes) on: where it stopped, what stopped it, and how many moved. -/
def moveGranules (s : State) (u k : Nat) (d : Desc) (row bytes : Nat) : Nat → State × Nat × Nat × Option Gran × Nat
  | 0 => (s, row, bytes, none, 0)
  | n + 1 =>
    match granRead s u k d ((d.src + row * d.sstride + bytes) % 2 ^ 64) with
    | (t, .fault a b c e f, _) => (t, row, bytes, some (.fault a b c e f), 0)
    | (t, .moved, bs) =>
      match granWrite t u k d ((d.dst + row * d.dstride + bytes) % 2 ^ 64) bs with
      | (t2, .fault a b c e f) => (t2, row, bytes, some (.fault a b c e f), 0)
      | (t2, .moved) =>
        let wrap := decide (d.len ≤ bytes + 64)
        let (t3, r, b, g, m) := moveGranules t2 u k d (if wrap then row + 1 else row) (if wrap then 0 else bytes + 64) n
        (t3, r, b, g, m + 1)

/-- Granules still to move. -/
def granLeft (d : Desc) (row bytes : Nat) : Nat := (d.rows - row) * (d.len / 64) - bytes / 64

/-- Count granules, in units of 1,024. -/
def countGranules (s : State) (u n : Nat) : State :=
  let x := scullAt s u
  let t := x.granules + n
  let s1 := putScull s u { x with granules := t % 1024 }
  if u < 16 then bumpBy s1 .dmaGranCnt u (t / 1024) else s1

/-- The descriptor in progress, as the channel read it when it started or was resumed (R443, R445). -/
def descOf (c : Channel) : Desc := parseDesc c.raw

/-- Before a channel stops it moves what it still moves: up to `n` granules, short of its last one and of any that meets a
fault, and records its progress (R267). -/
def advanceChannel (s : State) (u ch n : Nat) : State :=
  let c := chAt (scullAt s u) ch
  if c.state ≠ 1 then s
  else
    let d := descOf c
    match moveGranules s u (ctxKey u c.ctx) d c.row c.bytes (Nat.min n (granLeft d c.row c.bytes - 1)) with
    | (t, row, bytes, none, m) => putCh (countGranules t u m) u ch { c with row := row, bytes := bytes }
    | _ => s

/-! ## The course of a transfer -/

/-- The transfer of a channel ends: its instruction completes. -/
def endChannel (s : State) (u n : Nat) (p : DWord) : State :=
  let s1 := putCh s u n { Channel.idle with prog := p }
  let s2 := startGos (bindFeeder s1 u) u 8
  match runKey s2 u with
  | some k => reissue s2 u k
  | none => s2

/-- Halt a channel with a fault: PROG, FADDR and the channel trap (R444, R445). -/
def haltChannel (s : State) (u n : Nat) (c : Channel) (num reason addr dev : Nat) (write : Bool) : State :=
  let k := ctxKey u c.ctx
  let p := progWord 3 num c.row c.bytes
  let s1 := writeProg s u k c p (some (if num = tPoison then dev else addr))
  let s2 := putCh s1 u n { c with state := 2, prog := p }
  let q := c.entry.getD ⟨0, c.ctx, 0, 0x20, 0, [], none, none, [], [], true, .dma, true⟩
  addTrap s2 k { blankTrap with
    num := num, kind := .channel, seq := q.seq, chan := n
    details := padDetails (memDetails q.pc addr 8 n write false reason dev c.desc.toNat) }

/-- A descriptor that cannot be read again, or the next one of a chain, halts the channel. -/
def haltDesc (s : State) (u n : Nat) (c : Channel) (g : DescGot) : State :=
  let a := c.desc.toNat
  match g with
  | .xlate r => haltChannel s u n c tXlate r a 0 false
  | .poison dev => haltChannel s u n c tPoison 0 a dev false
  | .misaligned v => haltChannel s u n c tMisaligned 0 v 0 false
  | _ => haltChannel s u n c tIllegal 0 a 0 false

/-- The current descriptor is complete: DONE, then the next of its chain or the end (R444). -/
def finishDesc (s : State) (u n : Nat) (c : Channel) (d : Desc) : State :=
  let k := ctxKey u c.ctx
  let p := progWord 2 0 d.rows 0
  let s1 := writeProg s u k c p none
  if d.chain then
    let c1 := { c with desc := BitVec.ofNat 64 d.next, row := 0, bytes := 0, prog := progWord 1 0 0 0 }
    match readDesc s1 u k d.next true with
    | (t, .ok _ dev) => putCh t u n { c1 with raw := memRead t dev 64 }
    | (t, g) => haltDesc t u n c1 g
  else endChannel s1 u n p

def execDmaComplete (u : Fin 17) (e : ChannelEnd) (s : State) : Host.Outcome State Fault Refusal :=
  let c := chAt (scullAt s u.val) e.ch.val
  let k := ctxKey u.val c.ctx
  if c.state ≠ 1 then unchanged s
  else match moveGranules s u.val k (descOf c) c.row c.bytes (granLeft (descOf c) c.row c.bytes) with
    | (t, _, _, none, n) => .next (finishDesc (countGranules (lossesOf t e.loss) u.val n) u.val e.ch.val c (descOf c))
    | _ => unchanged s

/-- The feeder of a stream scan meets a fault: the channel halts and the scan waits (R372). -/
def feederFault (s : State) (u : Nat) : Host.Outcome State Fault Refusal :=
  match scanKey s u with
  | none => unchanged s
  | some key =>
    match (ctxAt s key).scan with
    | none => unchanged s
    | some k =>
      match (if scStream k.w0 then feedNext k else none) with
      | none => unchanged s
      | some (a, n) =>
        match feedFault s u key a n with
        | none => unchanged s
        | some (at_, num, r, dev) =>
          let s0 := copyGranules s u key a (k.w3.toNat + (k.prog + k.staged) % 3 * (64 * scRP k.w0)) ((at_ - a) / 64)
          let s1 := putCh s0 u 3 { Channel.idle with state := 2, ctx := key % 64, bytes := at_ - a }
          let s2 := match ctxRead s1 u key at_ 64 with
            | (t, _) => t
          .next (scanTrap s2 key k.entry num (memDetails k.entry.pc at_ 9 3 false false r dev 0))

/-- A channel meets a fault: what lies before it is moved (R444, R445). -/
def execDmaGranuleFault (u : Fin 17) (e : ChannelEnd) (s : State) : Host.Outcome State Fault Refusal :=
  let c := chAt (scullAt s u.val) e.ch.val
  let k := ctxKey u.val c.ctx
  if c.state = 4 ∨ (c.state = 0 ∧ e.ch.val = 3 ∧ (scanKey s u.val).isSome) then feederFault s u.val
  else if c.state ≠ 1 then unchanged s
  else match moveGranules s u.val k (descOf c) c.row c.bytes (granLeft (descOf c) c.row c.bytes) with
    | (t, row, bytes, some (.fault num r a dev wrt), n) =>
      .next (haltChannel (countGranules (lossesOf t e.loss) u.val n) u.val e.ch.val { c with row := row, bytes := bytes } num r a dev wrt)
    | _ => unchanged s

/-- The handler returns: a halted channel reads its descriptor again, fields and PROG alike, and goes on or ends (R445).
A feeder goes on with its scan. -/
def resumeChannel (s : State) (u k n : Nat) : State :=
  let c := chAt (scullAt s u) n
  if c.state ≠ 2 || c.ctx ≠ k % 64 || (ctxAt s k).due.any (fun d => d.kind == .channel && d.chan == n) then s
  else match c.entry with
    | none => putCh s u n Channel.idle
    | some _ =>
      match readDesc s u k c.desc.toNat false with
      | (t, .ok d dev) =>
        if d.status = 5 then
          let p := progWord 6 0 d.row d.bytes
          let t1 := writeProg t u k c p none
          endChannel (if u < 16 then flag t1 .dmaSticky u 0 else t1) u n p
        else
          let raw := memRead t dev 64
          putCh t u n { c with state := 1, row := d.row, bytes := d.bytes, prog := progWord 1 0 d.row d.bytes, raw := raw }
      | (t, g) => haltDesc t u n c g

def resumeChannels (s : State) (u k : Nat) : State := forEach [0, 1, 2, 3] (fun n t => resumeChannel t u k n) s

/-! ## The instructions -/

/-- The local ranges of a descriptor and its chain, for the range scoreboard (R250): hulls of the local sources and of the
local destinations. Descriptors are looked at without effect, each once: `seen` holds their device addresses. -/
def goRanges (s : State) (u k : Nat) : Nat → List Nat → Nat → Option (Nat × Nat) × Option (Nat × Nat)
  | 0, _, _ => (none, none)
  | n + 1, seen, va =>
    match walk s (rootOf s (eightOf u) (spaceOf k)) va with
    | (some (x, size), _) =>
      let at_ := leafAddr x size va
      let d := parseDesc (memRead s at_ 64)
      let base := (windowOf s u (k % 64)).1
      let hull (on : Bool) (a stride : Nat) : Option (Nat × Nat) :=
        if on then some (granules (spadAddr u (base + a)) ((d.rows - 1) * stride + d.len)) else none
      let join (p q : Option (Nat × Nat)) : Option (Nat × Nat) :=
        match p, q with
        | some a, some b => some (Nat.min a.1 b.1, Nat.max a.2 b.2)
        | some a, none => some a
        | none, b => b
      let more := if d.chain && !seen.contains at_ then goRanges s u k n (at_ :: seen) d.next else (none, none)
      (join (hull d.srcLocal d.src d.sstride) more.1, join (hull d.dstLocal d.dst d.dstride) more.2)
    | _ => (none, none)

/-- The ranges of a dma.go. A descriptor that chains on holds a byte that memory lists, so that a chain of distinct
descriptors is no longer than the list. -/
def chainRanges (s : State) (u k va : Nat) : Option (Nat × Nat) × Option (Nat × Nat) :=
  goRanges s u k (s.mem.length + 1) [] va

def execDmaGo (u : Fin 17) (w : BitVec 56) (s : State) : Host.Outcome State Fault Refusal :=
  issueOn s u.val 0x20 w (fun t k =>
    engineOp t u.val k 0x20 w (chanOk u.val w && regFields w false true false false false) [iRa w] (fun t c =>
      let a := sGet c (iRa w)
      let (r, d) := chainRanges t u.val k a.val.toNat
      match toEngine t u.val k 0x20 w .dma [rnS c (iRa w)] [] r d [a.val] with
      | .next t2 => .next (startGos t2 u.val 8)
      | o => o))

/-- Whether a channel is idle for a context: nothing of it runs or waits on it. -/
def chanIdle (s : State) (u k n : Nat) : Bool :=
  let x := scullAt s u
  (chAt x n).state == 0 && !x.qDma.any (fun q => goChan q.w == n && q.ctx == k % 64)

def execDmaWait (u : Fin 17) (w : BitVec 56) (s : State) : Host.Outcome State Fault Refusal :=
  issueOn s u.val 0x21 w (fun t k =>
    scalarOp t u.val k 0x21 w (chanOk u.val w && regFields w false false false false false) [] [] (fun t _ =>
      if chanIdle t u.val k (goChan w) then retire t k id else stall t u.val))

def execDmaStat (u : Fin 17) (w : BitVec 56) (s : State) : Host.Outcome State Fault Refusal :=
  issueOn s u.val 0x22 w (fun t k =>
    scalarOp t u.val k 0x22 w (chanOk u.val w && regFields w true false false false false) [] [iRd w] (fun t _ =>
      putScalar t k (iRd w) (chAt (scullAt t u.val) (goChan w)).prog.toNat))

end Sys2Proof.Machine
end

