-- ==== Sys2Proof/Machine/Schuss.lean ====
section
/-! DEFINITION. The schuss path's sch.mv (09_arrays_and_schuss_path.md R298, R299, R308; 10_number_formats.md R318). -/

namespace Sys2Proof.Machine

/-- Fields of fn. -/
def schRows (w : BitVec 56) : Nat := ib w 23 16 + 1
def schCols (w : BitVec 56) : Nat := ib w 15 8 + 1
def schAfmt (w : BitVec 56) : Nat := ib w 7 4
def schWfmt (w : BitVec 56) : Nat := ib w 3 0

def schOk (w : BitVec 56) : Bool :=
  iMinor w == 0 && decide (schAfmt w ≤ 10) && decide (schWfmt w ≤ 10) && pairOk (cellFmt (schAfmt w)) (cellFmt (schWfmt w))
    && (if schAfmt w = 10 then schCols w % 32 == 0 else true)
    && decide (iRb w + (if 128 < schCols w then 1 else 0) < 64) && decide (iRd w + (if 128 < schRows w then 1 else 0) < 64)

/-- Source and destination vector registers. -/
def schSrc (w : BitVec 56) : List Nat := if 128 < schCols w then [iRb w, iRb w + 1] else [iRb w]
def schDst (w : BitVec 56) : List Nat := if 128 < schRows w then [iRd w, iRd w + 1] else [iRd w]
def schBytes (w : BitVec 56) : Nat := fmtBytes (schWfmt w) (schRows w * schCols w)

/-- Scalars read: the base, and Q of a Q24 activation. -/
def schGs (w : BitVec 56) : List Nat := iRa w :: (if schAfmt w = 9 then [iRc w] else [])

/-- The exponents of a BX8 activation and of BX8 weights. -/
def schXExps (w : BitVec 56) (g : DWord) : Option (Nat × Nat) :=
  if schAfmt w = 10 then some (bxAt 0x40 w g 0, schCols w / 32) else none
def schWExps (w : BitVec 56) (g : DWord) : Option (Nat × Nat) :=
  if schWfmt w = 10 then some (bxAt 0x40 w g 1, schRows w * schCols w / 32) else none

def execSchMv (u : Fin 17) (w : BitVec 56) (s : State) : Host.Outcome State Fault Refusal :=
  issueOn s u.val 0x40 w (fun t k =>
    engineOp t u.val k 0x40 w (schOk w) (schGs w) (fun t c =>
      let o := sGet c (iRa w)
      if o.val.toNat % 64 ≠ 0 then misaligned t k 0x40 w o.val.toNat
      else toEngineRanges t u.val k 0x40 w .schuss 6 ((schGs w).map (rnS c) ++ (schSrc w).map rnV) ((schDst w).map rnV)
        (joinOf (some (o.val.toNat, schBytes w)) (joinOf (schXExps w o.val) (schWExps w o.val))) none [o.val, (sGet c (iRc w)).val]))

/-- Piece `j` of a raw integer weight, and its weight. -/
def schInt (af wf i j : Nat) (p : Nat × Nat) : Int := intPiece af i p.1 * intPiece wf j p.2

/-- One output: pieces of the activation outside, of the weight inside, each pass in that order (R318, R320). -/
def schElem (w : BitVec 56) (ea eb : Nat → Nat) (ps : List (Nat × Nat)) : Sum :=
  let af := schAfmt w
  let wf := schWfmt w
  let passes := ((List.range (pieceCount af)).map (fun i => (List.range (pieceCount wf)).map (fun j => (i, j)))).flatten
  if pairInt (cellFmt wf) then
    passes.foldl (fun acc p =>
      satAdd acc ((ps.map (schInt af wf p.1 p.2)).sum * pieceWeight af p.1 * pieceWeight wf p.2)) (sumOf 0)
  else
    let pass (p : Nat × Nat) : Sum :=
      if af = 10 then bxGroup ea eb ps
      else groupSum (pairWidth (cellFmt af) (cellFmt wf)) 0 (ps.map (fun q => (numPiece af p.1 q.1, numPiece wf p.2 q.2)))
    match passes with
    | [] => sumOf 0
    | p :: rest => rest.foldl (fun acc q => sumAdd acc (pass q)) (pass p)

/-- Cycles of R299. -/
def schCycles (w : BitVec 56) : Nat :=
  let b := if [1, 2].contains (cellFmt (schWfmt w)) then 2 else 1
  ceilDiv (schRows w * schCols w * b) 2048 * (pieceCount (schAfmt w) * pieceCount (schWfmt w)) + 6

/-- Whether a granule that row `r` reads holds poison. -/
def schRowPoison (s : State) (u k : Nat) (w : BitVec 56) (o r : Nat) : Bool :=
  let bits := fmtBits (schWfmt w)
  let a := o + r * schCols w * bits / 8
  let e := o + ((r + 1) * schCols w * bits + 7) / 8
  let hit (a n : Nat) : Bool :=
    let g := granules a n
    match localAddr s u (k % 64) a n with
    | some d => poisonIn s (d - a + g.1) (g.2 - g.1)
    | none => false
  hit a (e - a) || (match schWExps w (BitVec.ofNat 64 o) with
    | some (b, _) => hit (b + r * (schCols w / 32)) (schCols w / 32)
    | none => false)

/-- The end of a sch.mv. The Q of a Q24 activation scales a value by a power of two that an integer result does not
carry (R318). -/
def runSchMv (s : State) (u k : Nat) (q : QEntry) (err : EngineErr) : State :=
  let w := q.w
  let c := ctxAt s k
  let o := argOf q 0
  let g := q.args.getD 0 0
  match rangesPoison s u k [schXExps w g] with
  | some (at_, dev) => engPoison s k q 6 at_ dev
  | none =>
  if (schSrc w).any (fun n => (vAll c n).any (·.poison)) then engPoison s k q 6 0 0
  else
    let ea := bxExps s u k (schXExps w g)
    let eb := bxExps s u k (schWExps w g)
    let bytes := localBytes s u k o (schBytes w)
    let xs := (List.range (schCols w)).map (fun i => (vGet c (iRb w + i / 128) (i % 128)).val.toNat)
    let out (r : Nat) : Sum :=
      schElem w (fun b => ea.getD b 0) (fun b => eb.getD (r * (schCols w / 32) + b) 0) ((List.range (schCols w)).map (fun i => (xs.getD i 0, rawElem (schWfmt w) bytes (r * schCols w + i))))
    let l := (List.range (schRows w)).map (fun r => (r, out r, schRowPoison s u k w o r))
    let isInt := pairInt (cellFmt (schWfmt w))
    let s1 := deadRead s u ((schSrc w).any (fun n => !vLive c n))
    let s2 := updCtx s1 k (fun c =>
      l.foldl (fun c e => vPut1 c (iRd w + e.1 / 128) (e.1 % 128) ⟨BitVec.ofNat 32 e.2.1.bits, e.2.2⟩) c)
    let s3 := bumpBy s2 .schCyc u (schCycles w + err.bankLost)
    let s4 := if l.any (·.2.2) then flag s3 .schSticky u 0 else s3
    let s5 := if isInt then satAcc s4 u ((l.map (fun e => e.2.1.sats)).sum) else infOut s4 u (l.any (fun e => e.2.1.inf))
    let nans := if isInt then [] else l.filter (fun e => isNan e.2.1.bits && !e.2.2)
    match nans.head? with
    | none => s5
    | some (r, v, _) => nanWritten s5 u k q nans.length ⟨1, 0, v.kind, r % 128, r / 128, v.bits⟩

end Sys2Proof.Machine
end

