-- ==== Sys2Proof/Machine/Engines.lean ====
section
/-! DEFINITION. Completion of engine instructions and the context switch (08_scull.md R246, R263, R267, R275;
14_memory_translation_dma.md R447, R449). -/

namespace Sys2Proof.Machine

/-- What an instruction does when its engine completes it: the state, and the code that fences the scull, if one does. -/
def runEntry (s : State) (u k : Nat) (q : QEntry) (err : EngineErr) : State × Option Nat :=
  let fence (code : Nat) (r : State × Bool) : State × Option Nat := (r.1, if r.2 then some code else none)
  match q.major with
  | 0x30 => fence cArrayFault (runMm s u k q err)
  | 0x31 => (runWld s u k q, none)
  | 0x32 => (runSwp s u k q, none)
  | 0x33 => (runTLd s u k q, none)
  | 0x34 => (runTSt s u k q, none)
  | 0x35 => (runTClr s k q, none)
  | 0x40 => (runSchMv s u k q err, none)
  | 0x50 => (runValu s u k q err, none)
  | 0x51 => (runVfma s u k q err, none)
  | 0x52 => (runVld s u k q, none)
  | 0x53 => (runVst s u k q err, none)
  | 0x54 => (runVcvt s u k q err, none)
  | 0x55 => (runVamax s u k q, none)
  | 0x56 => (runVrel s k q, none)
  | 0x60 => fence cSfuFault (runSfu s u k q err)
  | 0x61 => fence cSfuFault (runVstat s u k q err)
  | 0x62 => fence cSfuFault (runVmaxr s u k q err)
  | 0x63 => fence cSfuFault (runVexps s u k q err)
  | 0x64 => fence cSfuFault (runVcorr s u k q err)
  | 0x71 => (runScnLd s u k q, none)
  | 0x72 => (runScnSt s u k q, none)
  | 0x73 => (runCRel s k q, none)
  | 0x80 => (runMvVc s u k q, none)
  | 0x81 => (runMvCv s u k q, none)
  | 0x82 => (runMvGv s k q, none)
  | 0x83 => (runMvVg s u k q err, none)
  | _ => (s, none)

/-- The fetch of the first tile instruction's activation block ends: the cycles waited were bubbles (R292), the elements
were read (R275), and the instruction starts (R291). -/
def blockFetched (s : State) (u : Nat) (err : EngineErr) : State :=
  match (scullAt s u).qArray with
  | [] => s
  | q :: _ =>
    if stopping s u || !live s u then s
    else
      let s1 := parityHit (bumpBy (runLost s u err) .arrBubble u err.bubbles) u (ctxKey u q.ctx) q err.regParity
      startMm (shadowHit s1 u err.shadowRow) u

/-- An engine completes its running instruction; the results become visible and the next one starts (R246). DMA
transfers and scans end at events of their own. For a tile instruction that waits for its activation block it is the fetch
that completes (assumption 126). -/
def execEngineComplete (sc : Fin 16) (e : Engine) (err : EngineErr) (s : State) : Host.Outcome State Fault Refusal :=
  let u := sc.val
  match queueOf (scullAt s u) e with
  | [] => unchanged s
  | q :: _ =>
    if e = .dma then .next (startGos s u 8)
    else if awaitsBlock q && !q.started then .next (blockFetched s u err)
    else if !q.started || q.major == 0x70 || !live s u then unchanged s
    else
      let k := ctxKey u q.ctx
      let s1 := if awaitsBlock q then s else parityHit s u k q err.regParity
      let (t, code) := runEntry (shadowHit (runLost s1 u err) u err.shadowRow) u k q err
      let t1 := popQueue t u e
      let t2 := if e = .array ∧ err.fed then startMm t1 u else t1
      match code with
      | some c => .next (fenceScull t2 u c none)
      | none => .next t2

/-! ## Switching contexts (R267, R447) -/

/-- Every engine of the scull has reached its pre-emption point. -/
def enginesStopped (s : State) (u : Nat) : Bool :=
  let x := scullAt s u
  !(x.qArray ++ x.qSchuss ++ x.qVector ++ x.qScan).any (·.started) && (scanKey s u).isNone

/-- What waits in the queues for context `c`, in issue order. -/
def waiting (x : Scull) (c : Nat) : List QEntry :=
  ((allEngines.map (queueOf x)).flatten.filter (fun q => q.ctx == c)).foldl place []
where
  place (l : List QEntry) (q : QEntry) : List QEntry :=
    match l with
    | [] => [q]
    | y :: ys => if q.seq < y.seq then q :: y :: ys else y :: place ys q

/-- Put a context away: its channels stop, its queued instructions are saved, its step waits to resume. -/
def switchOut (s : State) (u c : Nat) : State :=
  let k := ctxKey u c
  let s1 := saveChannels s u k
  let x := scullAt s1 u
  let keep (q : QEntry) : Bool := q.ctx != c
  let y : Scull :=
    { x with
      running := none, preempting := false
      qArray := x.qArray.filter keep, qSchuss := x.qSchuss.filter keep, qVector := x.qVector.filter keep
      qScan := x.qScan.filter keep, qDma := x.qDma.filter keep }
  let s2 := updCtx (putScull s1 u y) k (fun d => { d with saved := waiting x c })
  match (ctxAt s k).step with
  | none => s2
  | some st =>
    let order := match schedOf s st.inst with
      | some d => d.order
      | none => 0
    let cls := (clsOf s st.inst).getD .trend
    let r : Ready := ⟨st.inst, c, cls, st.kind, order, st.stroke, (ctxAt s k).pc.toNat, true, (ctxAt s k).suspended⟩
    updScull s2 u (fun z => { z with ready := z.ready ++ [r] })

/-- The DMA channels of a context stop, each after the granules that `moved` gives it. -/
def advanceChannels (s : State) (u c : Nat) (moved : List Nat) : State :=
  forEach [0, 1, 2, 3] (fun n t => if (chAt (scullAt t u) n).ctx = c then advanceChannel t u n (moved.getD n 0) else t) s

/-- The switch: the outgoing context is saved, and what is to run next starts; a pre-empted step resumes by
CONTEXT_RESUME when nothing of a higher class is ready. `moved` says how far each DMA channel gets before it stops. -/
def switchContext (s : State) (u : Nat) (moved : List Nat) : State :=
  match (scullAt s u).running with
  | none => s
  | some c => if (scullAt s u).preempting && enginesStopped s u then
      startBest (switchOut (advanceChannels s u c moved) u c) u
    else s

end Sys2Proof.Machine
end

