-- ==== Sys2Proof/Machine/Traps.lean ====
section
/-! DEFINITION. Taking a trap and returning from one (13_instruction_set.md R408 to R412, R417 to R419), context faults
(R411, R606) and their restart (R222, R441), and poison in a save area (R453). -/

namespace Sys2Proof.Machine

/-! ## Context faults -/

/-- RESULTS of the notice: SEQ_TREC_H and D0 to D4 (R411). -/
def faultResults (c : Ctx) : List Byte :=
  bytesOf 8 c.trecH.toNat ++ ((c.trecD.take 5).map (fun d => bytesOf 8 d.toNat)).flatten

/-- A context fault of the stern core: Cox restarts it at the next catch, but for the fourth halt within 60 s, and while
Cox is halted (R240, R606). -/
def sternHalt (s : State) (code : Nat) : State :=
  let recent := (s.sternFaults.filter (fun t => decide (s.now < t + 60000000000))) ++ [s.now]
  let stay := coxHalted s || decide (4 ≤ recent.length)
  let s1 := updCtx s (ctxKey 16 0) (fun x => { x with halt := .fault code, held := [], saved := [], savedCh := [], due := [], waitDone := false })
  let s2 := { s1 with sternFaults := recent, sternRestart := !stay }
  if stay then raiseNow s2 cSternHalt scDevice 0 else s2

/-- A context fault in an ENTRY run rolls a changeover back (R567, R568). -/
def entryFault (s : State) (k code : Nat) : State :=
  let entry := match (ctxAt s k).step with
    | some st => st.kind == .entry
    | none => false
  if entry && s.chg.active && s.chg.staged && s.chg.rollbackAt.isNone then
    reopenAll (wrf { s with chg := { s.chg with cause := code, rollbackAt := some (strokeNat s + 2) } } .chgStat 0 31 29 6)
  else s

/-- A trap that goes to Cox (R411): the context halts, a notice is posted, and the trap's code is raised. -/
def contextFault (s : State) (k code : Nat) : State :=
  let c := ctxAt s k
  let n : Notice := ⟨0x8000 + code, code, idOfKey k, faultResults c⟩
  let s1 := entryFault (raise s code scContext (idOfKey k) c.trecH) k code
  notice (if k / 64 = 16 then sternHalt s1 code else haltContext s1 (k % 64) code) n

/-! ## Trap entry (R408) -/

/-- Put an instruction at its own issue position. -/
def insertSeq (q : QEntry) : List QEntry → List QEntry
  | [] => [q]
  | x :: xs => if q.seq < x.seq then q :: x :: xs else x :: insertSeq q xs

/-- What is queued on a scull for context `c` and not started, in issue order. -/
def notStarted (x : Scull) (c : Nat) : List QEntry :=
  ((allEngines.map (queueOf x)).flatten.filter (fun q => q.ctx == c && !q.started)).foldl (fun l q => insertSeq q l) []

/-- Take those instructions off the queues. -/
def dropUnstarted (x : Scull) (c : Nat) : Scull :=
  let keep (q : QEntry) : Bool := q.ctx != c || q.started
  { x with
    qArray := x.qArray.filter keep, qSchuss := x.qSchuss.filter keep, qVector := x.qVector.filter keep
    qScan := x.qScan.filter keep, qDma := x.qDma.filter keep }

/-- Step 3: the held set, in issue order. -/
def holdAll (s : State) (u k : Nat) (d : DueTrap) : State :=
  let x := scullAt s u
  let more := notStarted x (k % 64) ++ d.again.toList
  updCtx (updScull s u (fun y => dropUnstarted y (k % 64))) k (fun c => { c with held := more.foldl (fun l q => insertSeq q l) c.held })

/-- Steps 4 and 5: the record, and the handler's PC. Issue traps and traps of the instruction at the PC that are not
taken are raised again when it is retried (R417). -/
def writeRecord (c : Ctx) (d : DueTrap) : Ctx :=
  let rpc := (d.rpc.getD c.pc).toNat % 2 ^ 48
  { c with trecH := BitVec.ofNat 64 (d.num * 2 ^ 56 + rpc), trecD := d.details.take 7 }

def enterHandler (c : Ctx) (d : DueTrap) : Ctx :=
  { writeRecord c d with
    tw := true, hd := 0, entrySeq := c.seqNo, pc := BitVec.ofNat 64 (c.tvec.toNat + 64 * d.num)
    due := (c.due.erase d).filter (fun e => e.kind == .channel || decide (e.seq < c.seqNo)) }

/-- Traps of the Cox column of R407. -/
def toCox (n : Nat) : Bool := n == tSpadRange || n == tXlate || n == tExhausted || n == tSpill || n == tDouble

/-- The trap as it is taken: with TW = 1 it is DOUBLE_TRAP, but for a failed hardware spill or fill (R406, R412). -/
def asTaken (c : Ctx) (d : DueTrap) : DueTrap :=
  if c.tw && d.num != tExhausted && d.num != tSpill then
    { d with num := tDouble, details := padDetails [d.details.headD 0, BitVec.ofNat 64 d.num] }
  else d

/-- Step 2 is over: no instruction of the array group or the vector engine runs. -/
def entryReady (s : State) (u : Nat) : Bool :=
  u == sternUnit || (!(scullAt s u).preempting && !((scullAt s u).qArray ++ (scullAt s u).qVector).any (·.started))

/-- The trap that is due is entered, once the engines of step 2 have stopped. -/
def enterTrap (s : State) (u k : Nat) : State :=
  match nextTrap (ctxAt s k) with
  | none => s
  | some d =>
    if (ctxAt s k).halt != .none || !entryReady s u then s
    else
      let t := asTaken (ctxAt s k) d
      let s1 := if u < 16 then countRun s .seqTraps u else s
      if toCox t.num || (ctxAt s k).tvec == 0 then
        let s2 := if t.num = tDouble && u < 16 then flag s .seqSticky u 2 else s
        contextFault (updCtx s2 k (fun c => writeRecord c t)) k t.num
      else updCtx (holdAll s1 u k t) k (fun c => enterHandler c t)

/-- Mark a scalar register as poisoned, its bits as they are. -/
def poisonScalar (c : Ctx) (n : Nat) : Ctx :=
  if n < 16 then { c with g := Tab.set id sDefault n { Tab.get sDefault c.g n with poison := true } c.g }
  else { c with win := Tab.set id sDefault (n - 16) { Tab.get sDefault c.win (n - 16) with poison := true } c.win }

/-- A parity error in the running context's registers (R420): a scalar is delivered as poison, a control register makes a
context fault. -/
def seqParity (s : State) (k : Nat) (e : SeqParity) : State :=
  match e with
  | .scalar n => updCtx s k (fun c => poisonScalar c n.val)
  | .control =>
    if (ctxAt s k).halt != .none then s
    else contextFault (updCtx s k (fun c => writeRecord c { blankTrap with num := tPoison, details := padDetails [] })) k tPoison

/-- TRAP_ENTRY: what the sequencer does with the trap that is due, or with a parity error it has met. -/
def execTrapEntry (u : Fin 17) (err : Option SeqParity) (s : State) : Host.Outcome State Fault Refusal :=
  match runKey s u.val with
  | none => unchanged s
  | some k =>
    match err with
    | none => .next (enterTrap s u.val k)
    | some e => .next (seqParity s k e)

/-! ## Switch and resumption (R447, R453, R460) -/

/-- `t` is `s` after scull `u` has loaded a context: poison in the fixed part of its save area is a context fault (R453). A
context that never ran has nothing to restore. -/
def restored (s t : State) (u : Nat) (poison : Bool) : State :=
  match (scullAt t u).running with
  | some c =>
    if poison && (scullAt s u).running != some c && (ctxAt s (ctxKey u c)).released then seqParity t (ctxKey u c) .control else t
  | none => t

def execContextSwitch (e : Switch) (s : State) : Host.Outcome State Fault Refusal :=
  .next (restored s (switchContext s e.scull.val e.moved) e.scull.val e.poison)

def execContextResume (e : Resumption) (s : State) : Host.Outcome State Fault Refusal :=
  .next (restored s (resumeBest s e.scull.val) e.scull.val e.poison)

/-! ## rett (R409) -/

/-- Leave the handler: the held set is issued again before anything else, then RPC; halted channels and an interrupted
scan go on (R372, R378, R445). -/
def leaveHandler (c : Ctx) : Ctx := { c with tw := false, pc := BitVec.ofNat 64 (c.trecH.toNat % 2 ^ 48), seqNo := c.seqNo + 1 }

def doRett (s : State) (u k : Nat) (w : BitVec 56) : Host.Outcome State Fault Refusal :=
  let c := ctxAt s k
  if c.trecH.toNat % 8 ≠ 0 then misaligned s k 0x14 w (c.trecH.toNat % 2 ^ 48)
  else .next (startGos (bindFeeder (resumeScan (resumeChannels (reissue (updCtx s k leaveHandler) u k) u k) k) u) u 8)

def execRett (u : Fin 17) (w : BitVec 56) (s : State) : Host.Outcome State Fault Refusal :=
  issueOn s u.val 0x14 w (fun t k =>
    let c := ctxAt t k
    scalarOp t u.val k 0x14 w (iMinor w == 0 && ib w 47 0 == 0 && c.tw && c.hd == 0) [] [] (fun t _ =>
      if c.live = 0 then
        match fillFrame t u.val k with
        | (t2, .done) => doRett (hwCount t2 u.val) u.val k w
        | (t2, r) => spillTrap t2 k r
      else doRett t u.val k w))

/-! ## CTX_RESTART (R222, R239, R441) -/

/-- Bytes of the writable CREW regions of a context. -/
def writableLen (s : State) (c : Nat) : Nat :=
  (((image s).crew.filter (fun r => r.context == c && r.attr / 2 % 2 == 1)).map (·.len)).sum

def execCtxRestart (s : State) : Host.Outcome State Fault Refusal :=
  .next (serve s svCtxRestart (fun m =>
    let c := reqField s m 8 1
    if 64 ≤ c then answer s m cBadArg []
    else if !ctxFaulted s c then answer s m cWrongState []
    else startLong s m (1000000 + ceilDiv (writableLen s c) 1048576 * 16000) 0 []))

/-- Reload the writable CREW regions of an address space from the image, and rewrite its page tables. -/
def reloadCrew (s : State) (c : Nat) : State :=
  let g := image s
  let mine := g.crew.zipIdx.filter (fun e => e.1.context == c)
  let s1 := forEach (mine.filter (fun e => e.1.attr / 2 % 2 == 1)) (fun e t =>
    match t.allot.find? (fun a => a.ctx == c && a.vaddr == e.1.vaddr / 65536 * 65536) with
    | some a => memWrite t (a.paddr + e.1.vaddr % 65536) (slice e.1.bytes 0 e.1.len)
    | none => t) s
  buildTables s1 g c

/-- The end of CTX_RESTART: the context has its regions again and waits for the next catch. -/
def endRestart (s : State) (l : LongService) : State :=
  let c := field l.args 8 1
  let s1 := reloadCrew s c
  let owned := (List.range 15).filter (fun m => mbState s1 m != 0 && mbOwner s1 m == c)
  let s2 := forEach owned (fun m t => mbFree t m) s1
  endLong { s2 with restarts := s2.restarts ++ [c] } l 0 []

/-- The context starts anew: windows, tiles, carry registers and control registers as at a first release (R222, R421). -/
def restartContext (s : State) (c : Nat) : State :=
  let s1 := forEach (unitsOf s c) (fun u t => putCtx (clearUnit t u c) (ctxKey u c) Ctx.reset) s
  releaseEntry s1 c

/-- At a catch: the contexts and the stern core that restart (R222, R606). -/
def catchRestarts (s : State) : State :=
  let s1 := forEach s.restarts (fun c t => restartContext t c) { s with restarts := [] }
  if s1.sternRestart && !coxHalted s1 then
    let e := (image s1).crew.find? (fun r => r.context == 64 && r.attr / 4 % 2 == 1)
    let pc := match e with
      | some r => r.vaddr
      | none => 0
    let s2 := putCtx (clearUnit (reloadCrew s1 64) 16 0) (ctxKey 16 0) { Ctx.reset with released := true, pc := BitVec.ofNat 64 pc }
    { s2 with sternRestart := false }
  else s1

end Sys2Proof.Machine
end

