-- ==== Sys2Proof/Machine/Changeover.lean ====
section
/-! DEFINITION. Changeover (18_changeover.md): requests, comparison and crossover admission, staging, switch groups and
their edges, the sense switch edge, retune, commit and rollback. -/

namespace Sys2Proof.Machine

/-! ## Registers and results (R553) -/

def chgPhase (s : State) : Nat := rdf s .chgStat 0 31 29
def setChgPhase (s : State) (p : Nat) : State := wrf s .chgStat 0 31 29 p

/-- RESULTS of the answer and of the notice. -/
def chgResults (s : State) (outcome : Nat) : List Byte :=
  bytesOf 2 outcome ++ bytesOf 2 s.chg.cause ++ bytesOf 2 s.chg.groups.length ++ bytesOf 2 0
    ++ bytesOf 4 (s.chg.firstEdge % 2 ^ 32) ++ bytesOf 4 (strokeNat s % 2 ^ 32)

/-- No instance runs in a new epoch. -/
def clearStatus (s : State) : State := forEach (List.range 8) (fun i t => wr t .chgStatus i 0) s

/-- The changeover ends: idle, RESULT, and the answer and the notice of its outcome; a halted Cox gives neither. -/
def endChg (s : State) (status outcome : Nat) : State :=
  let res := chgResults s outcome
  let s1 := clearStatus (wrf (setChgPhase s 0) .chgStat 0 15 0 s.chg.cause)
  let s2 := { s1 with chg := { Changeover.idle with retuning := s.chg.retuning }, targetKey := none }
  if coxHalted s then s2
  else match s2.long with
    | some l =>
      if l.service = svChgStart then endLong s2 l status res
      else notice s2 ⟨0x8000 + svChgStart, status, reqId .cox, res⟩
    | none => notice s2 ⟨0x8000 + svChgStart, status, reqId .cox, res⟩

/-- Raise a code of changeover scope; DETAIL is CHG_STAT (R599). -/
def raiseChg (s : State) (code : Nat) : State :=
  raise s code scChangeover s.chg.slot ((rd s .chgStat 0).zeroExtend 64)

/-- A refusal after the request was taken (R554, R555). -/
def refuseChg (s : State) (code : Nat) : State :=
  let s1 := wrf { s with chg := { s.chg with cause := code } } .chgStat 0 15 0 code
  endChg (raiseChg s1 code) code 1

/-- The target slot fails a check (R171, R174, R180). -/
def failTarget (s : State) (f : SlotFail) : State :=
  let w := BitVec.ofNat 32 (f.step % 16 * 2 ^ 28 + f.sect % 1024 * 2 ^ 16 + f.code % 2 ^ 16)
  let s1 := wr { s with chg := { s.chg with cause := f.code } } .imgFail s.chg.slot w
  let s2 := raise (wrf s1 .chgStat 0 15 0 f.code) f.code scSlot s.chg.slot (w.zeroExtend 64)
  endChg s2 f.code 1

/-! ## Requests (R552, R553, R569) -/

/-- The time an image of `len` bytes takes to read at 380 MB/s, in ns. -/
def readNs (len : Nat) : Nat := ceilDiv (len * 1000) 380

/-- Begin to verify the target. Until its IMAGE_LEN is read the bound counts a whole slot (assumption 35). -/
def beginChg (s : State) (slot : Nat) (checkOnly : Bool) (m : Option Nat) : State :=
  let c : Changeover := { Changeover.idle with
    active := true, checkOnly := checkOnly, mailbox := m, slot := slot, since := s.now
    bound := readNs (slotLen s.flash) + 50000000 }
  wrf (wr { s with chg := c } .chgStat 0 (BitVec.ofNat 32 (2 ^ 29 + slot * 2 ^ 28))) .chgBound 0 23 0 0

/-- CHG_START. -/
def execChgStart (s : State) : Host.Outcome State Fault Refusal :=
  .next (serve s svChgStart (fun m =>
    let slot := reqField s m 8 1
    let flags := reqField s m 9 1
    if s.long.isSome || s.chg.active then
      match s.long with
      | some _ => startLong s m 0 0 []
      | none => respond { s with taken := none } m cRetryAfter (strokesOf s (s.chg.since + s.chg.bound + chgPaused s - s.now)) []
    else if 1 < slot || slot = slotInForce s || 1 < flags then answer s m cBadArg []
    else
      let t := beginChg s slot (flags == 1) (some m)
      startLong t m t.chg.bound 0 []))

/-- The CHG_REQ pin, high for 1 ms (R202, R552). -/
def execChgReqPin (s : State) : Host.Outcome State Fault Refusal :=
  if !s.run then .next (flag s .pwrSticky 0 4)
  else if !rdb s .chgCfg 0 0 || s.chg.active || coxHalted s then .next (flag s .chgSticky 0 0)
  else .next (beginChg s (1 - slotInForce s) false none)

/-! ## Comparison (R554) -/

/-- The set of instances with class and context. -/
def instSet (g : Image) : List (Nat × Class × Nat) := g.models.map (fun m => (m.inst, m.cls, m.ctx))
def sameSet {α : Type} [DecidableEq α] (a b : List α) : Bool := a.all (fun x => b.contains x) && b.all (fun x => a.contains x)

/-- SNS_MCLK, and EN and AXL of every channel. -/
def sameWiring (t u : State) : Bool :=
  rd t .snsMclk 0 == rd u .snsMclk 0
    && (List.range 64).all (fun c => chanOn t c == chanOn u c)
    && (List.range 48).all (fun c => rdf t .snsModCfg c 28 24 == rdf u .snsModCfg c 28 24)

/-- The fixed configuration. -/
def sameFixed (s : State) (g : Image) : Bool :=
  let o := image s
  o.axisList == g.axisList && o.axis == g.axis && sameWiring (configured s o) (configured s g)
    && o.oplList == g.oplList && o.chans == g.chans && o.exclude == g.exclude && sameSet (instSet o) (instSet g)

/-! ## Switch groups (R557) -/

/-- Whether a channel's settings differ between two configurations. -/
def chanChanged (t u : State) (c : Nat) : Bool :=
  if isMod c then rd t .snsModCfg c != rd u .snsModCfg c || rd t .snsModOfs c != rd u .snsModOfs c
  else if isAe c then rd t .snsAeCfg (c - 48) != rd u .snsAeCfg (c - 48) || rd t .snsAeRate 0 != rd u .snsAeRate 0
  else rd t .snsVibCfg (c - 56) != rd u .snsVibCfg (c - 56) || rd t .snsVibRate 0 != rd u .snsVibRate 0

/-- The enabled channels whose settings change. -/
def changedChans (s : State) (g : Image) : List Nat :=
  let t := configured s (image s)
  let u := configured s g
  (List.range 64).filter (fun c => chanOn u c && chanChanged t u c)

/-- Whether an instance reads a channel in one of two images. -/
def reads (o g : Image) (i c : Nat) : Bool :=
  (o.sense ++ g.sense).any (fun e => e.inst == i && e.chan == c)
    || (o.layers ++ g.layers).any (fun l => l.inst == i && l.src == 0 && l.chans.contains c)

/-- Two instances must switch together. -/
def tied (o g : Image) (cs : List Nat) (i j : Nat) : Bool :=
  let ctx (k : Nat) : Option Nat := (modelIn o k).map (·.ctx)
  i == j || ctx i == ctx j || cs.any (fun c => reads o g i c && reads o g j c)

/-- All instances tied to a set, step by step; `fuel` bounds the steps. -/
def closeGroup (o g : Image) (cs all : List Nat) : Nat → List Nat → List Nat
  | 0, l => l
  | f + 1, l => closeGroup o g cs all f (all.filter (fun j => l.any (fun i => tied o g cs i j)))

/-- The groups, by their lowest instance; `fuel` bounds their number. -/
def groupsOf (o g : Image) (cs all : List Nat) : Nat → List Nat → List (List Nat)
  | 0, _ => []
  | _ + 1, [] => []
  | f + 1, i :: is =>
    let grp := closeGroup o g cs all all.length [i]
    grp :: groupsOf o g cs all f (is.filter (fun j => !grp.contains j))

/-- The switch groups of a changeover to image `g`. -/
def chgGroups (s : State) (g : Image) : List (List Nat) :=
  let all := inOrder (instances s)
  groupsOf (image s) g (changedChans s g) all all.length all

/-! ## Crossover admission (R555, R560, R570) -/

/-- The state in which the target image is judged: its own lists and regions, on the sculls and banks in force. -/
def targetState (s : State) (g : Image) : State :=
  let c := configured s g
  let c1 := forEach [0, 1, 2, 3] (fun b t => wr t .rfxBankStat b (rd s .rfxBankStat b)) (wr c .idScullLive 0 (rd s .idScullLive 0))
  { c1 with img := some g, insts := [], allot := allotsOf g }

/-- The image in force with every budget at the larger of old and new. -/
def largerBudgets (o g : Image) : Image :=
  { o with sched := o.sched.map (fun e =>
      match g.sched.find? (fun x => x.inst == e.inst) with
      | some x => { e with
          budget := Nat.max e.budget x.budget, reserve := Nat.max e.reserve x.reserve, coastNs := Nat.max e.coastNs x.coastNs }
      | none => e) }

/-- Each instance on the union of its old and new sculls. -/
def unionPlaces (s : State) (ps : List Placed) : List Placed :=
  ps.map (fun p => { p with mask := p.mask ||| maskOf s p.inst })

/-- The budgets of the crossover. -/
def crossBudgets (s : State) (g : Image) (ps : List Placed) : Bool :=
  let t := targetState s g
  let u := { s with img := some (largerBudgets (image s) g) }
  allPlaced t ps && admitRest t && (List.range 16).all (fun k => !live s k || scullFits u (unionPlaces s ps) k)

/-- Windows, save areas and code of the target beside the old ones, and its staged regions. -/
def crossSpace (s : State) (g : Image) (ps : List Placed) : Bool :=
  let t := takePlaces (targetState s g) ps
  memoryFits t && (List.range 16).all (fun u =>
    decide (spadUse s u + spadUse t u ≤ spadLen) && decide (imemOf s u + imemOf t u ≤ 131072))

/-- A slot whose contents stay (R560). -/
def slotKept (o g : Image) (i k : Nat) : Option Nat :=
  match (modelIn o i).bind (fun m => m.slots[k]?), (modelIn g i).bind (fun m => m.slots[k]?) with
  | some a, some b =>
    if a.len = b.len && !g.carry.any (fun e => e.inst == i && e.slot == k) then some a.len else none
  | _, _ => none

/-- The copy time of a REFLEX or STROKE group. -/
def copyFits (s : State) (g : Image) (is : List Nat) : Bool :=
  let o := image s
  let bound := is.any (fun i => clsOf s i == some .reflex || clsOf s i == some .stroke)
  let kept := (is.map (fun i => (List.range 64).filterMap (slotKept o g i))).flatten
  !bound || decide (2 * (kept.map (fun n => 60 * 128 + n)).sum ≤ (periodNs s - finishNs s) * 128)

/-- The first refusal of comparison and admission. -/
def crossRefusal (s : State) (g : Image) : Option Nat :=
  let ps := placeAll (targetState s g)
  if !sameFixed s g then some cChgFixed
  else if !crossBudgets s g ps then some cChgAdmit
  else if !crossSpace s g ps then some cChgSpace
  else if !(chgGroups s g).all (copyFits s g) then some cChgAdmit
  else none

/-! ## Verification and the bound (R554, R565) -/

/-- Steps 1 to 4, the COX comparison, and step 7 (R174). -/
def verifyTarget (s : State) : SlotFail ⊕ Image :=
  match verifyHeader s s.chg.slot with
  | .inl f => .inl f
  | .inr g =>
    let (i, _, d) := coxSectionOf s g
    if d ≠ (image s).cox then .inl ⟨0, cChgCox, i⟩
    else readImage s (kekOf s) { g with cox := d, vsvn := (image s).vsvn }

/-- Banks whose LAYER or WAX entry changes. -/
def changedBanks (o g : Image) : List Nat :=
  allBanks.filter (fun b =>
    o.layers.find? (fun l => l.bank == b) != g.layers.find? (fun l => l.bank == b)
      || o.waxes.find? (fun w => w.bank == b) != g.waxes.find? (fun w => w.bank == b))

/-- T_CHG in ns. -/
def chgBoundNs (s : State) (g : Image) (groups : Nat) : Nat :=
  let w := ((g.models.filter (fun m => m.cls == .guard || m.cls == .trend)).filterMap (fun m =>
    (g.sched.find? (fun e => e.inst == m.inst)).map (·.limit))).foldl Nat.max 0
  readNs g.imageLen + 50000000 + (groups + 1) * periodNs s + w + (changedBanks (image s) g).length * 1000000

/-- The verify phase ends: the target failed a check, or it is compared next; a read that timed out has ended it already
(R179, R180). -/
def chgVerified (s : State) : State :=
  match verifyTarget s with
  | .inl f => if f.code = cChgCox then refuseChg s cChgCox else failTarget s f
  | .inr g => setChgPhase { s with chg := { s.chg with target := some g }, targetKey := contentKeyOf (kekOf s) g } 2

/-- Comparison and admission end: a refusal, the end of a CHECK_ONLY request, or staging begins. -/
def chgCompared (s : State) : State :=
  match s.chg.target with
  | none => s
  | some g =>
    match crossRefusal s g with
    | some c => refuseChg s c
    | none =>
      if s.chg.checkOnly then endChg s 0 2
      else
        let gs := chgGroups s g
        let b := chgBoundNs s g gs.length
        let c : Changeover := { s.chg with
          bound := b, groups := gs.map (fun l => ⟨l, 0, false, false⟩), place := placeAll (targetState s g)
          oldPlace := placements s, old := s.img }
        let long := s.long.map (fun l => if l.service = svChgStart then { l with since := c.since, bound := b } else l)
        setChgPhase (wrf { s with chg := c, long := long } .chgBound 0 23 0 (Nat.min (ceilDiv b 1000000) (2 ^ 24 - 1))) 3

/-! ## Switching one group (R556, R558 to R564) -/

/-- The contexts of a group. -/
def ctxsOfGroup (s : State) (is : List Nat) : List Nat := (List.range 64).filter (fun c => is.any (fun i => ctxOfInst s i == c))

/-- The image in force with the entries of a group taken from `src`. -/
def mergeImage (cur src : Image) (is cs : List Nat) : Image :=
  let mine (i : Nat) : Bool := is.contains i
  let banks := ((cur.layers ++ src.layers).filter (fun l => mine l.inst)).map (·.bank)
  { cur with
    models := cur.models.map (fun m => if mine m.inst then (modelIn src m.inst).getD m else m)
    sched := cur.sched.map (fun e => if mine e.inst then (src.sched.find? (fun x => x.inst == e.inst)).getD e else e)
    crew := cur.crew.filter (fun r => !cs.contains r.context) ++ src.crew.filter (fun r => cs.contains r.context)
    sense := cur.sense.filter (fun e => !mine e.inst) ++ src.sense.filter (fun e => mine e.inst)
    carry := cur.carry.filter (fun e => !mine e.inst) ++ src.carry.filter (fun e => mine e.inst)
    layers := cur.layers.filter (fun l => !mine l.inst) ++ src.layers.filter (fun l => mine l.inst)
    waxes := cur.waxes.filter (fun w => !banks.contains w.bank) ++ src.waxes.filter (fun w => banks.contains w.bank) }

/-- The windows of a context as (scull, context, base, length). -/
def windowsOf (s : State) (c : Nat) : List (Nat × Nat × Nat × Nat) :=
  (List.range 16).filterMap (fun u =>
    ((scullAt s u).windows.find? (fun e => e.1 == c)).map (fun e => (u, c, e.2.1, e.2.2)))

/-- Give a context a new window beside everything that is there, the old windows of the changeover among it. -/
def freshWindow (u c : Nat) (s : State) : State :=
  placeWindow u c (windowNeed s u c) ((s.chg.oldWindows.filter (fun w => w.1 == u)).map (fun w => (w.2.2.1, w.2.2.2))) s

/-- Move the windows of a context: the old ones stay reserved until the changeover ends. -/
def moveWindows (c : Nat) (s : State) : State :=
  let s1 := { s with chg := { s.chg with oldWindows := s.chg.oldWindows ++ windowsOf s c } }
  let s2 := forEach (List.range 16) (fun u t => updScull t u (fun x => { x with windows := x.windows.filter (fun e => e.1 != c) })) s1
  forEach (unitsOf s2 c) (fun u t => freshWindow u c t) s2

/-- Give a context its old windows back. -/
def returnWindows (c : Nat) (s : State) : State :=
  let s1 := forEach (List.range 16) (fun u t => updScull t u (fun x => { x with windows := x.windows.filter (fun e => e.1 != c) })) s
  forEach (s.chg.oldWindows.filter (fun w => w.2.1 == c)) (fun w t =>
    updScull t w.1 (fun x => { x with windows := Tab.set id (fun _ => (0, 0)) c (w.2.2.1, w.2.2.2) x.windows })) s1

/-- A context uses the regions, tables and root of image `g`. -/
def moveTables (g : Image) (build : Bool) (c : Nat) (s : State) : State :=
  let mine := (allotsOf g).filter (fun a => a.ctx == c) ++ (windowAllots s).filter (fun a => a.ctx == c)
  let s1 := { s with allot := s.allot.filter (fun a => a.ctx != c) ++ mine }
  publishRoot (if build then buildTables s1 g c else s1) c

/-- Contents of the slots of an instance in the target: kept, from CARRY, or zero. -/
def carriedOver (s : State) (g : Image) (i : Nat) : List (List Byte) :=
  match modelIn g i with
  | some m => m.slots.zipIdx.map (fun e =>
    match slotKept (image s) g i e.2 with
    | some n =>
      match ((modelOf s i).bind (fun o => o.slots[e.2]?)).bind (fun d => (modelOf s i).bind (fun o => slotRead s o d)) with
      | some r => slice r.1 0 n
      | none => []
    | none =>
      match g.carry.find? (fun x => x.inst == i && x.slot == e.2) with
      | some x => x.bytes
      | none => [])
  | none => []

/-- The switch-back checkpoints of an instance: every slot as it is before the switch. -/
def switchBack (s : State) (i : Nat) : List (Nat × Nat × Copy) :=
  match modelOf s i with
  | some m => m.slots.zipIdx.filterMap (fun e =>
      match slotRead s m e.1 with
      | some (bs, false) => some (i, e.2, mkCopy i e.2 (strokeNat s) (instAt s i).epoch bs)
      | _ => (newestCopy (instAt s i) e.2).map (fun c => (i, e.2, c)))
  | none => []

/-- Fill the slots of an instance and make them its checkpoints. -/
def fillFrom (epoch : Nat) (i : Nat) (bs : List (List Byte)) (s : State) : State :=
  match modelOf s i with
  | some m =>
    let s1 := updInst s i (fun x => { x with ckA := [], ckB := [] })
    forEach m.slots.zipIdx (fun e t =>
      let b := slice (bs.getD e.2 []) 0 e.1.len
      let t1 := slotWrite t m e.1 b
      if e.1.ckpt = 0 then t1 else updInst t1 i (fun x => putCopy x e.2 (mkCopy i e.2 (strokeNat t) epoch b))) s1
  | none => s

/-- The mask of an instance in a list of placements. -/
def placeOf' (ps : List Placed) (i : Nat) : Option Placed := ps.find? (fun p => p.inst == i)

def takePlace (ps : List Placed) (i : Nat) (s : State) : State :=
  match placeOf' ps i with
  | some p => updInst s i (fun x => if x.placed then { x with mask := p.mask, alt := p.alt } else x)
  | none => s

/-- Start a context anew at its ENTRY record; one halted by a context fault stays halted (R480). -/
def restartUnlessHalted (c : Nat) (s : State) : State := if ctxHalted s c then s else restartContext s c

/-- Items 1 to 5 of R559 for a group: switch-back checkpoint, carry-over, switch checkpoint, new root, windows, code and
locks, and the ENTRY run. -/
def prepareGroup (s : State) (g : Image) (grp : Group) : State :=
  let is := grp.insts
  let cs := ctxsOfGroup s is
  let mineItem (r : RecItem) : Bool := match r with
    | .checkpoint i _ => is.contains i
    | _ => false
  let back := (is.map (switchBack s)).flatten
  let new := is.map (fun i => (i, carriedOver s g i))
  let s0 := { s with
    recovery := s.recovery.filter (fun r => !mineItem r)
    ckptWait := s.ckptWait.filter (fun e => !is.contains e.1)
    img := some (mergeImage (image s) g is cs)
    chg := { s.chg with
      back := s.chg.back ++ back, moved := s.chg.moved ++ cs
      groups := s.chg.groups.map (fun x => if x = grp then { x with prepared := true } else x) } }
  let s1 := forEach is (fun i t => setBuffers (takePlace s.chg.place i t) s.chg.slot i) s0
  let s2 := forEach cs moveWindows s1
  let s3 := forEach is (fun i t => copySpad t i) s2
  let s4 := showLocks (forEach cs (moveTables g true) s3)
  let s5 := forEach new (fun e t => fillFrom (((instAt t e.1).epoch + 1) % 256) e.1 e.2 t) s4
  forEach cs restartUnlessHalted s5

/-- No release for an instant before the edge waits (R561). -/
def queueIdle (x : Inst) : Bool :=
  match x.closing with
  | some n => n == 0
  | none => x.queued == 0

/-- No step of a group is in progress; a REFLEX one has no release waiting that the old epoch must run. -/
def groupIdle (s : State) (grp : Group) : Bool :=
  grp.insts.all (fun i => (instAt s i).running.isNone && queueIdle (instAt s i))

/-- Holdover or fail-stop holds up switching (R43). -/
def switchStopped (s : State) : Bool := rdb s .stkStatus 0 1 || rdb s .stkStatus 0 2

/-- Switching goes on. -/
def switching (s : State) : Bool := s.chg.active && s.chg.staged && !s.chg.paused && s.chg.rollbackAt.isNone

/-- A REFLEX instance is in a group. -/
def reflexIn (s : State) (grp : Group) : Bool := grp.insts.any (fun i => clsOf s i == some .reflex)
/-- A group of REFLEX instances alone, which need not switch in the catch phase (R561). -/
def reflexGroup (s : State) (grp : Group) : Bool := grp.insts.all (fun i => clsOf s i == some .reflex)

/-- In the recovery before their edges, groups are prepared (R559). One with a REFLEX instance is not: the releases before its
edge run in the old epoch (R561). -/
def prepareDue (s : State) : State :=
  match s.chg.target with
  | some g =>
    if switching s && !switchStopped s then
      forEach s.chg.groups (fun grp t =>
        if !grp.prepared && decide (grp.edge ≤ strokeNat t + 1) && groupIdle t grp && !reflexIn t grp then prepareGroup t g grp
        else t) s
    else s
  | none => s

/-- From the edge of a REFLEX group, releases for later instants queue until it has switched (R561). -/
def closeGroups (s : State) : State :=
  if switching s then
    forEach (s.chg.groups.filter (fun g => !g.switched && decide (g.edge ≤ strokeNat s) && reflexGroup s g)) (fun g t =>
      forEach g.insts (fun i u => updInst u i (fun x =>
        { x with closing := match x.closing with
          | some n => some n
          | none => some x.queued })) t) s
  else s

/-- Take the SNS registers of a channel from another configuration, and mark what follows (R92, R93, R563). DESIGN CHOICE
(assumption 103): the SENSE section's OFS replaces a calibrated offset, a change of IEPE_MA alone marks no output, and a
channel that the switch enables settles as after a change of GAIN. -/
def switchChan (u : State) (c : Nat) (s : State) : State :=
  if isMod c then
    let filter := rdf s .snsModCfg c 9 8 != rdf u .snsModCfg c 9 8 || rdf s .snsModCfg c 3 0 != rdf u .snsModCfg c 3 0
    let ofs := rd u .snsModOfs c
    let s1 := wr (wr s .snsModCfg c (rd u .snsModCfg c)) .snsModOfs c ofs
    let s2 := { s1 with ofsLoaded := Tab.set id (fun _ => (0 : Word)) c ofs s1.ofsLoaded }
    if filter then updChan s2 c (fun x => { x with settleLeft := sincOrder s2 c, bits := [] }) else s2
  else
    let ae := isAe c
    let r : Reg := if ae then .snsAeCfg else .snsVibCfg
    let n := if ae then c - 48 else c - 56
    let gain := rdf s r n 2 0 != rdf u r n 2 0 || rdb s r n 31 != rdb u r n 31
    let s1 := wr s r n (rd u r n)
    let s2 := if ae then wr s1 .snsAeRate 0 (rd u .snsAeRate 0) else wr s1 .snsVibRate 0 (rd u .snsVibRate 0)
    let s3 := if gain then updChan s2 c (fun x => { x with settleUntil := s.now + 20000, settleAfter := 3 }) else s2
    openIfLow s3 c

/-- A calibration that runs at a sense switch edge aborts, and so does one that completes on it: the offset or the bias that
stood before it stands again (R106). -/
def abortCal (s : State) : State :=
  match s.cal, s.calEnd with
  | some k, _ => endCal s k.chan cWrongState
  | none, some e =>
    if e.at_ != s.now then s
    else
      let s1 := { s with ofsPending := none, calEnd := none }
      calResult (if e.iepe then wr s1 .snsVibBias (e.chan - 56) e.bias else s1) e.chan cWrongState
  | none, none => s

/-- The sense switch edge of a group: the changed channels that it reads. -/
def senseSwitch (s : State) (o g : Image) (u : State) (changed is : List Nat) (first : Bool) : State :=
  let all := o.models.map (·.inst)
  let cs := changed.filter (fun c => is.any (fun i => reads o g i c) || (first && !all.any (fun i => reads o g i c)))
  if cs.isEmpty then s else forEach cs (switchChan u) (abortCal s)

/-- Write the SVC, RFX and THM lists of an image whatever locks them (assumption 36). -/
def forceLists (s : State) (g : Image) : State :=
  forEach (g.svcList ++ g.rfxList) (fun e t => forceLoad t e) s

/-- The changed banks of a group enter RETUNE (R564): one in SERVICE, and one that the target is the first to use; the
others keep their state, and one without a layer is unused. -/
def retuneBanks (s : State) (banks : List Nat) : State :=
  let s1 := forEach banks (fun b t =>
    match layerOfBank t b with
    | none => setBankState t b 0
    | some _ =>
      if bankState t b = 1 then setBankState (updBank (abortHeat t b) b (fun x => { x with heatedSince := [] })) b 4
      else if bankState t b = 0 then setBankState (showLanes (firstLanes (setServing t b) [] b) b) b 4
      else t) s
  { s1 with chg := { s1.chg with retuning := s1.chg.retuning ++ banks } }

/-- The banks whose layer or wax changes with a group. -/
def banksOfGroup (o g : Image) (is : List Nat) : List Nat :=
  (changedBanks o g).filter (fun b => (o.layers ++ g.layers).any (fun l => l.bank == b && is.contains l.inst))

/-- The ENTRY run of one of the group's contexts has yet to end. -/
def entryLate (s : State) (is : List Nat) : Bool := (ctxsOfGroup s is).any (entryPending s)

/-- The edge itself: the new epoch, the sense switch, the retune (R42, R558, R562 to R564). -/
def switchGroup (s : State) (o g : Image) (grp : Group) : State :=
  let is := grp.insts
  let n := s.chg.groups.countP (·.switched)
  let s1 := forEach is (fun i t =>
    wrb (updInst t i (fun x => { x with epoch := (x.epoch + 1) % 256 })) .chgStatus (i / 32) (i % 32) true) s
  let s2 := { s1 with chg := { s1.chg with
    groups := s1.chg.groups.map (fun x => if x.insts = is then { x with prepared := true, switched := true } else x) } }
  let s3 := wrf s2 .chgStat 0 24 16 (n + 1)
  let s4 := if entryLate s3 is then flag s3 .chgSticky 0 1 else s3
  let u := configured s g
  let t := configured s o
  let changed := (List.range 64).filter (fun c => chanOn u c && chanChanged t u c)
  let s5 := senseSwitch (if n = 0 then forceLists s4 g else s4) o g u changed is (n == 0)
  let s6 := retuneBanks s5 (banksOfGroup o g is)
  let s7 := forEach is reopen s6
  if s7.chg.groups.all (·.switched) then setChgPhase s7 5 else s7

/-- A switch group at its edge. A group that could not be prepared in time is prepared at the first edge at which none of
its steps is in progress; a REFLEX group once the releases for instants before its edge have completed (R561). -/
def execGroupSwitch (g : Fin 256) (s : State) : Host.Outcome State Fault Refusal :=
  match s.chg.groups[g.val]?, s.chg.target, s.chg.old with
  | some grp, some tgt, some o =>
    if !switching s || grp.switched || (s.phase != .catch_ && !reflexGroup s grp) || decide (strokeNat s < grp.edge) then unchanged s
    else if grp.prepared then .next (switchGroup s o tgt grp)
    else if groupIdle s grp then .next (switchGroup (prepareGroup s tgt grp) o tgt grp)
    else unchanged s
  | _, _, _ => unchanged s

/-- Staging ends: contents are in memory, and the groups are scheduled, one per edge from the next catch on (R556, R557). -/
def execChangeoverStaged (s : State) : Host.Outcome State Fault Refusal :=
  match s.chg.target with
  | some g =>
    if !s.chg.active || chgPhase s != 3 then unchanged s
    else
      let s1 := forEach (placeItems (stageBase g) (imageItems g)) stageBytes s
      let first := strokeNat s + 1
      let c : Changeover := { s1.chg with
        staged := true, firstEdge := first
        groups := s1.chg.groups.zipIdx.map (fun e => { e.1 with edge := first + e.2 }) }
      let s2 := setChgPhase { s1 with chg := c } 4
      .next (if s.phase = .recovery then prepareDue s2 else s2)
  | none => unchanged s

/-! ## Commit (R566) -/

/-- Every retuned bank has left RETUNE and PROBATION. -/
def retuneDone (s : State) : Bool := s.chg.retuning.all (fun b => bankState s b != 4 && bankState s b != 3)

/-- Every group has switched and its ENTRY runs have ended. -/
def allSwitched (s : State) : Bool :=
  s.chg.groups.all (fun grp => grp.switched) && !(instances s).any (fun i => entryPending s (ctxOfInst s i))

/-- IMG_STAT and IMG_BUILD take the values of an image. -/
def showImage (s : State) (g : Image) : State :=
  let pref := rdf s .imgStat 0 3 3
  let w := g.vsvn % 256 * 2 ^ 24 + g.bsvn % 256 * 2 ^ 16 + g.epoch % 256 * 2 ^ 8 + pref * 8
    + (if g.slot % 2 = pref then 0 else 4) + 2 + g.slot % 2
  let s1 := wr (wr s .imgBuild 0 (BitVec.ofNat 32 g.buildId)) .imgBuild 1 (BitVec.ofNat 32 (g.buildId / 2 ^ 32))
  { wr s1 .imgStat 0 (BitVec.ofNat 32 w) with imgShown := true }

/-- The contexts that no instance names, the stern core's among them, move at commit (assumption 37). -/
def moveRest (s : State) (g : Image) : State :=
  let rest := (spacesOf g).filter (fun c => !s.chg.moved.contains c)
  forEach rest (moveTables g true) { s with chg := { s.chg with moved := s.chg.moved ++ rest } }

/-- The changeover commits. -/
def execChangeoverCommit (s : State) : Host.Outcome State Fault Refusal :=
  match s.chg.target with
  | some g =>
    if !s.chg.active || !s.chg.staged || s.chg.rollbackAt.isSome || !allSwitched s || !retuneDone s then unchanged s
    else
      let s1 := moveRest s g
      .next (endChg (showImage { s1 with img := some g, contentKey := s.targetKey } g) 0 0)
  | none => unchanged s

/-! ## Rollback (R567, R568) -/

/-- A cause arises: rollback takes effect at the second edge after it; before any group may have switched the changeover
simply ends. -/
def causeRollback (s : State) (code : Nat) : State :=
  if !s.chg.active || s.chg.rollbackAt.isSome then s
  else
    let s1 := { s with chg := { s.chg with cause := code } }
    if s.chg.staged then reopenAll (setChgPhase { s1 with chg := { s1.chg with rollbackAt := some (strokeNat s + 2) } } 6)
    else endChg (flag (wrf s1 .chgStat 0 15 0 code) .chgSticky 0 2) code 1

/-- T_CHG is exceeded; paused time extends it (R43, R565). -/
def execChangeoverTimeout (s : State) : Host.Outcome State Fault Refusal :=
  let end_ := s.chg.since + s.chg.bound + s.chg.pausedNs
  if s.chg.active && !s.chg.paused && s.chg.rollbackAt.isNone && decide (end_ < s.now) then
    .next (causeRollback (raiseChg s cChgTimeout) cChgTimeout)
  else unchanged s

/-- A step of a GUARD or TREND instance in progress at r is abandoned (R468, R469). -/
def abandonAt (i : Nat) (s : State) : State :=
  if (instAt s i).running.isNone then s
  else match clsOf s i with
    | some .guard => updInst (countRun (abandonStep s i) .svcOverCnt i) i (fun x => { x with late := true })
    | some .trend => shedFrame s i
    | _ => abandonStep s i

/-- Slots and checkpoints as the switch-back checkpoints hold them. -/
def restoreBack (i : Nat) (s : State) : State :=
  match modelOf s i with
  | some m =>
    let mine := s.chg.back.filter (fun e => e.1 == i)
    let s1 := updInst s i (fun x => { x with ckA := [], ckB := [] })
    forEach mine (fun e t =>
      match m.slots[e.2.1]? with
      | some d =>
        let t1 := slotWrite t m d e.2.2.bytes
        if d.ckpt = 0 then t1 else updInst t1 i (fun x => putCopy x e.2.1 e.2.2)
      | none => t) s1
  | none => s

/-- The stroke of an instance's switch-back checkpoint. -/
def backStroke (s : State) (grp : Group) (i : Nat) : Nat :=
  ((s.chg.back.filter (fun e => e.1 == i)).map (fun e => e.2.2.stroke)).foldl Nat.min (grp.edge - 1)

/-- One group returns to its old epoch, configuration and contents. -/
def returnGroup (o g : Image) (grp : Group) (s : State) : State :=
  if !grp.prepared then s
  else
    let is := grp.insts
    let cs := ctxsOfGroup s is
    let s0 := forEach is abandonAt s
    let s1 := { s0 with
      img := some (mergeImage (image s0) o is cs)
      chg := { s0.chg with moved := s0.chg.moved.filter (fun c => !cs.contains c) } }
    let s2 := forEach is (fun i t => setBuffers (takePlace s.chg.oldPlace i t) o.slot i) s1
    let s3 := forEach cs returnWindows s2
    let s4 := showLocks (forEach cs (moveTables o false) s3)
    let s5 := forEach is restoreBack s4
    let s6 := if grp.switched then
        forEach is (fun i t =>
          let k := Nat.max 1 (Nat.min 8191 (strokeNat t - backStroke s grp i))
          updInst t i (fun x => { x with epoch := (x.epoch + 255) % 256, staleLeft := k, staleK := k })) s5
      else s5
    let changed := (List.range 64).filter (fun c => chanOn (configured s o) c && chanChanged (configured s g) (configured s o) c)
    let s7 := if grp.switched then
        retuneBanks (senseSwitch s6 g o (configured s o) changed is (s.chg.groups.head? == some grp)) (banksOfGroup g o is)
      else s6
    forEach cs restartUnlessHalted s7

/-- At edge r every group that left its old epoch returns to it. -/
def execChangeoverRollback (s : State) : Host.Outcome State Fault Refusal :=
  match s.chg.rollbackAt, s.chg.old, s.chg.target with
  | some r, some o, some g =>
    if !s.chg.active || s.phase != .catch_ || decide (strokeNat s < r) then unchanged s
    else
      let s1 := forEach s.chg.groups (returnGroup o g) s
      let s2 := if s.chg.groups.any (·.switched) then forceLists s1 o else s1
      .next (endChg (flag s2 .chgSticky 0 2) (if s.chg.groups.any (·.switched) then 0 else s.chg.cause) 1)
  | _, _, _ => unchanged s

/-! ## Pausing (R43) -/

/-- A group that was prepared for an edge at which switching pauses goes back to its old code, slots and windows: its steps go
on in the old epoch, and it is prepared again later (R42; assumption 128). -/
def unprepare (s : State) : State :=
  match s.chg.old, s.chg.target with
  | some o, some g =>
    forEach (s.chg.groups.filter (fun x => x.prepared && !x.switched)) (fun grp t =>
      let cs := ctxsOfGroup t grp.insts
      let t1 := returnGroup o g grp t
      { t1 with chg := { t1.chg with
        back := t1.chg.back.filter (fun e => !grp.insts.contains e.1)
        oldWindows := t1.chg.oldWindows.filter (fun w => !cs.contains w.2.1)
        groups := t1.chg.groups.map (fun x => if x.insts = grp.insts then { x with prepared := false } else x) } }) s
  | _, _ => s

/-- At a catch: switching pauses in holdover and in fail-stop, and the edges of groups still to switch move on with it. -/
def catchPause (s : State) : State :=
  if !s.chg.active then s
  else if switchStopped s then
    let s := reopenAll (unprepare s)
    let c := s.chg
    let later := c.groups.map (fun g => if g.switched then g else { g with edge := Nat.max g.edge (strokeNat s) + 1 })
    let c1 := if c.paused then c else { c with paused := true, pausedAt := s.now }
    { s with chg := if c.staged then { c1 with groups := later } else c1 }
  else if s.chg.paused then
    { s with chg := { s.chg with paused := false, pausedNs := s.chg.pausedNs + (s.now - s.chg.pausedAt) } }
  else s

/-! ## A fence meanwhile (R570, R603) -/

/-- A fence during a changeover: the crossover admission runs again on the live sculls, for instances on their old places still,
in force or new. It passes and the target takes the places found, or the changeover rolls back with the fence code. -/
def chgFence (s : State) (r : Readmission) (lost : List Nat) : State :=
  match s.chg.target, s.chg.old with
  | some g, some o =>
    if !s.chg.active || s.chg.rollbackAt.isSome then s
    else
      let base := { s with img := some o }
      let kept := s.chg.oldPlace.filter (fun p => p.mask &&& liveMask s == p.mask)
      let old := kept ++ (placements s).filter (fun p => !kept.any (fun q => q.inst == p.inst))
      let both := placements s ++ kept
      let s1 := { s with chg := { s.chg with oldPlace := old } }
      let wide := forEach (instances s) (fun i t => updInst t i (fun x =>
        { x with mask := ((both.filter (fun p => p.inst == i)).map (·.mask)).foldl (· ||| ·) 0 })) base
      let ps := placeAll (targetState s g)
      if lost.isEmpty && crossBudgets wide g ps && crossSpace wide g ps then { s1 with chg := { s1.chg with place := ps } }
      else causeRollback s1 (rdf s .fltScull (lowestScull r.sculls) 15 0)
  | _, _ => s

/-- Re-admission ends: the instances that were on the fenced sculls take placements, or are left unplaced. -/
def execReadmissionComplete (s : State) : Host.Outcome State Fault Refusal :=
  match s.readmit with
  | none => unchanged s
  | some r =>
    if !s.run || coxHalted s then unchanged s
    else
      let hit := inOrder ((instances s).filter (fun i =>
        let x := instAt s i
        x.placed && (x.mask &&& r.sculls) != 0))
      let kept := (placements s).filter (fun p => !hit.contains p.inst)
      let ps := placeList s kept hit
      let new := ps.filter (fun p => hit.contains p.inst)
      let lost := hit.filter (fun i => !new.any (fun p => p.inst == i))
      let s1 := forEach new (fun p t => placeAgain t p) { s with readmit := none }
      let s2 := forEach new (fun p t => copySpad t p.inst) (relayWindows s1)
      let s3 := forEach lost (fun i t => leaveUnplaced t i) s2
      let s4a := chgFence (showPlacement s3 ps lost.isEmpty) r lost
      let res := bytesOf 2 ((if lost.isEmpty then 0 else 2 ^ 15) + lost.length % 256)
      let s4 := forEach (maskList r.sculls) (fun u t => fenceNotice t res u) s4a
      .next (match r.mailbox, s4.long with
        | some _, some l => if l.service = svFenceScull then endLong s4 l 0 res else s4
        | _, _ => s4)

end Sys2Proof.Machine
end

