-- ==== Sys2Proof/Machine/Stroke.lean ====
section
/-! DEFINITION. The stroke (01_stroke.md): the four phases and their edges, what each does for every other chapter, sync
acquisition, holdover and fail-stop, finish records (R13, R472, R473), recovery (R27), loss of STK_REFCLK and the
parity of the bridges. -/

namespace Sys2Proof.Machine

/-! ## Mode and window (R14 to R17, R41) -/

/-- Slave mode. -/
def slave (s : State) : Bool := !rdb s .stkCfg 0 0
def winNs (s : State) : Nat := rdf s .stkSyncWin 0 12 0
/-- Fail-stop at loss of sync: FAILSTOP without LOCKED; the fail-stop of R70 leaves LOCKED as it was. -/
def syncStopped (s : State) : Bool := rdb s .stkStatus 0 2 && !rdb s .stkStatus 0 0
/-- Catch edges are being issued. -/
def ticking (s : State) : Bool := s.timerOn && !s.refLost

/-- The level of SYNC_OUT: high for 200 ns from each catch edge that it is enabled at (R19). -/
def syncOutHigh (s : State) : Bool := s.syncOut && decide (s.now < s.catchAt + 200)

/-! ## The catch phase (R15, R17, R18, R32, R34, R647) -/

/-- The stroke timer follows STROKE_SYNC: in slave mode, outside fail-stop, from the edge that acquisition steps onto. -/
def following (s : State) : Bool := slave s && !syncStopped s && (s.everLocked || decide (0 < s.acqRun))

/-- STK_PHASE_ERR as a number: the error of the last accepted edge. -/
def lastErr (s : State) : Int := signed 16 (rdf s .stkPhaseErr 0 15 0)

/-- The earliest and the latest instant of the next catch edge. Timed from STK_REFCLK it falls one period after the last; in
holdover within 50 ppm of that. Otherwise the phase moves by at most 8 ns, as far as it takes to bring the catch edge within
10 ns of where STROKE_SYNC falls by its last accepted edge, or of the edge already accepted for it (assumption 115). -/
def catchRange (s : State) : Nat × Nat :=
  let at_ := s.catchAt + s.lockNs
  if !following s then (at_, at_)
  else if rdb s .stkStatus 0 1 then (at_ - s.lockNs * 50 / 1000000, at_ + s.lockNs * 50 / 1000000)
  else
    let lim (v : Int) : Nat := (clampInt ((at_ : Int) - 8) (at_ + 8) v).toNat
    let lo := lim (at_ + lastErr s - 10)
    let hi := lim (at_ + lastErr s + 10)
    match s.edgeAt with
    | some e => (lo, Nat.max lo (Nat.min hi (e + 10)))
    | none => (lo, hi)

/-- STK_PHASE_ERR of an accepted edge. -/
def phaseErr (s : State) (e : Int) : State := wrf s .stkPhaseErr 0 15 0 (unsigned 16 e)

/-- An edge accepted before its catch edge is compared with it now (R17). -/
def compareEdge (s : State) : State :=
  match s.edgeAt with
  | some e => phaseErr { s with edgeAt := none } ((e : Int) - s.catchAt)
  | none => s

/-- From the first catch edge after fail-stop starts, the timer runs at STK_PERIOD (R34). -/
def freeRun (s : State) : State := if syncStopped s then { s with lockNs := periodNs s } else s

/-! ## The catch edge (R20, R21, R27, R42) -/

/-- The eight whose copier takes an instance's checkpoints. -/
def ckptEight (s : State) (i : Nat) : Nat := ckptScull s i / 8

/-- The checkpoint that each eight's copier has begun: the first of its items. -/
def begun (s : State) : List RecItem :=
  ([0, 1] : List Nat).filterMap (fun e => s.recovery.find? (fun r => match r with
    | .checkpoint i _ => ckptEight s i == e
    | _ => false))

/-- A recovery item has not ended: DMA for the next stroke has ended once the scull's channels have started all of it. -/
def itemLeft (s : State) (r : RecItem) : Bool :=
  match r with
  | .dma u => dmaWaits s u
  | _ => true

/-- Recovery ends at the catch: a checkpoint that is under way is discarded, everything else is deferred whole. -/
def deferRecovery (s : State) : State :=
  let b := begun s
  let later := s.recovery.filter (fun r => !b.contains r && itemLeft s r)
  let s1 := forEach b (fun r t => match r with
    | .checkpoint i _ => dropCkpt t i
    | _ => t) s
  let s2 := { s1 with recovery := later }
  if later.isEmpty then s2
  else flag (if s.run then bumpf s2 .stkRcvCnt 0 15 0 later.length else s2) .stkSticky 0 4

/-- At a catch in Run the block of a TREND instance that no frame has taken joins those gathered (R458). -/
def gatherBlocks (s : State) : State :=
  if !s.run then s
  else forEach (instsOf s .trend) (fun i t => updInst t i (fun x =>
    { x with blocks := if x.given then x.blocks else x.blocks ++ [blockOfInst t i], given := false })) s

/-- TREND frames fall due every FRAME strokes, the first at stroke FRAME − 1 (R469, R481); a frame of a group that waits for its
switch edge waits too (R560). -/
def dueFrames (s : State) : State :=
  forEach (instsOf s .trend) (fun i t => match schedOf t i with
    | some e =>
      if e.frame ≠ 0 ∧ (strokeNat t + 1) % e.frame = 0 ∧ mayStep.runs t i (instAt t i) then updInst t i (fun x => { x with framesDue := x.framesDue + 1 })
      else t
    | none => t) s

/-- Instances placed again are released from this catch on (R603), and the stern core's `done` waits end. -/
def freeWaits (s : State) : State :=
  let s1 := forEach (instances s) (fun i t => updInst t i (fun x => { x with waitCatch := false })) s
  updCtx s1 (ctxKey 16 0) (fun c => { c with waitDone := false })

/-- A claim ends when the tray is active on all of its dual-homed links. DESIGN CHOICE (assumption 113): the spec does not
say when; the recovery of the other tray does not end it. -/
def settleClaim (s : State) : State :=
  if (List.range 12).all (fun n => !dualHomed s n || activeOn s n) then { s with claiming := false } else s

/-- A level 2 grant made in Run takes effect at a catch: FAULT_N asserts with DEBUG_ACTIVE (R234). -/
def catchDebug (s : State) : State :=
  if s.debugDue then raiseNow { s with debugDue := false } cDebugActive scDevice 0 else s

/-- ISLAND_FLOOR ends when the stern core's island has held its floor for 1 s (R597); judged at each catch. -/
def catchFloor (s : State) : State :=
  if s.holding.contains cIslandFloor && decide (s.floorAt + 1000000000 ≤ s.now) then endCode s cIslandFloor else s

/-- What a catch edge does in every block; `stepped` when the edge steps (R36, R647), `count` when STK_COUNT increments. -/
def doCatch (s : State) (stepped count : Bool) : State :=
  let s1 := deferRecovery s
  let s2 := { s1 with
    strokeNo := if count then s1.strokeNo + 1 else s1.strokeNo
    catchAt := if stepped then s1.now else Nat.min s1.now (catchRange s1).2
    phase := .catch_, lateEdge := s1.earlyEdge, earlyEdge := false, syncOut := rdb s1 .stkCfg 0 1 }
  let s3 := catchSense (catchLinks (gatherBlocks (freeWaits (catchRestarts (catchLines (freeRun (compareEdge s2))))))) stepped
  let s4 := dueFrames (settleClaim (catchReadback s3))
  catchFloor (catchDebug (closeGroups (catchPause (catchRegatta (catchHeld s4)))))

/-- A catch edge is due: the stroke has passed its finish and the phase allows the edge now. -/
def catchDue (s : State) : Bool := ticking s && s.phase == .recovery && decide ((catchRange s).1 ≤ s.now)

/-- The catch edge of the stroke timer. With admission passed, the next catch edge is the row RUN_ENTRY. -/
def execCatchEdge (s : State) : Host.Outcome State Fault Refusal :=
  if catchDue s && (s.run || !s.admitted) then .next (doCatch s false s.run) else unchanged s

/-! ## STROKE_SYNC (R16 to R18, R32 to R36, R647) -/

/-- LOCKED is declared; what waits for lock in stage 10 goes on, and STROKE_SYNC_LOST of R200 ends. -/
def declareLock (s : State) : State :=
  let s1 := { wrb s .stkStatus 0 0 true with everLocked := true, acqRun := 16 }
  if s1.holding.contains cStrokeSyncLost then endCode s1 cStrokeSyncLost else s1

/-- Where an active edge falls: in the window of the catch edge just passed, in that of the one to come, or in neither
(R16, R41). The edge to come is expected one period after the last. -/
inductive EdgePlace where
  | late | early | outside
  deriving DecidableEq, Repr

def edgePlace (s : State) : EdgePlace :=
  let t := strokeNs s
  if t ≤ winNs s then .late else if s.lockNs ≤ t + winNs s then .early else .outside

/-- The window that an edge falls in already holds an accepted edge. -/
def windowTaken (s : State) : EdgePlace → Bool
  | .late => s.lateEdge
  | .early => s.earlyEdge
  | .outside => false

/-- The period that STROKE_SYNC is locked to: the mean spacing of the last 16 or 17 accepted edges (assumption 115). -/
def measured (s : State) : Nat :=
  match s.edges with
  | e :: es => if 15 ≤ es.length then (e - es.getLastD e) / es.length else s.lockNs
  | [] => s.lockNs

/-- An edge is accepted (R17): its window is taken, and it is compared with the catch edge passed, or with the one to
come. -/
def takeEdge (s : State) (p : EdgePlace) : State :=
  let s1 := { s with edges := (s.now :: s.edges).take 17 }
  let s2 := { s1 with lockNs := measured s1 }
  match p with
  | .early => { s2 with earlyEdge := true, edgeAt := some s.now }
  | _ => phaseErr { s2 with lateEdge := true } (strokeNs s)

/-- One more accepted edge in acquisition. -/
def acquireOne (s : State) (p : EdgePlace) : State :=
  let s1 := { takeEdge s p with acqRun := s.acqRun + 1 }
  if s.acqRun + 1 = 16 then declareLock s1 else { s1 with lockNs := s.lockNs }

/-- The edge that acquisition steps the catch phase onto, which counts as the first accepted edge. -/
def acquireFirst (s : State) : State :=
  { phaseErr (doCatch s true false) 0 with acqRun := 1, lateEdge := true, edges := [s.now], edgeAt := none, lockNs := periodNs s }

/-- An active edge before LOCKED is first declared (R647). -/
def acquireEdge (s : State) : State :=
  if s.acqRun = 0 then acquireFirst s
  else match edgePlace s with
    | .outside => { s with acqRun := 0 }
    | p => if windowTaken s p then s else acquireOne s p

/-- An accepted edge in lock or holdover (R16, R17, R33). -/
def acceptEdge (s : State) (p : EdgePlace) : State :=
  let s1 := takeEdge s p
  if rdb s1 .stkStatus 0 1 then wrf (wrb s1 .stkStatus 0 1 false) .stkStatus 0 15 8 0 else s1

/-- A rejected edge (R16). -/
def rejectEdge (s : State) : State := bumpf (flag s .stkSticky 0 0) .stkSyncErr 0 15 0 1

/-- An active edge with lock declared (R16, R41). -/
def judgeEdge (s : State) : State :=
  match edgePlace s with
  | .outside => rejectEdge s
  | p => if windowTaken s p then rejectEdge s else acceptEdge s p

/-- The step out of fail-stop (R36). The fail-stop of R70 lasts until reset. -/
def stepOut (s : State) : State :=
  let s1 := { doCatch s true s.run with
    lateEdge := true, fsRun := 0, fsLast := none, edges := [s.now], edgeAt := none, lockNs := periodNs s }
  let s2 := wrf (wrb s1 .stkStatus 0 0 true) .stkStatus 0 15 8 0
  let s3 := if s2.holding.contains cFabricStall then s2 else wrb s2 .stkStatus 0 2 false
  endCode s3 cStrokeSyncLost

/-- An active edge in fail-stop: judged by its spacing alone; the edge that restarts the count counts as the first. -/
def stopEdge (s : State) : State :=
  let run := match s.fsLast with
    | some l =>
      let d := s.now - l
      if periodNs s ≤ d + winNs s ∧ d ≤ periodNs s + winNs s then s.fsRun + 1 else 1
    | none => 1
  let s1 := { s with fsRun := run, fsLast := some s.now }
  if 8 ≤ run && s1.phase == .recovery then stepOut s1 else s1

/-- An edge of STROKE_SYNC. Master mode ignores it, and edges of the other polarity are never judged. -/
def execStrokeSyncEdge (rising : Bool) (s : State) : Host.Outcome State Fault Refusal :=
  if !ticking s || !slave s || rising == rdb s .stkCfg 0 2 then unchanged s
  else if !s.everLocked then .next (acquireEdge s)
  else if syncStopped s then .next (stopEdge s)
  else .next (judgeEdge s)

/-- Fail-stop starts (R34). -/
def failStop (s : State) : State :=
  let s1 := wrb (wrb (wrb s .stkStatus 0 1 false) .stkStatus 0 0 false) .stkStatus 0 2 true
  raiseNow { flag s1 .stkSticky 0 2 with fsRun := 0, fsLast := none } cStrokeSyncLost scDevice 0

/-- The window of the expected edge closes without an accepted edge (R32, R34, R647). -/
def execSyncWindowClose (s : State) : Host.Outcome State Fault Refusal :=
  if !ticking s || !slave s || s.lateEdge || syncStopped s || decide (strokeNs s ≤ winNs s) then unchanged s
  else
    let s1 := { s with lateEdge := true, edges := [] }
    if !s.everLocked then .next { s1 with acqRun := 0 }
    else if rdf s .stkStatus 0 15 8 = 64 then .next (failStop s1)
    else .next (bumpf (flag (wrb s1 .stkStatus 0 1 true) .stkSticky 0 1) .stkStatus 0 15 8 1)

/-! ## Drive and commit cut-off (R22, R24, R44, R465, R466, R471) -/

/-- The STROKE instances in ORDER. -/
def strokeOrder (s : State) : List Nat :=
  let ord (i : Nat) : Nat := match schedOf s i with
    | some e => e.order
    | none => 0
  sortBy (fun a b => decide (ord a ≤ ord b)) (inOrder (instsOf s .stroke))

def coastPolicy (s : State) (i : Nat) : Bool := match schedOf s i with
  | some e => e.coast
  | none => false

/-- A STROKE step misses finish: its record takes LATE or COASTED. -/
def missStep (s : State) (i : Nat) : State := updInst s i (fun x => { x with missed := true, coasted := coastPolicy s i })

/-- Release one STROKE instance at drive start. A step with too few valid words is withheld (R471), and so is one whose
coast routine still runs. -/
def driveOne (i : Nat) (s : State) : State :=
  let s1 := updInst s i (fun x => { x with complete := false, missed := false, coasted := false, stepped := false })
  if !mayStep s1 i then s1
  else if validLow s1 i then flag (missStep s1 i) .svcSticky 0 7
  else if (instAt s1 i).running.isSome then missStep s1 i
  else
    let ord := match schedOf s1 i with
      | some e => e.order
      | none => 0
    release (updInst s1 i (fun x => { x with stepped := true })) i .step (strokeNat s1) (stepVaddr s1 i) ord s1.catchAt

/-- Drive starts at t = 400 ns. -/
def execDriveStart (s : State) : Host.Outcome State Fault Refusal :=
  if !ticking s || s.phase != .catch_ || decide (strokeNs s < 400) then unchanged s
  else
    let s1 := { s with phase := .drive, syncOut := false }
    .next (if s1.run then forEach (strokeOrder s1) driveOne s1 else s1)

/-- One STROKE instance at the cut-off: its triggers commit, or its step is abandoned. -/
def cutOne (i : Nat) (s : State) : State :=
  let x := instAt s i
  if x.complete then commitTriggers s i
  else if x.stepped then missStep (abandonStep s i) i
  else s

/-- The commit cut-off, 160 ns before the finish offset. -/
def execCommitCutoff (s : State) : Host.Outcome State Fault Refusal :=
  if !ticking s || s.phase != .drive || decide (strokeNs s + 160 < finishNs s) then unchanged s
  else .next { forEach (strokeOrder s) cutOne s with phase := .cutoff }

/-! ## Finish records (R13, R35, R472, R473) -/

/-- The STROKE outputs are fail-stopped (R34, R70). -/
def failStopped (s : State) : Bool := rdb s .stkStatus 0 2
/-- A level 2 grant acts from the catch after it (R234). -/
def debugFenced (s : State) : Bool := rdf s .coxStat 0 5 4 == 2 && decide (s.debugAt < s.catchAt)
def fsPolicy (s : State) : Nat := rdf s .stkCfg 0 5 4

/-- A record repeats the last payload: its instance is fenced, halted, or held back by fail-stop or debug. -/
def withheld (s : State) (i : Nat) (x : Inst) : Bool :=
  x.fenced || ctxFaulted s (ctxOfInst s i) || (clsOf s i == some .stroke && (failStopped s || debugFenced s))

/-- The status of the class policy: what R472 gives apart from FENCED and STALE. -/
def classStatus (s : State) (i : Nat) (x : Inst) : Nat :=
  match clsOf s i with
  | some .stroke => if x.missed then (if x.coasted then 2 else 1) else 0
  | some .guard => if x.late then 1 else 0
  | some .trend => if x.shed then 3 else 0
  | _ => 0

/-- Publish a completed output (R28). -/
def publish (x : Inst) : Inst :=
  match x.newOut with
  | some o =>
    { x with
      out := o, inputOf := x.newInputOf, payloadEpoch := x.newEpoch, stopBit := x.newStop, hasResult := true
      newOut := none, staleUntilResult := false }
  | none => x

/-- The SERVED steps still to go before STALE ends (R539, R568, R603): a miss starts the count anew. -/
def staleAfter (s : State) (i : Nat) (x : Inst) : Nat :=
  if x.staleLeft = 0 then 0
  else match clsOf s i with
    | some .reflex => x.staleLeft
    | some .stroke => if x.complete then x.staleLeft - 1 else x.staleK
    | _ => if classStatus s i x ≠ 0 then x.staleK else if x.newOut.isSome then x.staleLeft - 1 else x.staleLeft

/-- The tray is standby on a link that carries the instance's records. -/
def standbyFor (s : State) (i : Nat) : Bool := (linksOf s i).any (fun n => !activeOn s n)

/-- The highest status that applies (R472). -/
def recordStatus (s : State) (i : Nat) (x : Inst) (stale : Bool) : Nat :=
  if withheld s i x || x.nanRecord || x.overrun then 5
  else if standbyFor s i || x.held || stale then 4
  else classStatus s i x

/-- The header of R13. -/
def headerOf (stroke inst age status epoch : Nat) : DWord :=
  BitVec.ofNat 64 (stroke % 2 ^ 32 + inst % 256 * 2 ^ 32 + age % 8192 * 2 ^ 40 + status % 8 * 2 ^ 53 + epoch % 256 * 2 ^ 56)

/-- An instance with the payload of its last SERVED record in place of its newest (R35, policy 0); before the first such
record the payload is zero. -/
def heldServed (x : Inst) : Inst :=
  { x with
    out := x.served, inputOf := x.servedInputOf, payloadEpoch := x.servedEpoch, stopBit := x.servedStop
    hasResult := x.hasResult && decide (0 < x.servedInputOf) }

/-- A SERVED record's payload is kept for R35. -/
def keepServed (x : Inst) : Inst :=
  if x.status = 0 then
    { x with served := x.out, servedInputOf := x.inputOf, servedEpoch := x.payloadEpoch, servedStop := x.stopBit }
  else x

/-- Commit the record of one instance. -/
def commitRecord (i : Nat) (s : State) : State :=
  let x := instAt s i
  let stroke := clsOf s i == some .stroke
  let left := staleAfter s i x
  let x1 := if withheld s i x || (stroke && !x.complete) then { x with newOut := none } else publish x
  let status := recordStatus s i x1 (decide (0 < left) || x1.staleUntilResult)
  let stopped := stroke && (failStopped s || debugFenced s)
  let zero := stopped && fsPolicy s != 0
  let y := if stopped then heldServed x1 else x1
  let age := if zero || y.inputOf == 0 then 8191 else Nat.min 8191 (strokeNat s + 1 - y.inputOf)
  let epoch := if zero || !y.hasResult then x1.epoch else y.payloadEpoch
  let h := headerOf (strokeNat s) i age status epoch
  let x2 := { x1 with
    status := status, age := age, header := h, shown := if zero then [] else y.out, shownStop := !zero && y.stopBit
    staleLeft := left, late := false, shed := false, nanRecord := false }
  let s1 := putInst s i (keepServed x2)
  let s2 := if status = 1 then flag s1 .svcSticky 0 1 else if status = 2 then flag s1 .svcSticky 0 2 else s1
  if !stroke then s2
  else
    let s3 := if status = 1 ∨ status = 2 then countRun s2 .svcShedCnt i else s2
    if status = 0 then wr s3 .svcDecimCnt i 0 else countRun s3 .svcDecimCnt i

/-- STROKE_MISS (R479): raised when a run of non-SERVED records reaches MISS_LIMIT; it ends with the last such run. -/
def missLimits (s : State) : State :=
  let lim := rdf s .svcCfg 0 15 0
  let run (t : State) (i : Nat) : Nat := (rd t .svcDecimCnt i).toNat
  if lim = 0 then s
  else
    let is := inOrder (instsOf s .stroke)
    let s1 := forEach (is.filter (fun i => run s i == lim)) (fun i t => raiseNow t cStrokeMiss scInstance i) s
    if s1.holding.contains cStrokeMiss && is.all (fun i => decide (run s1 i < lim)) then endCode s1 cStrokeMiss else s1

/-! ## Stop requests at finish (R135, R470, R602) -/

/-- Every stop request that the finish applies, before the release of R136. -/
def finishStops (s : State) : State :=
  let recs := (image s).axis.filter (fun e => e.kind == 0)
  let s1 := forEach (recs.filter (fun e => (instAt s e.inst).shownStop)) (fun e t => setStop t e.link) s
  let s2 := if failStopped s && fsPolicy s == 2 then
      forEach (recs.filter (fun e => clsOf s e.inst == some .stroke)) (fun e t => setStop t e.link) s1
    else s1
  forEach ((instsOf s .reflex).filter (fun i => (instAt s i).fenced || (instAt s i).overrun)) (fun i t => setAllStops t i) s2

/-! ## Recovery (R27, R383, R384, R466, R584, R603) -/

/-- After a missed step the slots are restored before any checkpoint, and the coast routine runs. A record that is SERVED
renews the held-input copy. -/
def recoverOne (i : Nat) (s : State) : State :=
  let x := instAt s i
  let s1 := if x.missed && !x.fenced then restoreSlots s i (fun _ => true) else s
  match schedOf s1 i with
  | none => s1
  | some e =>
    if !e.coast then s1
    else if x.missed then
      (if mayStep s1 i && x.running.isNone then release s1 i .coast (strokeNat s1) e.coastVaddr e.order s1.catchAt else s1)
    else if x.status = 0 then
      match allotAddr s1 (ctxOfInst s1 i) e.heldVaddr with
      | some a => updInst (memWrite s1 a (inBytes s1 i)) i (fun y => { y with heldInputOf := strokeNat s1 + 1 })
      | none => s1
    else s1

/-- An instance with pinned data on a failed stack stays FENCED until reset (R602). -/
def hbmFenced (s : State) (i : Nat) : Bool :=
  s.holding.contains cHbmFail && clsOf s i != some .trend
    && s.allot.any (fun a => a.ctx == ctxOfInst s i && a.flags % 2 == 1)

/-- An instance that admission placed again: restored now, released from the next catch. -/
def restorePlaced (i : Nat) (s : State) : State :=
  if !(instAt s i).restoreDue then s
  else
    let k := Nat.max 1 (Nat.min 8191 (strokeNat s + 1 - restoredStroke s i))
    updInst (restoreSlots s i (fun _ => true)) i (fun x =>
      { x with
        restoreDue := false, fenced := hbmFenced s i, waitCatch := true, staleLeft := k, staleK := k, missed := false })

/-- Slots of an instance that are due in this stroke's recovery. -/
def dueSlots (s : State) (i : Nat) : List Nat :=
  match modelOf s i with
  | some m => (m.slots.zipIdx.filter (fun e => e.1.ckpt != 0 && strokeNat s % e.1.ckpt == 0)).map (·.2)
  | none => []

/-- A step is in progress that keeps an instance's checkpoints waiting. -/
def ckptBusy (s : State) (i : Nat) : Bool :=
  (clsOf s i == some .guard || clsOf s i == some .trend) && (instAt s i).running.isSome

/-- List the checkpoints of this recovery. What waits for a step to end is counted when it begins to wait. -/
def listCkpts (s : State) : State :=
  let good (i : Nat) : Bool := (instAt s i).placed && !(instAt s i).fenced && !(instAt s i).missed
  let all := s.ckptWait ++ ((inOrder (instances s)).map (fun i => (dueSlots s i).map (fun k => (i, k)))).flatten
  let items := (all.filter (fun e => good e.1)).eraseDups
  let wait := items.filter (fun e => ckptBusy s e.1)
  let s1 := forEach (wait.filter (fun e => !s.ckptWait.contains e)) (fun e t => deferCkpt t e.1) s
  let now := (items.filter (fun e => !ckptBusy s e.1)).map (fun e => RecItem.checkpoint e.1 e.2)
  let old := s.recovery.filter (fun r => match r with
    | .checkpoint i k => good i && !ckptBusy s i && !now.contains (.checkpoint i k)
    | _ => true)
  { s1 with ckptWait := wait, recovery := old ++ now }

/-- List the sculls whose DMA for the next stroke has not started: third in the order of R27 (assumption 116). -/
def listDma (s : State) : State :=
  let due := (List.range 16).filter (fun u => dmaWaits s u && !s.recovery.contains (.dma u))
  { s with recovery := s.recovery ++ due.map RecItem.dma }

/-- List the mirror cycles that are due. -/
def listMirrors (s : State) : State :=
  let due := ((image s).chans.filter (fun c => mirrorDue s c && !s.recovery.contains (.mirror c.chan))).map (fun c => RecItem.mirror c.chan)
  { s with recovery := s.recovery ++ due }

def isHeat (r : RecItem) : Bool := match r with
  | .heat _ => true
  | _ => false

/-- The heats that wait start as soon as nothing stands before them in the order of R27. -/
def runHeats (s : State) : State :=
  let left := s.recovery.filter (itemLeft s)
  if s.phase == .recovery && ticking s && left.all isHeat then
    forEach left (fun r t => match r with
      | .heat b => startHeat t b
      | _ => t) { s with recovery := [] }
  else s

/-- Ring 0 (R584): the headers of the selected instances, as committed. -/
def ring0Record (s : State) : State :=
  let sel := (List.range 256).filter (fun i => rdb s .telFsel (i / 32) (i % 32))
  if ringOn s 0 && !sel.isEmpty then
    ringRecord s 0 1 ((sel.map (fun i => bytesOf 8 (instAt s i).header.toNat)).flatten)
  else s

/-- Recovery starts. -/
def startRecovery (s : State) : State :=
  let is := inOrder (instances s)
  let s1 := forEach (is.filter (fun i => clsOf s i == some .stroke)) recoverOne s
  let s2 := forEach is restorePlaced s1
  prepareDue (finishRegatta (ring0Record (runHeats (listDma (listMirrors (listCkpts s2))))))

/-- FAULT_N releases at a finish edge in Run when nothing holds it (R598, R610). -/
def releasePin (s : State) : State := if s.holding.isEmpty then drivePin s false else s

/-- The finish edge in Run. -/
def finishRun (s : State) : State :=
  let s1 := missLimits (forEach (inOrder (instances s)) commitRecord s)
  let s2 := releasePin (sendFrames (releaseLines (finishStops s1)))
  startRecovery { s2 with firstFinish := true, phase := .recovery }

/-- The finish edge. Before Run only the frames of R127 leave. -/
def execFinish (s : State) : Host.Outcome State Fault Refusal :=
  if !ticking s || s.phase != .cutoff || decide (strokeNs s < finishNs s) then unchanged s
  else if s.run then .next (finishRun s)
  else .next (runHeats { sendFrames (ignoreClears s) with phase := .recovery })

/-- The bundles of mirror cycles go on once the checkpoints of the recovery are done (R27). -/
def mirrorsGo (s : State) : State :=
  if s.run && oplOn s && !s.recovery.any isCkpt then startBundles s else s

/-- A checkpoint copy completes in its recovery (R383). -/
def execCheckpointComplete (inst : Fin 256) (slot : Fin 64) (s : State) : Host.Outcome State Fault Refusal :=
  let r := RecItem.checkpoint inst.val slot.val
  if s.phase == .recovery && ticking s && s.recovery.contains r then
    .next (runHeats (mirrorsGo (takeCkpt { s with recovery := s.recovery.filter (· != r) } inst.val slot.val)))
  else unchanged s

/-- A mirror cycle starts, after the checkpoints (R27, R536). -/
def execMirrorCycle (chan : Fin 64) (s : State) : Host.Outcome State Fault Refusal :=
  let r := RecItem.mirror chan.val
  if s.phase == .recovery && ticking s && s.recovery.contains r && !s.recovery.any isCkpt then
    .next (runHeats (beginMirror { s with recovery := s.recovery.filter (· != r) } chan.val))
  else unchanged s

/-- The 50 ms slot of a bank: its heat starts in a recovery, after the work before it (R27, R501). -/
def execHeatSlot (b : Fin 4) (s : State) : Host.Outcome State Fault Refusal :=
  if s.recovery.contains (.heat b.val) then unchanged s
  else .next (runHeats { s with recovery := s.recovery ++ [.heat b.val] })

/-! ## Bridge parity (R72) -/

/-- A parity error on a frame word: the frame is invalid (R125). In the catch phase the words are those of the latched frame
(R20); later they are those of the frame received last (assumption 114). -/
def parityFrame (s : State) (n : Nat) : State := if s.phase == .catch_ then dropLatched s n else dropNewest s n

def execBridgeParityError (w : BridgeWord) (s : State) : Host.Outcome State Fault Refusal :=
  match w with
  | .sample c => .next (senseParity (parityWord s c.val))
  | .frame n => .next (senseParity (parityFrame s n.val))
  | .bank b => .next (photonicParity s b.val)

end Sys2Proof.Machine
end

