-- ==== Sys2Proof/Machine/StartUp.lean ====
section
/-! DEFINITION. Power, reset and the twelve start-up stages (06_start_up.md; 05_boathouse_image.md R171 to R173), entry
into Run, and what else acts on the device as a whole: the Cox lockstep, HBM_FAIL, the end of long services, AVSBus and
the island clocks. The lists of a stage take effect at its entry; the rest of its work is one step, taken at its end
(assumption 40). -/

namespace Sys2Proof.Machine

/-! ## Stages and their lines (R188, R189) -/

def bootMs (s : State) : Nat := (s.now - s.resetAt) / 1000000

/-- The UART line of a stage. -/
def stageLine (s : State) (n code : Nat) : State := uartPut s (.stage n code (bootMs s))

def enterStage (s : State) (n : Nat) : State := stageLine { wrf s .pwrBoot 0 3 0 n with stageAt := s.now } n 0

/-- A stage ends: PWR_STAGEn takes its duration. -/
def leaveStage (s : State) (n code : Nat) : State :=
  let us := Nat.min ((s.now - s.stageAt) / 1000) (2 ^ 24 - 1)
  stageLine (if 3 ≤ n ∧ n ≤ 11 then wrf s .pwrStage (n - 3) 23 0 us else s) n code

/-- The device stays where it is until reset. -/
def bootFail (s : State) (n code : Nat) : State :=
  { wrf (leaveStage s n code) .pwrBoot 0 15 12 n with stuck := true }

/-- Start-up may run stage `n`. -/
def canBoot (s : State) (n : Nat) : Bool :=
  stageOf s == n && !s.inReset && !s.stuck && !s.refLost && !s.run && !coxHalted s

/-! ## Fallback (R172, R173, R194) -/

/-- The blocks that a slot's lists configure, but for STP: the stop lines stay asserted until the other slot's stage 10
(R147, R172); sticky flags stay too. -/
def listBlock (b : Block) : Bool := [Block.stk, .sns, .axl, .rfx, .thm, .opl, .svc, .chg].contains b

/-- What Cox undoes before it checks the other slot: the configuration and everything that followed from it. -/
def undoSlot (s : State) : State :=
  let keep (k : RegKey) : Bool := !listBlock (regDesc k.1).blk || (regDesc k.1).acc == .w1c || k.1 == .stkSyncErr
  let s1 := { resetRegs keep s with
    img := none, contentKey := none, admitted := false, timerOn := false, phase := .catch_, acqRun := 0
    lockNs := 0, edges := [], edgeAt := none, everLocked := false, earlyEdge := false, lateEdge := false, syncOut := false, recovery := [], ckptWait := []
    chans := [], staged := [], words := [], lateWords := [], mclkFlt := [], cal := none, calEnd := none, ofsLoaded := []
    ofsPending := none, links := [], claiming := false, linksUp := false, insts := [], allot := [], ctxs := []
    sculls := s.sculls.map (fun e => (e.1, { e.2 with windows := [] })) |>.filter (fun e => e.2 != Scull.reset)
    banks := [], ports := [], rchans := [], mirrors := [] }
  let s2 := wrf (wrf (wrf s1 .coxStat 0 2 0 0) .imgStat 0 2 0 0) .imgStat 0 31 8 0
  let s3 := endCode (endCode (wr (wr s2 .imgBuild 0 0) .imgBuild 1 0) cAxlHandshake) cStrokeSyncLost
  if s3.driven then assertAllLines s3 else s3

/-- Cox re-enters ROM with the other slot. -/
def backToRom (s : State) : State := enterStage { undoSlot s with bootSlot := 1 - s.bootSlot } 4

/-- TRIES: slots checked since reset. -/
def tries (s : State) : Nat := rdf s .pwrBoot 0 11 8

/-- The word of IMG_FAIL. -/
def failWord (f : SlotFail) : Word := BitVec.ofNat 32 (f.step % 16 * 2 ^ 28 + f.sect % 1024 * 2 ^ 16 + f.code % 2 ^ 16)

/-- Record that a slot failed: from an outcome on, the IMG registers show their contents (R181). -/
def recordFail (s : State) (k : Nat) (f : SlotFail) : State :=
  { flag (wr s .imgFail k (failWord f)) .imgSticky 0 1 with imgShown := true }

/-- The UART reports both failure records (R173). -/
def reportSlots (s : State) : State := forEach [0, 1] (fun k t => uartPut t (.record k (rd t .imgFail k))) s

/-- The code of a slot that fails is raised. -/
def raiseSlot (k : Nat) (f : SlotFail) (s : State) : State := raise s f.code scSlot k ((failWord f).zeroExtend 64)

/-- IMG_NONE beside the codes of slots that fail in the same event, in ascending order (R610). -/
def raiseNone (f : SlotFail) (ks : List Nat) (s : State) : State :=
  let none (t : State) : State := raiseNow t cImgNone scDevice 0
  let slots (t : State) : State := forEach ks (fun k u => raiseSlot k f u) t
  if f.code < cImgNone then none (slots s) else slots (none s)

/-- The slot under check fails in stage `n`: the other slot is checked, or IMG_NONE. -/
def slotFail (s : State) (n : Nat) (f : SlotFail) : State :=
  let s1 := recordFail s s.bootSlot f
  if tries s < 2 then backToRom (wrf (leaveStage (raiseSlot s.bootSlot f s1) n f.code) .pwrBoot 0 15 12 n)
  else bootFail (reportSlots (raiseNone f [s.bootSlot] s1)) n f.code

/-- The slot under check fails admission (R194). WRONG_STATE is recorded and is no raised code. -/
def admitFail (s : State) : State :=
  let s1 := recordFail s s.bootSlot ⟨9, cWrongState, 0⟩
  if tries s < 2 then backToRom (wrf (leaveStage s1 11 cWrongState) .pwrBoot 0 15 12 11)
  else
    let tray := (List.range 16).any (fun u => !live s1 u) || allBanks.any (fun b => bankState s1 b == 2)
    let c := if tray then cReplaceTray else cAdmitFail
    bootFail (raiseNow s1 c scDevice 0) 11 c

/-- Apply a list at a stage; a CFG_REJ flag fails the slot at step 8 (R190). -/
def withList (s : State) (n sectType : Nat) (l : List RegLoad) (k : State → State) : State :=
  match applyList s l with
  | (t, false) => k t
  | (t, true) => slotFail t n ⟨8, cImgCfg, sectIndex (image s) sectType⟩

/-! ## Entry to a stage (R147, R181, R190, R191) -/

/-- The stroke timer starts (R191), at STK_PERIOD; in master mode lock is to STK_REFCLK at once. -/
def startTimer (s : State) : State :=
  let m := rdb s .stkCfg 0 0
  let s1 := { s with timerOn := true, catchAt := s.now, phase := .catch_, lockNs := periodNs s, edges := [], acqRun := 0 }
  wrb (wrb s1 .stkStatus 0 3 m) .stkStatus 0 0 m

/-- The AXL and STP lists have taken effect: roles follow ROLE, and every enabled stop line is driven and asserted, HOLD
taken as met. -/
def startLinks (s : State) : State :=
  let s1 := forEach ((List.range 12).filter (linkOn s)) (fun n t => wrb t .axlStat n 2 (!rdb t .axlTray 0 8)) s
  let s2 := forEach (List.range 12) (fun n t => updLine t n (fun l => { l with met := true })) s1
  { assertAllLines s2 with linksUp := true, driven := true }

/-- The STP block as at reset, for a list to follow: what a slot that failed has left there (R172). -/
def clearStp (s : State) : State := { resetRegs (fun k => k.1 != .stpCfg && k.1 != .stpState) s with lines := [] }

/-- The lists of a stage, applied at its entry, and what starts with them. A slot is in force once the last has been applied
(R181). -/
def stageLists (s : State) (n : Nat) : State :=
  let g := image s
  match n with
  | 8 => withList s 8 tAxis (g.axisList.filter (fun e => e.k == 0)) (fun t => withList t 8 tSense g.snsList startTimer)
  | 9 => withList s 9 tRfx g.rfxList (fun t => withList t 9 tOpl g.oplList id)
  | 10 => withList (clearStp s) 10 tAxis (g.axisList.filter (fun e => e.k != 0)) startLinks
  | 11 => withList s 11 tSched g.svcList (fun t => showImage t (image t))
  | _ => s

/-- Stage `n` ends and the next is entered; its lists come next. -/
def stageEntered (s : State) (n : Nat) : State := enterStage (leaveStage s n 0) (n + 1)

/-- Stage `n` ends and the next is entered with its lists. -/
def nextStage (s : State) (n : Nat) : State := stageLists (stageEntered s n) (n + 1)

/-! ## Power and reset (R182 to R187, R204, R605, R613, R621) -/

/-- The device in reset: only what outlives a reset stays, among it the rails and PWR_STICKY. -/
def inResetState (s : State) : State :=
  { State.reset with
    pending := s.pending, now := s.now, free := s.free, mem := s.mem, poisoned := s.poisoned
    regs := s.regs.filter (fun e => e.1.1 == .pwrSticky || e.1.1 == .pwrRail), everInRange := s.everInRange
    inReset := true, fuses := s.fuses, flash := s.flash, jtagIr := s.jtagIr, viepeLow := s.viepeLow, vddMv := s.vddMv }

/-- RST_N low for 10 µs (R621). -/
def execRstNAssert (s : State) : Host.Outcome State Fault Refusal :=
  .next { inResetState s with railReset := s.railReset && s.inReset }

/-- RST_N rises, or internal reset would end, with the rails of `good` in range (bit n: rail n of PWR_RAIL). While a rail of
groups 1 to 4 is out, the device stays in reset (R184). Else SLOT_SEL is sampled, RAIL_DROP is raised when a rail had left
its range (R186, R613), and Cox ROM starts: stage 2 ends at once. -/
def execResetRelease (pins : ReleasePins) (s : State) : Host.Outcome State Fault Refusal :=
  let slotSel := pins.slotSel
  let good := pins.good
  if !s.inReset then unchanged s
  else
    let s0 := wrf s .pwrRail 0 8 0 good.toNat
    if good ≠ 0x1FF#9 then .next s0
    else
      let s1 := { s0 with inReset := false, everInRange := true, railReset := false, resetAt := s.now }
      let s2 := wrb { s1 with bootSlot := if slotSel then 1 else 0 } .imgStat 0 3 slotSel
      let s3 := if s.railReset then raiseNow s2 cRailDrop scDevice 0 else s2
      .next (enterStage s3 3)

/-- A rail leaves its range. In groups 1 to 4 the stop lines assert, RAIL_DROP is raised in Run, and internal reset follows;
VHTR and VIEPE do not gate reset (R185). -/
def execRailOutOfRange (rail : Fin 11) (s : State) : Host.Outcome State Fault Refusal :=
  let n := rail.val
  if n = 9 then execVhtrLoss s
  else if n = 10 then execViepeLow s
  else
    let s1 := flag (wrb s .pwrRail 0 n false) .pwrSticky 0 1
    let s2 := if s1.run then raiseNow (assertAllLines s1) cRailDrop scDevice 0 else s1
    .next { inResetState s2 with railReset := s.railReset || (s.everInRange && !s.inReset) }

/-- Group of a rail of PWR_RAIL (R182). -/
def railGroup (n : Nat) : Nat :=
  if n < 2 then 2 else if n < 5 then 3 else if n < 7 then 1 else if n < 9 then 4 else 5

/-- Rails reach 90 % in group order. -/
def inGroupOrder : List (Fin 11) → Bool
  | a :: b :: l => decide (railGroup a.val ≤ railGroup b.val) && inGroupOrder (b :: l)
  | _ => true

/-- The rails first ramp: PWR_STICKY starts clear, and SEQ_ERR records a wrong order. Contents of memory are open; the model
keeps them, and stage 6 zeroes them. -/
def execPowerOn (order : List (Fin 11)) (s : State) : Host.Outcome State Fault Refusal :=
  let s1 := { inResetState s with regs := [], everInRange := false, jtagIr := 0xFF, viepeLow := !order.contains 10, vddMv := 800 }
  let s2 := forEach order (fun r t => wrb t .pwrRail 0 r.val true) s1
  .next (if inGroupOrder order then s2 else flag s2 .pwrSticky 0 0)

/-! ## Stage 3 (R187, R189, R223) -/

/-- Stage 3 ends: the self-tests, and the CRC of every fuse field (R223, R242). From stage 2, where State.reset stands, it is
entered first. -/
def execCoxRom (r : RomResult) (s : State) : Host.Outcome State Fault Refusal :=
  if !canBoot s 2 && !canBoot s 3 then unchanged s
  else
    let s1 := if stageOf s = 2 then enterStage s 3 else s
    match r, fusesOk s.fuses with
    | .lockstep, _ => .next (bootFail (raiseNow s1 cCoxLockstep scDevice 0) 3 cCoxLockstep)
    | .fuse, _ => .next (bootFail (raiseNow s1 cFuseErr scDevice 0) 3 cFuseErr)
    | .pass, false => .next (bootFail (raiseNow s1 cFuseErr scDevice 0) 3 cFuseErr)
    | .pass, true => .next (endCode (nextStage s1 3) cRailDrop)

/-! ## Stages 4 and 5 (R150, R171, R179, R225 to R227) -/

/-- A flash read is retried (R179). -/
def retryRead (s : State) : State := flag (bump s .imgRdCnt 0) .imgSticky 0 0

/-- Both slots fail at flash bring-up (R150, R173). -/
def bringUpFail (s : State) (code : Nat) : State :=
  let f : SlotFail := ⟨0, code, 0⟩
  bootFail (reportSlots (raiseNone f [0, 1] (forEach [0, 1] (fun k t => recordFail t k f) s))) 4 code

/-- The flash is up: IMG_FLASH shows it, TRIES counts the slot, and PROVISION shows a provisioning boot. -/
def bringUp (s : State) : State :=
  let s1 := wr s .imgFlash 0 (BitVec.ofNat 32 (s.flash.maker % 256 * 256 + Nat.min 30 s.flash.densLog2))
  wrb (wrf s1 .pwrBoot 0 11 8 (tries s1 + 1)) .coxStat 0 6 (s.fuses.builderHash.blank || rdb s .coxStat 0 6)

/-- Stage 4: the flash is brought up, and the header, section table and SEC of the slot are checked. -/
def execHeaderVerify (s : State) : Host.Outcome State Fault Refusal :=
  if !canBoot s 4 then unchanged s
  else if !s.flash.answers then .next (bringUpFail (retryRead s) cFlashRead)
  else if s.flash.densLog2 < 27 || !s.flash.octal then .next (bringUpFail s cFlashSize)
  else match verifyHeader (bringUp s) s.bootSlot with
    | .inl f => .next (slotFail (bringUp s) 4 f)
    | .inr g => .next (nextStage { bringUp s with img := some g } 4)

/-- The KEK that the provisioning record carries, when it is present and unwraps (R226; assumption 122). -/
def recordKek (s : State) (p : List Byte) : Option (List Byte) :=
  if zeros p 0 136 then none
  else (provisioningKey s.fuses.priv.val (slice p 0 96) s.fuses.serial.val).bind (fun k => keyUnwrap k (slice p 96 40))

/-- What a provisioning boot blows, each field with its CRC (R227). -/
def provision (s : State) : State :=
  let p := (image s).provisioning
  let f := s.fuses
  { s with fuses := { f with
    builderHash := .blow (sha384 (image s).builderKey)
    kek := match recordKek s p with | some k => .blow k | none => f.kek
    dbgOff := if field p 136 1 = 1 then .blow [1] else f.dbgOff } }

/-- The builder key hash reads back wrong: what was blown does not fit its CRC (assumption 122). -/
def blownWrong (s : State) : State :=
  { s with fuses := { s.fuses with builderHash := { s.fuses.builderHash with crc := ~~~s.fuses.builderHash.crc } } }

/-- Stage 5: the COX section is verified and takes over; a provisioning boot blows its fuses and reads them back. A stage 6
that has passed is not run again. -/
def execCoxSection (readback : Bool) (s : State) : Host.Outcome State Fault Refusal :=
  if !canBoot s 5 then unchanged s
  else match verifyCox s (image s) with
    | .inl f => .next (slotFail s 5 f)
    | .inr g =>
      let s1 := wrf { s with img := some g } .coxStat 0 2 0 1
      let fresh := s.fuses.builderHash.blank
      let s2 := if fresh then provision s1 else s1
      if fresh && !readback then .next (bootFail (raiseNow (blownWrong s2) cFuseErr scDevice 0) 5 cFuseErr)
      else if s2.hbmTrained then .next (enterStage (leaveStage s2 5 0) 7)
      else .next (nextStage s2 5)

/-! ## Stages 6 and 7 (R197, R198, R277, R309, R361, R457) -/

/-- The check values of R345. -/
def tableCrc : List Nat := [0x5A1E93C7, 0x0D6B44F2, 0xE3A91B58, 0x71C40E2D, 0x9B3F6A10, 0x26D8C5E9, 0xC40E7B36, 0x3E97D184]

/-- Self-test: memory and register files are zero, the engines empty, SFU_CRC holds the check values. -/
def selfTest (s : State) : State :=
  let s1 := { s with mem := [], poisoned := [], ctxs := [], sculls := [] }
  forEach (List.range 16) (fun u t => forEach tableCrc.zipIdx (fun e r => wr r .sfuCrc (8 * u + e.2) (BitVec.ofNat 32 e.1)) t) s1

/-- Stage 6: `fails0` and `fails1` say how often the training of each stack failed, `bist` which sculls fail self-test. -/
def execHbmTraining (fails0 fails1 : Nat) (bist : BitVec 16) (s : State) : Host.Outcome State Fault Refusal :=
  if !canBoot s 6 then unchanged s
  else if 2 ≤ fails0 || 2 ≤ fails1 then .next (bootFail (raiseNow s cHbmTrain scDevice 0) 6 cHbmTrain)
  else
    let s1 := forEach (maskList bist) (fun u t => fenceScull t u cScullBist none) { selfTest s with hbmTrained := true }
    .next (nextStage s1 6)

/-- The image of the slot is whole, staged, and its tables are built. -/
def imageLoaded (s : State) (g : Image) : State :=
  loadImage { s with img := some g, contentKey := contentKeyOf (kekOf s) g }

/-- Stage 7: every other section is read, checked and staged, and the tables are built. -/
def execImageRead (s : State) : Host.Outcome State Fault Refusal :=
  if !canBoot s 7 then unchanged s
  else match readImage s (kekOf s) (image s) with
    | .inl f => .next (slotFail s 7 f)
    | .inr g => .next (nextStage (imageLoaded s g) 7)

/-- Steps of R171 that read the flash in stage `n`. -/
def readsIn (n step : Nat) : Bool :=
  if n = 4 then decide (1 ≤ step ∧ step ≤ 3) else if n = 5 then step == 5 else if n = 7 then step == 7 else false

/-- A flash read times out (R179, R180), that of the SFDP as step 0: the first time it is retried; the second fails the slot,
or both, or ends the changeover that reads it; in the check of ARC_ADVANCE the other slot would fail (R229). -/
def execFlashReadTimeout (second : Bool) (step : Fin 9) (sect : Fin 1024) (s : State) : Host.Outcome State Fault Refusal :=
  let n := stageOf s
  let bringUp := canBoot s 4 && step.val == 0
  let booting := canBoot s n && readsIn n step.val
  let changing := s.run && s.chg.active && !s.chg.staged && (readsIn 4 step.val || step.val == 5 || step.val == 7)
  let arc := s.long.filter (fun l => arcChecks l && (readsIn 4 step.val || readsIn 5 step.val))
  let f : SlotFail := ⟨step.val, cFlashRead, sect.val⟩
  if arc.isSome && second then .next (match arc with | some l => endLong s l cArcNoFallback [] | none => s)
  else if arc.isSome then .next (retryRead s)
  else if !bringUp && !booting && !changing then unchanged s
  else if !second then .next (retryRead s)
  else if bringUp then .next (bringUpFail s cFlashRead)
  else if booting then .next (slotFail s n f)
  else .next (failTarget s f)

/-! ## Stages 8 and 9 (R112, R190 to R192, R199, R512, R551) -/

/-- The calibrations of stage 8: a channel whose internal reference fails carries OPEN until reset (R607), and the bias that
each IEPE calibration publishes is an open value. -/
def calibrate (failed : BitVec 64) (s : State) : State :=
  let s1 := { s with ofsLoaded := (List.range 48).foldl (fun t c => Tab.set id (fun _ => (0 : Word)) c (rd s .snsModOfs c) t) [] }
  let s2 := forEach ((List.range 64).filter (fun c => !isMod c && chanOn s c && failed.getLsbD c)) (fun c t =>
    raiseNow (updChan t c (fun x => { x with failed := true })) cSenseCal scSense c) s1
  let s3 := forEach ((List.range 8).filter (fun v => iepeOn s (56 + v))) (fun v t =>
    let (w, t1) := freshWord t
    wrf t1 .snsVibBias v 15 0 w.toNat) s2
  forEach (List.range 8) (fun v t => openIfLow t (56 + v)) s3

/-- Stage 8 ends with the calibrations. -/
def execSenseCalibration (failed : BitVec 64) (s : State) : Host.Outcome State Fault Refusal :=
  if !canBoot s 8 then unchanged s else .next (nextStage (calibrate failed s) 8)

/-- The optical ports at the end of stage 9: lanes whose first heat failed are marked, the rest make the maps. -/
def warmPort (w : Warmup) (p : Nat) (s : State) : State :=
  let failed := (w.oplFail.filter (fun e => e.1.val == p)).map (fun e => e.2.val)
  let s1 := forEach failed (fun l t => flag t .oplPLane p l) s
  let s2 := updPort s1 p (fun x => { x with heatedAt := (List.range 10).foldl (fun t l => Tab.set id zeroDefault l s.now t) [] })
  let s3 := setMap (setMap s2 true p (firstMap s2 true p)) false p (firstMap s2 false p)
  if w.lightL then setPortState (wrf s3 .oplPStat p 15 8 0xFF) p 1 else wrf s3 .oplPStat p 15 8 0xFF

/-- The regatta at the end of stage 9, when the image configures one. -/
def warmRegatta (w : Warmup) (s : State) : State :=
  if oplOn s then setAlive (forEach [0, 1] (warmPort w) s) 0 else s

/-- The work of stage 9: heaters, first heats and ports; light that is absent is recorded as LIGHT_LOSS. -/
def warmUp (w : Warmup) (s : State) : State :=
  let s0 := { s with lightX := w.lightX, lightL := w.lightL }
  let s1 := if w.lightX && w.lightL then s0 else raiseNow s0 cLightLoss scDevice 0
  warmRegatta w (forEach allBanks (fun b t => warmBank t w b) s1)

/-- Stage 9 ends with its work. -/
def execPhotonicWarmup (w : Warmup) (s : State) : Host.Outcome State Fault Refusal :=
  if !canBoot s 9 then unchanged s else .next (nextStage (warmUp w s) 9)

/-! ## Stage 10 (R46, R200, R201) -/

/-- The bound of stage 10 in ns. -/
def handshakeBound (s : State) : Nat := Nat.max 50000000 (6 * periodNs s)

/-- The links that are enabled and not in RUN. -/
def linksDown (s : State) : List Nat := (List.range 12).filter (fun n => linkOn s n && linkState s n != 3)

/-- Stage 10 ends when the stroke is locked and every enabled link is in RUN or the bound has passed; each link that is not
in RUN raises AXL_HANDSHAKE. A level 2 grant holds start-up there (R241). -/
def endHandshake (s : State) : State :=
  let expired := decide (s.stageAt + handshakeBound s ≤ s.now)
  if !s.linksUp || !rdb s .stkStatus 0 0 || !((linksDown s).isEmpty || expired) then s
  else
    let s1 := forEach (linksDown s) (fun n t => raiseNow t cAxlHandshake scLink n) s
    if s1.debugHold then { leaveStage s1 10 0 with stuck := true } else nextStage s1 10

/-- Stage 10 ends as `endHandshake` says. -/
def execAxisLinkHandshake (s : State) : Host.Outcome State Fault Refusal :=
  if !canBoot s 10 then unchanged s else .next (endHandshake s)

/-- The bound of stage 10 passes. -/
def execHandshakeBoundExpiry (s : State) : Host.Outcome State Fault Refusal :=
  if canBoot s 10 && decide (s.stageAt + handshakeBound s ≤ s.now) then .next (endHandshake s) else unchanged s

/-- LOCKED still clear 2,000 ms after stage 10 began: STROKE_SYNC_LOST, and start-up keeps waiting. -/
def execSyncLockTimeout (s : State) : Host.Outcome State Fault Refusal :=
  if canBoot s 10 && slave s && !rdb s .stkStatus 0 0 && decide (s.stageAt + 2000000000 ≤ s.now)
      && !s.holding.contains cStrokeSyncLost then
    .next (raiseNow s cStrokeSyncLost scDevice 0)
  else unchanged s

/-! ## Stage 11 (R194, R464, R481) -/

/-- Place every instance, with its windows, scratchpad regions and slots. -/
def placeImage (s : State) : State :=
  let ps := placeAll s
  let s1 := relayWindows (takePlaces (showPlacement s ps true) ps)
  forEach (instances s1) (fun i t => copySpad t i) s1

/-- Stage 11 ends with the admission check. -/
def execAdmission (s : State) : Host.Outcome State Fault Refusal :=
  if !canBoot s 11 || s.admitted || s.debugHold then unchanged s
  else if admits s then .next { leaveStage (placeImage s) 11 0 with admitted := true }
  else .next (admitFail (showPlacement s (placeAll s) false))

/-! ## Stage 12: Run (R193, R74, R113, R391, R421) -/

/-- Contexts that start at their ENTRY records. -/
def entryCtxs (s : State) : List Nat := (List.range 64).filter (fun c => ctxMask s c != 0)

/-- The stern core starts at its ENTRY record. -/
def startStern (s : State) : State :=
  match (image s).crew.find? (fun r => r.context == 64 && r.attr / 4 % 2 == 1) with
  | some e => putCtx s (ctxKey 16 0) { Ctx.reset with released := true, pc := BitVec.ofNat 64 e.vaddr }
  | none => s

/-- Every instance holds the header EPOCH, and each slot its CARRY contents. -/
def startInst (i : Nat) (s : State) : State :=
  let e := (image s).epoch % 256
  fillSlots (updInst s i (fun x => { x with epoch := e, payloadEpoch := e })) i

/-- RUN rises: PWR_BOOT, the Cox state and vector 11. -/
def riseRun (s : State) : State :=
  let ms := Nat.min (bootMs s) 65535
  let s1 := enterStage { s with run := true, ctxs := [] } 12
  fireVector (wrb (wrf (wrf s1 .pwrBoot 0 31 16 ms) .coxStat 0 2 0 2) .coxStat 0 6 false) 11

/-- A scull fenced between stage 11 and Run: its instances are fenced at the first catch (R603). -/
def fenceEarly (s : State) : State :=
  match s.readmit with
  | some r => forEach ((instances s).filter (fun i => (maskOf s i &&& r.sculls) != 0)) (fun i t => fenceInst t i) s
  | none => s

/-- The first catch edge after stage 11 passes starts stroke 0. -/
def execRunEntry (s : State) : Host.Outcome State Fault Refusal :=
  if !canBoot s 11 || !s.admitted || s.debugHold || !catchDue s then unchanged s
  else
    let s1 := fenceEarly (forEach (instances s) startInst (riseRun s))
    let s2 := restartChannels (doCatch s1 false false)
    let s3 := forEach (entryCtxs s2) (fun c t => releaseEntry t c) (startStern s2)
    .next { s3 with readmit := s3.readmit.map (fun r => { r with since := s3.now }) }

/-! ## Loss of STK_REFCLK (R45, R205) -/

/-- Catch edges stop, STK_PHASE and STK_COUNT freeze, and every enabled stop line is asserted. Before Run start-up stops in the
stage it is in. -/
def execRefclkLoss (s : State) : Host.Outcome State Fault Refusal :=
  if s.refLost || s.inReset then unchanged s
  else
    let s1 := { s with refLost := true, timerOn := false, lossNs := if s.timerOn then strokeNs s else 0 }
    let s2 := assertAllLines (raiseNow (flag s1 .stkSticky 0 5) cStkRefLost scDevice 0)
    .next (if s.run || s.stuck then s2 else bootFail s2 (stageOf s) cStkRefLost)

/-! ## Cox halts (R240) -/

/-- A re-admission under way does not complete: what has not been released on its new sculls stays unplaced. -/
def stopReadmit (s : State) : State :=
  let hit := (instances s).filter (fun i =>
    let x := instAt s i
    x.restoreDue || x.waitCatch || (x.placed && (match s.readmit with
      | some r => (x.mask &&& r.sculls) != 0
      | none => false)))
  forEach hit (fun i t => leaveUnplaced t i) { s with readmit := none }

/-- A lockstep mismatch: Cox halts until reset. Before Run start-up stops with it. -/
def execCoxLockstepMismatch (s : State) : Host.Outcome State Fault Refusal :=
  if s.inReset || coxHalted s then unchanged s
  else
    let s0 := raiseNow s cCoxLockstep scDevice 0
    let s1 := wrb (if s.run || s.stuck then s0 else bootFail s0 (stageOf s) cCoxLockstep) .coxStat 0 3 true
    let s2 := causeRollback s1 cCoxLockstep
    .next (stopReadmit (if s2.sternRestart then raiseNow { s2 with sternRestart := false } cSternHalt scDevice 0 else s2))

/-! ## HBM_FAIL (R456, R602) -/

/-- MEM_UE_ADDR of a stack. -/
def ueAddr (s : State) (k : Nat) : DWord := BitVec.ofNat 64 ((rd s .memUeAddrLo k).toNat + 2 ^ 32 * (rd s .memUeAddrHi k).toNat)

/-- A stack fails: every REFLEX, STROKE and GUARD instance with pinned data on it is FENCED until reset, and REPLACE_TRAY
follows. Granules alternate between the stacks (R60), so pinned pages lie on both. -/
def execHbmFail (stack : Fin 2) (s : State) : Host.Outcome State Fault Refusal :=
  let s1 := raise s cHbmFail scStack stack.val (ueAddr s stack.val)
  let hit := (instances s1).filter (hbmFenced s1)
  .next (replaceTray (forEach hit (fun i t => fenceInst t i) s1))

/-! ## Long services (R215) -/

/-- The changeover moves on: verification ends, or comparison and admission do (R552, R554, R555). -/
def chgProgress (s : State) : State :=
  if chgPhase s = 1 then chgVerified s else if chgPhase s = 2 then chgCompared s else s

/-- A long service finishes its last step. FENCE_SCULL ends with its re-admission, a changeover with its commit or rollback;
`ok` says whether readback agreed. -/
def execLongServiceComplete (ok : Bool) (s : State) : Host.Outcome State Fault Refusal :=
  if coxHalted s then unchanged s
  else match s.long with
    | some l =>
      if l.service = svFlashErase ∨ l.service = svFlashWrite then .next (endFlash s l ok)
      else if l.service = svArcAdvance then .next (endArc s l ok)
      else if l.service = svDbgResponse then .next (endDebug s l)
      else if l.service = svCtxRestart then .next (endRestart s l)
      else if l.service = svChgStart then .next (chgProgress s)
      else unchanged s
    | none => if s.chg.active then .next (chgProgress s) else unchanged s

/-! ## Island clocks (R47 to R49, R504, R617, R618) -/

/-- Every adaptive island at its floor. -/
def allFloors (s : State) : State := { resetRegs (fun k => k.1 != .sclClk) s with sternMhz := 500 }

/-- The peak that THM_THROT allows at a temperature in 1/16 °C. -/
def peakAllowed (s : State) (t : Int) (floor peak mhz : Nat) : Bool :=
  let a : Int := (rdf s .thmThrot 0 15 8 : Nat)
  let b : Int := (rdf s .thmThrot 0 7 0 : Nat)
  decide (floor ≤ mhz ∧ mhz ≤ peak)
    && (decide (t ≤ a * 16) || mhz == floor
      || (decide (t < b * 16) && decide (((peak : Int) - floor) * (t - a * 16) ≤ ((peak : Int) - mhz) * ((b - a) * 16))))

/-- An island may run at `mhz`: between its floor and the peak it is allowed (R47, R504). Fixed islands never scale. Of the
islands only the array islands have a sensor that a register shows. -/
def clockOk (s : State) (isl : Island) (mhz : Nat) : Bool :=
  match isl with
  | .array u => peakAllowed s (signed 16 (rdf s .thmTemp (16 + u.val) 15 0)) 800 1250 mhz
  | .sequencer _ => decide (640 ≤ mhz ∧ mhz ≤ 1000)
  | .scratchpad _ => decide (640 ≤ mhz ∧ mhz ≤ 1000)
  | .stern => decide (500 ≤ mhz ∧ mhz ≤ 800)
  | .cox => false
  | .slice _ => false
  | .scheduler => false
  | .strokeTimer => false

/-- Clock of an adaptive island in MHz. -/
def clockOf (s : State) (isl : Island) : Nat :=
  match isl with
  | .array u => rdf s .sclClk u.val 31 21
  | .sequencer u => rdf s .sclClk u.val 20 10
  | .scratchpad u => rdf s .sclClk u.val 9 0
  | .stern => s.sternMhz
  | .cox => 400
  | .slice _ => 800
  | .scheduler => 500
  | .strokeTimer => 1000

/-- An adaptive island takes a clock. -/
def setClock (s : State) (isl : Island) (mhz : Nat) : State :=
  match isl with
  | .array u => wrf s .sclClk u.val 31 21 mhz
  | .sequencer u => wrf s .sclClk u.val 20 10 mhz
  | .scratchpad u => wrf s .sclClk u.val 9 0 mhz
  | .stern => { s with sternMhz := mhz }
  | .cox => s
  | .slice _ => s
  | .scheduler => s
  | .strokeTimer => s

/-- VDD_CORE is commanded in steps of 5 mV from 0.72 V to 0.85 V (R617). -/
def voltageOk (mv : Nat) : Bool := decide (720 ≤ mv ∧ mv ≤ 850) && mv % 5 == 0

/-- An adaptive island changes its clock, the device commanding VDD_CORE `mv` with it (R47 to R49, R504, R617, R639): a lower
clock comes before a lower voltage is asked for; a higher one waits for the regulator to complete a higher voltage, and
none is raised while a voltage change is in flight. None scales before Run or after AVSBus has failed. -/
def execIslandFrequencyChange (isl : Island) (ask : ClockAsk) (s : State) : Host.Outcome State Fault Refusal :=
  let mhz := ask.mhz
  let mv := ask.mv
  if !s.run || s.avsDead || !clockOk s isl mhz || !voltageOk mv then unchanged s
  else if mhz ≤ clockOf s isl then
    let s1 := setClock s isl mhz
    .next (if s.avsChange.isNone && mv != s.vddMv then { s1 with avsChange := some mv } else s1)
  else if s.avsChange.isSome || decide (mv < s.vddMv) then unchanged s
  else if mv = s.vddMv then .next (setClock s isl mhz)
  else .next { s with avsChange := some mv, avsRaise := some (isl, mhz) }

/-- The regulator reports completion: the voltage is in force, and the clock that waited for it is raised. -/
def voltageDone (s : State) : State :=
  let s1 := { s with avsFails := 0, vddMv := s.avsChange.getD s.vddMv, avsChange := none, avsRaise := none }
  match s.avsRaise with
  | some (isl, mhz) => if clockOk s isl mhz then setClock s1 isl mhz else s1
  | none => s1

/-- An AVSBus transaction is answered, or fails: after the third failure no further command is sent (R618). -/
def execAvsbusReply (ok : Bool) (s : State) : Host.Outcome State Fault Refusal :=
  if s.avsDead || stageOf s < 6 then unchanged s
  else if ok then .next (voltageDone s)
  else if s.avsFails < 2 then .next { s with avsFails := s.avsFails + 1 }
  else .next { allFloors s with avsDead := true, avsChange := none, avsRaise := none }

end Sys2Proof.Machine
end

