-- ==== Sys2Proof/Machine/Dispatch.lean ====
section
/-! DEFINITION. The meaning of every command: one arm per row of the opcode table. -/

namespace Sys2Proof.Machine

def exec (i : Instr) (s : State) : Host.Outcome State Fault Refusal :=
  match i with
  | .registerWrite rq addr bytes val => Sys2Proof.Machine.execRegisterWrite rq addr bytes val s
  | .stkCountLoRead rq => Sys2Proof.Machine.execStkCountLoRead rq s
  | .oplRsLoRead rq => Sys2Proof.Machine.execOplRsLoRead rq s
  | .catchEdge => Sys2Proof.Machine.execCatchEdge s
  | .strokeSyncEdge rising => Sys2Proof.Machine.execStrokeSyncEdge rising s
  | .syncWindowClose => Sys2Proof.Machine.execSyncWindowClose s
  | .driveStart => Sys2Proof.Machine.execDriveStart s
  | .commitCutoff => Sys2Proof.Machine.execCommitCutoff s
  | .finish => Sys2Proof.Machine.execFinish s
  | .checkpointComplete inst slot => Sys2Proof.Machine.execCheckpointComplete inst slot s
  | .refclkLoss => Sys2Proof.Machine.execRefclkLoss s
  | .crossingTimeout target => Sys2Proof.Machine.execCrossingTimeout target s
  | .islandFloor isl => Sys2Proof.Machine.execIslandFloor isl s
  | .islandFrequencyChange isl ask => Sys2Proof.Machine.execIslandFrequencyChange isl ask s
  | .bridgeParityError w => Sys2Proof.Machine.execBridgeParityError w s
  | .sampleOutput chan k smp => Sys2Proof.Machine.execSampleOutput chan k smp s
  | .lateWordArrival chan => Sys2Proof.Machine.execLateWordArrival chan s
  | .iepeBiasReading v mv => Sys2Proof.Machine.execIepeBiasReading v mv s
  | .calCurrentOffset rq chan => Sys2Proof.Machine.execCalCurrentOffset rq chan s
  | .calIepe rq chan => Sys2Proof.Machine.execCalIepe rq chan s
  | .calOffsetWindowEnd => Sys2Proof.Machine.execCalOffsetWindowEnd s
  | .calIepeDone mv => Sys2Proof.Machine.execCalIepeDone mv s
  | .mclkReadbackFault g => Sys2Proof.Machine.execMclkReadbackFault g s
  | .viepeLow => Sys2Proof.Machine.execViepeLow s
  | .linkAligned n => Sys2Proof.Machine.execLinkAligned n s
  | .downstreamData n frame => Sys2Proof.Machine.execDownstreamData n frame s
  | .downstreamHello n frame => Sys2Proof.Machine.execDownstreamHello n frame s
  | .linkToRun n => Sys2Proof.Machine.execLinkToRun n s
  | .linkLost n => Sys2Proof.Machine.execLinkLost n s
  | .claim => Sys2Proof.Machine.execClaim s
  | .stopReadbackFault n => Sys2Proof.Machine.execStopReadbackFault n s
  | .rstNAssert => Sys2Proof.Machine.execRstNAssert s
  | .resetRelease pins => Sys2Proof.Machine.execResetRelease pins s
  | .railOutOfRange rail => Sys2Proof.Machine.execRailOutOfRange rail s
  | .vhtrLoss => Sys2Proof.Machine.execVhtrLoss s
  | .perstN => Sys2Proof.Machine.execPerstN s
  | .coxRom r => Sys2Proof.Machine.execCoxRom r s
  | .headerVerify => Sys2Proof.Machine.execHeaderVerify s
  | .coxSection readback => Sys2Proof.Machine.execCoxSection readback s
  | .hbmTraining fails0 fails1 bist => Sys2Proof.Machine.execHbmTraining fails0 fails1 bist s
  | .imageRead => Sys2Proof.Machine.execImageRead s
  | .flashReadTimeout second step sect => Sys2Proof.Machine.execFlashReadTimeout second step sect s
  | .senseCalibration failed => Sys2Proof.Machine.execSenseCalibration failed s
  | .photonicWarmup w => Sys2Proof.Machine.execPhotonicWarmup w s
  | .axisLinkHandshake => Sys2Proof.Machine.execAxisLinkHandshake s
  | .handshakeBoundExpiry => Sys2Proof.Machine.execHandshakeBoundExpiry s
  | .syncLockTimeout => Sys2Proof.Machine.execSyncLockTimeout s
  | .admission => Sys2Proof.Machine.execAdmission s
  | .runEntry => Sys2Proof.Machine.execRunEntry s
  | .mailboxRequestWrite rq m idx val => Sys2Proof.Machine.execMailboxRequestWrite rq m idx val s
  | .doorbell rq m => Sys2Proof.Machine.execDoorbell rq m s
  | .ack rq m => Sys2Proof.Machine.execAck rq m s
  | .mailboxOpenTimeout m => Sys2Proof.Machine.execMailboxOpenTimeout m s
  | .mailboxDoneTimeout m => Sys2Proof.Machine.execMailboxDoneTimeout m s
  | .takeRequest => Sys2Proof.Machine.execTakeRequest s
  | .info => Sys2Proof.Machine.execInfo s
  | .ptMap => Sys2Proof.Machine.execPtMap s
  | .ptUnmap => Sys2Proof.Machine.execPtUnmap s
  | .flashErase => Sys2Proof.Machine.execFlashErase s
  | .flashWrite => Sys2Proof.Machine.execFlashWrite s
  | .chgStart => Sys2Proof.Machine.execChgStart s
  | .arcAdvance => Sys2Proof.Machine.execArcAdvance s
  | .fenceScull => Sys2Proof.Machine.execFenceScull s
  | .ctxRestart => Sys2Proof.Machine.execCtxRestart s
  | .dbgChallenge => Sys2Proof.Machine.execDbgChallenge s
  | .dbgResponse => Sys2Proof.Machine.execDbgResponse s
  | .dbgEnd => Sys2Proof.Machine.execDbgEnd s
  | .challengeExpiry => Sys2Proof.Machine.execChallengeExpiry s
  | .coxLockstepMismatch => Sys2Proof.Machine.execCoxLockstepMismatch s
  | .aliveTick => Sys2Proof.Machine.execAliveTick s
  | .alu u w => Sys2Proof.Machine.execAlu u w s
  | .alui u w => Sys2Proof.Machine.execAlui u w s
  | .li u w => Sys2Proof.Machine.execLi u w s
  | .ld u w ecc => Sys2Proof.Machine.execLd u w ecc s
  | .st u w => Sys2Proof.Machine.execSt u w s
  | .fop u w => Sys2Proof.Machine.execFop u w s
  | .br u w => Sys2Proof.Machine.execBr u w s
  | .jmp u w => Sys2Proof.Machine.execJmp u w s
  | .call u w => Sys2Proof.Machine.execCall u w s
  | .ret u w => Sys2Proof.Machine.execRet u w s
  | .rett u w => Sys2Proof.Machine.execRett u w s
  | .trap u w => Sys2Proof.Machine.execTrap u w s
  | .fence u w => Sys2Proof.Machine.execFence u w s
  | .crr u w => Sys2Proof.Machine.execCrr u w s
  | .cwr u w => Sys2Proof.Machine.execCwr u w s
  | .wspill u w => Sys2Proof.Machine.execWspill u w s
  | .wfill u w => Sys2Proof.Machine.execWfill u w s
  | .done u w stop stopOuts => Sys2Proof.Machine.execDone u w stop stopOuts s
  | .brk u w => Sys2Proof.Machine.execBrk u w s
  | .dmaGo u w => Sys2Proof.Machine.execDmaGo u w s
  | .dmaWait u w => Sys2Proof.Machine.execDmaWait u w s
  | .dmaStat u w => Sys2Proof.Machine.execDmaStat u w s
  | .arrMm u w => Sys2Proof.Machine.execArrMm u w s
  | .arrWld u w => Sys2Proof.Machine.execArrWld u w s
  | .arrSwp u w => Sys2Proof.Machine.execArrSwp u w s
  | .tLd u w => Sys2Proof.Machine.execTLd u w s
  | .tSt u w => Sys2Proof.Machine.execTSt u w s
  | .tClr u w => Sys2Proof.Machine.execTClr u w s
  | .schMv u w => Sys2Proof.Machine.execSchMv u w s
  | .valu u w => Sys2Proof.Machine.execValu u w s
  | .vfma u w => Sys2Proof.Machine.execVfma u w s
  | .vld u w ecc => Sys2Proof.Machine.execVld u w ecc s
  | .vst u w => Sys2Proof.Machine.execVst u w s
  | .vcvt u w => Sys2Proof.Machine.execVcvt u w s
  | .vamaxScale u w => Sys2Proof.Machine.execVamaxScale u w s
  | .vrel u w => Sys2Proof.Machine.execVrel u w s
  | .sfu u w => Sys2Proof.Machine.execSfu u w s
  | .vstat u w => Sys2Proof.Machine.execVstat u w s
  | .vmaxr u w => Sys2Proof.Machine.execVmaxr u w s
  | .vexps u w => Sys2Proof.Machine.execVexps u w s
  | .vcorr u w => Sys2Proof.Machine.execVcorr u w s
  | .scnRun u w => Sys2Proof.Machine.execScnRun u w s
  | .scnLd u w => Sys2Proof.Machine.execScnLd u w s
  | .scnSt u w => Sys2Proof.Machine.execScnSt u w s
  | .cRel u w => Sys2Proof.Machine.execCRel u w s
  | .mvVc u w => Sys2Proof.Machine.execMvVc u w s
  | .mvCv u w => Sys2Proof.Machine.execMvCv u w s
  | .mvGv u w => Sys2Proof.Machine.execMvGv u w s
  | .mvVg u w => Sys2Proof.Machine.execMvVg u w s
  | .engineComplete sc e err => Sys2Proof.Machine.execEngineComplete sc e err s
  | .trapEntry u err => Sys2Proof.Machine.execTrapEntry u err s
  | .trapEntryTimeout sc => Sys2Proof.Machine.execTrapEntryTimeout sc s
  | .preemption sc => Sys2Proof.Machine.execPreemption sc s
  | .contextSwitch e => Sys2Proof.Machine.execContextSwitch e s
  | .contextResume e => Sys2Proof.Machine.execContextResume e s
  | .engineHang sc e => Sys2Proof.Machine.execEngineHang sc e s
  | .scanHang sc => Sys2Proof.Machine.execScanHang sc s
  | .dmaChannelTimeout sc ch => Sys2Proof.Machine.execDmaChannelTimeout sc ch s
  | .reflexJob b => Sys2Proof.Machine.execReflexJob b s
  | .scanChunkComplete e => Sys2Proof.Machine.execScanChunkComplete e s
  | .dmaComplete u e => Sys2Proof.Machine.execDmaComplete u e s
  | .dmaGranuleFault u e => Sys2Proof.Machine.execDmaGranuleFault u e s
  | .patrolScrub addr ecc => Sys2Proof.Machine.execPatrolScrub addr ecc s
  | .hbmFail stack => Sys2Proof.Machine.execHbmFail stack s
  | .reflexRelease inst => Sys2Proof.Machine.execReflexRelease inst s
  | .guardEventTaken inst => Sys2Proof.Machine.execGuardEventTaken inst s
  | .guardHorizonExpiry inst => Sys2Proof.Machine.execGuardHorizonExpiry inst s
  | .trendFrameDue inst => Sys2Proof.Machine.execTrendFrameDue inst s
  | .trendFrameShed inst => Sys2Proof.Machine.execTrendFrameShed inst s
  | .strokeBudgetExhausted sc => Sys2Proof.Machine.execStrokeBudgetExhausted sc s
  | .bankPass b dev pilotLow => Sys2Proof.Machine.execBankPass b dev pilotLow s
  | .goStore b go => Sys2Proof.Machine.execGoStore b go s
  | .lightXLoss => Sys2Proof.Machine.execLightXLoss s
  | .heatSlot b => Sys2Proof.Machine.execHeatSlot b s
  | .heatAgeExpiry b lane => Sys2Proof.Machine.execHeatAgeExpiry b lane s
  | .probePass b dev => Sys2Proof.Machine.execProbePass b dev s
  | .heaterLoopUpdate b row t0 t1 t2 t3 obs => Sys2Proof.Machine.execHeaterLoopUpdate b row t0 t1 t2 t3 obs s
  | .heaterFault b lane => Sys2Proof.Machine.execHeaterFault b lane s
  | .laneSettleExpiry b => Sys2Proof.Machine.execLaneSettleExpiry b s
  | .retuneSettleExpiry b => Sys2Proof.Machine.execRetuneSettleExpiry b s
  | .overTemperature sensor temp => Sys2Proof.Machine.execOverTemperature sensor temp s
  | .oplLaneFailure p lane => Sys2Proof.Machine.execOplLaneFailure p lane s
  | .laneMessage p msg => Sys2Proof.Machine.execLaneMessage p msg s
  | .strokeMessageSend => Sys2Proof.Machine.execStrokeMessageSend s
  | .strokeMessage p msg => Sys2Proof.Machine.execStrokeMessage p msg s
  | .helloMessage p msg => Sys2Proof.Machine.execHelloMessage p msg s
  | .heartbeatMiss member => Sys2Proof.Machine.execHeartbeatMiss member s
  | .bundle p bytes => Sys2Proof.Machine.execBundle p bytes s
  | .bundleResend p => Sys2Proof.Machine.execBundleResend p s
  | .oplLaneHeat p lane => Sys2Proof.Machine.execOplLaneHeat p lane s
  | .portDown p => Sys2Proof.Machine.execPortDown p s
  | .portRetrain p => Sys2Proof.Machine.execPortRetrain p s
  | .lightLLoss => Sys2Proof.Machine.execLightLLoss s
  | .slipEntry => Sys2Proof.Machine.execSlipEntry s
  | .slipExit => Sys2Proof.Machine.execSlipExit s
  | .mirrorCycle chan => Sys2Proof.Machine.execMirrorCycle chan s
  | .chgReqPin => Sys2Proof.Machine.execChgReqPin s
  | .groupSwitch g => Sys2Proof.Machine.execGroupSwitch g s
  | .changeoverCommit => Sys2Proof.Machine.execChangeoverCommit s
  | .changeoverTimeout => Sys2Proof.Machine.execChangeoverTimeout s
  | .changeoverRollback => Sys2Proof.Machine.execChangeoverRollback s
  | .hostAccess bar off bytes write => Sys2Proof.Machine.execHostAccess bar off bytes write s
  | .hstReqProd val => Sys2Proof.Machine.execHstReqProd val s
  | .requestWindowClose => Sys2Proof.Machine.execRequestWindowClose s
  | .hstRspPush rq => Sys2Proof.Machine.execHstRspPush rq s
  | .hstIrqSet rq val => Sys2Proof.Machine.execHstIrqSet rq val s
  | .telRingCons r val => Sys2Proof.Machine.execTelRingCons r val s
  | .telRingProd rq r val => Sys2Proof.Machine.execTelRingProd rq r val s
  | .telCfg rq val => Sys2Proof.Machine.execTelCfg rq val s
  | .msixIdleTimer r => Sys2Proof.Machine.execMsixIdleTimer r s
  | .msixSpacingEnd v => Sys2Proof.Machine.execMsixSpacingEnd v s
  | .msixUnmask v => Sys2Proof.Machine.execMsixUnmask v s
  | .hostReadTimeout => Sys2Proof.Machine.execHostReadTimeout s
  | .jtagInstruction ir => Sys2Proof.Machine.execJtagInstruction ir s
  | .pcieLinkUp speed width => Sys2Proof.Machine.execPcieLinkUp speed width s
  | .readmissionComplete => Sys2Proof.Machine.execReadmissionComplete s
  | .avsbusReply ok => Sys2Proof.Machine.execAvsbusReply ok s
  | .powerOn order => Sys2Proof.Machine.execPowerOn order s
  | .vhtrReturn => Sys2Proof.Machine.execVhtrReturn s
  | .viepeReturn => Sys2Proof.Machine.execViepeReturn s
  | .lightXReturn => Sys2Proof.Machine.execLightXReturn s
  | .lightLReturn => Sys2Proof.Machine.execLightLReturn s
  | .oplLanesLocked p => Sys2Proof.Machine.execOplLanesLocked p s
  | .codeError n => Sys2Proof.Machine.execCodeError n s
  | .longServiceComplete ok => Sys2Proof.Machine.execLongServiceComplete ok s
  | .changeoverStaged => Sys2Proof.Machine.execChangeoverStaged s
  | .bankHeatTimer b obs => Sys2Proof.Machine.execBankHeatTimer b obs s
  | .oplHeatTimer p obs => Sys2Proof.Machine.execOplHeatTimer p obs s
  | .uartLineSent => Sys2Proof.Machine.execUartLineSent s
  | .pcieLinkDown => Sys2Proof.Machine.execPcieLinkDown s
  | .scanFeedStaged sc => Sys2Proof.Machine.execScanFeedStaged sc s

end Sys2Proof.Machine
end

