-- ==== Sys2Proof/Safety.lean ====
section
/-! DEFINITION. The terms in which statements about the block are put: the canonical form of the sparse parts of the
state, what a raised code leaves, and the frames of reporting. -/

namespace Sys2Proof.Machine

/-- Memory and poison marks are in canonical form. -/
def State.memWf (s : State) : Bool := Tab.wf id (fun _ => (0 : Byte)) s.mem && Tab.wf id (fun _ => false) s.poisoned

/-- The register store is in canonical form. -/
def State.regsWf (s : State) : Bool := Tab.wf regOrd regReset s.regs

/-- `t` is `s` but for the registers. -/
def regsOnly (s t : State) : Prop := { t with regs := s.regs } = s

/-- Every register but those in the list reads as before. -/
def regsKept (s t : State) (ks : List RegKey) : Prop := ∀ r i, (r, i) ∉ ks → rd t r i = rd s r i

/-- `t` is `s` but for the registers in the list. -/
def onlyRegs (s t : State) (ks : List RegKey) : Prop := regsOnly s t ∧ regsKept s t ks

/-- The registers whose writes have a rule of their own. -/
def ownRule : List Reg :=
  [.mbReq, .mbCtl, .snsCalReq, .hstIrqSet, .hstRspPush, .hstReqProd, .hstRspCons, .telCfg, .telBase, .telSize, .telProd,
   .telCons]

/-- Device address `a` lies in telemetry ring `r` (R581). -/
def inRing (s : State) (r a : Nat) : Prop :=
  telWin s + (rd s .telBase r).toNat ≤ a ∧ a < telWin s + (rd s .telBase r).toNat + ringSize s r * 64

/-- `t` is `s` but for what reporting writes: registers, ring 1 in memory, MSI-X, the FAULT_N pin, the codes that hold it
and the UART queue. -/
def reportOnly (s t : State) : Prop :=
  { t with
    regs := s.regs, mem := s.mem, poisoned := s.poisoned, pba := s.pba, msgAt := s.msgAt
    msgWaiting := s.msgWaiting, sentCount := s.sentCount, ringSeq := s.ringSeq, ringSince := s.ringSince
    pinFaultN := s.pinFaultN, holding := s.holding, uart := s.uart } = s

/-- The registers that reporting a code writes: FLT_LAST, FLT_FIRST, FLT_EVT_CNT, UART_LOST in FLT_STICKY, and the counts
of ring 1. -/
def reportKeys : List RegKey :=
  [(.fltLast, 0), (.fltFirst, 0), (.fltEvtCnt, 0), (.fltSticky, 0), (.telProd, 1), (.telDrop, 1)]

/-- `t` is `s` but for reporting and the registers in the list: memory outside ring 1 and FLT_STICKY but UART_LOST
included. -/
def reported (s t : State) (ks : List RegKey) : Prop :=
  reportOnly s t ∧ regsKept s t (reportKeys ++ ks) ∧ (∀ a, ¬ inRing s 1 a → mrd t a = mrd s a)
    ∧ (∀ n, n ≠ 4 → bget (rd t .fltSticky 0) n = bget (rd s .fltSticky 0) n)

/-- A counter of 32 bits after `n` more events: it saturates. -/
def counted (v : Word) (n : Nat) : Word := BitVec.ofNat 32 (Nat.min (v.toNat + n) (2 ^ 32 - 1))

/-- The code was raised once between `s` and `t`: FLT_LAST names it, FLT_EVT_CNT counts it, and a code that holds FAULT_N
is among the codes that hold it. -/
def wasRaised (s t : State) (code scope index : Nat) : Prop :=
  rd t .fltLast 0 = lastWord code scope index ∧ rd t .fltEvtCnt 0 = counted (rd s .fltEvtCnt 0) 1
    ∧ (holds code scope = true → code ∈ t.holding ∧ (code ∉ s.holding → t.pinFaultN = true))
    ∧ (holds code scope = false → t.holding = s.holding ∧ t.pinFaultN = s.pinFaultN ∧ t.uart = s.uart)

/-! ## Services of Cox -/

/-- The request for service `v` on mailbox `m` has been taken by a Cox that runs. -/
def served (s : State) (v m : Nat) : Prop := s.taken = some m ∧ reqService s m = v ∧ coxHalted s = false

/-- Mailbox `m` is DONE with a response (R213): SERVICE and TAG echoed, STATUS, the REQUESTER, WAIT, and RESULTS. -/
def answered (s t : State) (m status wait : Nat) (results : List Byte) : Prop :=
  mbState t m = 3 ∧ mbOwner t m = mbOwner s m ∧ t.taken = none ∧ (mboxAt t m).done = s.now
    ∧ fget (rd t .mbRsp (m * 16)) 15 0 = reqService s m ∧ fget (rd t .mbRsp (m * 16)) 31 16 = status
    ∧ rd t .mbRsp (m * 16 + 1) = BitVec.ofNat 32 (reqField s m 4 4)
    ∧ fget (rd t .mbRsp (m * 16 + 2)) 15 0 = mbOwner s m ∧ fget (rd t .mbRsp (m * 16 + 2)) 31 16 = wait
    ∧ rd t .mbRsp (m * 16 + 3) = 0
    ∧ ∀ i < 12, rd t .mbRsp (m * 16 + 4 + i) = BitVec.ofNat 32 (field results (4 * i) 4)

/-- `t` is `s` but for the answer on mailbox `m` and its interrupt. -/
def answerOnly (s t : State) (m : Nat) : Prop :=
  { t with
    regs := s.regs, mbox := s.mbox, taken := s.taken, pba := s.pba, msgAt := s.msgAt, msgWaiting := s.msgWaiting
    sentCount := s.sentCount } = s
    ∧ ∀ r i, ¬ (r = .mbStat ∧ i = m) → ¬ (r = .mbRsp ∧ i / 16 = m) → rd t r i = rd s r i

/-- The long service of mailbox `m` has started: no other state changes. -/
def longStarted (s t : State) (m : Nat) : Prop :=
  t.taken = none ∧ (∃ l, t.long = some l ∧ l.mailbox = m ∧ l.service = reqService s m ∧ l.requester = mbOwner s m
      ∧ l.args = reqBytes s m ∧ l.since = s.now)
    ∧ rd t .coxStat 0 = bput (rd s .coxStat 0) 7 true
    ∧ { t with regs := s.regs, taken := s.taken, long := s.long } = s ∧ regsKept s t [(.coxStat, 0)]

/-- Scull `u` is fenced with a code: not live, its code kept, its engines and its contexts' state gone. -/
def fenced (t : State) (u code : Nat) : Prop :=
  live t u = false ∧ rdf t .fltScull u 15 0 = code ∧ scullAt t u = Scull.reset ∧ ∀ c < 64, ctxAt t (ctxKey u c) = Ctx.reset

/-! ## Start-up -/

/-- The lists `l1` and then `l2` are applied without a CFG_REJ flag, and lead to `v`. -/
def takesLists (s : State) (l1 l2 : List RegLoad) (v : State) : Prop :=
  (applyList s l1).2 = false ∧ (applyList (applyList s l1).1 l2).2 = false ∧ v = (applyList (applyList s l1).1 l2).1

/-- The entries of the AXIS list that stage 8 applies (STK) and those of stage 10. -/
def axisLoads (s : State) (stk : Bool) : List RegLoad := (image s).axisList.filter (fun e => (e.k == 0) == stk)

/-! ## Instructions of the sequencers and the stern core -/

/-- Context `k` issues on unit `u`, no instruction waits to be issued again before its next one (in a handler the held set
waits for rett), the range scoreboard has room, and the fetch translates. -/
def mayRun (s : State) (u : Fin 17) (k : Nat) : Prop :=
  issuing s u.val = some k ∧ ((ctxAt s k).tw = true ∨ (ctxAt s k).held = []) ∧ (u.val = sternUnit ∨ rangesHeld s u.val < 32)
    ∧ (fetchFault s u.val k).2 = none

/-- And its next instruction, which reads the scalars `src` and writes `dst`, finds them legal, written by nothing in
flight, and not poisoned. -/
def ready (s : State) (u : Fin 17) (k : Nat) (src dst : List Nat) : Prop :=
  mayRun s u k ∧ (∀ n ∈ src ++ dst, n < 32)
    ∧ mayIssue s k (src.map (rnS (ctxAt s k))) (dst.map (rnS (ctxAt s k))) none none = true
    ∧ ∀ n ∈ src, (sGet (ctxAt s k) n).poison = false

/-- `t` is `s` but for context `k`, what a translation counts (MMU_MISS_CNT and the count of open values), and the registers
in the list. -/
def ctxOnly (s t : State) (k : Nat) (ks : List RegKey) : Prop :=
  { t with ctxs := s.ctxs, regs := s.regs, free := s.free } = s ∧ (∀ j, j ≠ k → ctxAt t j = ctxAt s j)
    ∧ regsKept s t ((.mmuMissCnt, 0) :: (.mmuMissCnt, 1) :: ks)

/-- `d` is `c` after an instruction that wrote scalar register `rd` and nothing else: the next PC and issue number. -/
def wrote (c d : Ctx) (rd : Nat) (v : Scalar) : Prop :=
  (∀ n < 32, sGet d n = if n = rd then v else sGet c n)
    ∧ (∀ j, j / 16 ≠ curWin c → Tab.get sDefault d.win j = Tab.get sDefault c.win j)
    ∧ d.pc = c.pc + 8 ∧ d.seqNo = c.seqNo + 1
    ∧ { d with g := c.g, win := c.win, pc := c.pc, seqNo := c.seqNo } = c

/-- `d` is `c` gone on at `pc`. -/
def wentTo (c d : Ctx) (pc : DWord) : Prop := d = { c with pc := pc, seqNo := c.seqNo + 1 }

/-- One more trap is due on context `k`, and nothing else has changed: its number, kind, detail words and resume PC. -/
def trapDue (s t : State) (k num : Nat) (kind : TrapKind) (details : List DWord) (rpc : Option DWord) : Prop :=
  (∃ d, (ctxAt t k).due = (ctxAt s k).due ++ [d] ∧ d.num = num ∧ d.kind = kind ∧ d.seq = (ctxAt s k).seqNo
      ∧ d.details = details ++ List.replicate (7 - details.length) 0 ∧ d.rpc = rpc ∧ d.again = none)
    ∧ { ctxAt t k with due := (ctxAt s k).due } = ctxAt s k ∧ ctxOnly s t k []

/-- The operations of alu and alui on 64-bit words; a shift by 64 or more has no stated result, and min and max are signed
(assumption 18). -/
def aluSpec (op : Nat) (a b : DWord) : Option DWord :=
  match op with
  | 0 => some (a + b)
  | 1 => some (a - b)
  | 2 => some (a &&& b)
  | 3 => some (a ||| b)
  | 4 => some (a ^^^ b)
  | 5 => if b.toNat < 64 then some (a <<< b.toNat) else none
  | 6 => if b.toNat < 64 then some (a >>> b.toNat) else none
  | 7 => if b.toNat < 64 then some (a.sshiftRight b.toNat) else none
  | 8 => some (a * b)
  | 9 => some (BitVec.ofInt 64 (a.toInt * b.toInt / 2 ^ 64))
  | 10 => some (BitVec.ofNat 64 (a.toNat * b.toNat / 2 ^ 64))
  | 11 => some (if a.sle b then a else b)
  | 12 => some (if a.sle b then b else a)
  | 13 => some (if a.slt b then 1 else 0)
  | 14 => some (if a.ult b then 1 else 0)
  | _ => some (if a = b then 1 else 0)

/-- The conditions of br. -/
def brSpec (op : Nat) (a b : DWord) : Bool :=
  match op with
  | 0 => a == 0
  | 1 => a != 0
  | 2 => a.slt 0
  | 3 => !a.slt 0
  | 4 => a.slt b
  | 5 => a.ult b
  | 6 => a == b
  | _ => a != b

/-- The table words that a walk of context address `va` reads. -/
def tableWords (s : State) (root va : Nat) : List Nat :=
  let a1 := root + 8 * (va / 2 ^ 21 % 32768)
  let e1 := entryAt s a1
  if pteV e1 && !pteLrg e1 then [a1, e1 / 256 % 2 ^ 40 * 256 + 8 * (va / 2 ^ 16 % 32)] else [a1]

/-- Context address `va` of context `k` on unit `u` is mapped by an unpoisoned table to device address `d` in HBM, with the
rights of entry `x`. -/
def mapsTo (s : State) (u : Fin 17) (k va d x : Nat) : Prop :=
  va < neverMapped ∧ (∃ size, walk s (rootOf s (eightOf u.val) (spaceOf k)) va = (some (x, size), false) ∧ leafAddr x size va = d)
    ∧ placeOf s d = .hbm

/-- The next instruction of context `k` finds its scalars `gs` legal, clean and not being written, room in the queue of its
engine, and no instruction in flight that meets its registers or ranges. -/
def issues (s : State) (u : Fin 17) (k : Nat) (e : Engine) (gs rs ws : List Nat) (rd wr : Option (Nat × Nat)) : Prop :=
  mayRun s u k ∧ (∀ n ∈ gs, n < 32 ∧ (sGet (ctxAt s k) n).poison = false)
    ∧ mayIssue s k (gs.map (rnS (ctxAt s k))) [] none none = true ∧ (queueOf (scullAt s u.val) e).length < queueDepth e
    ∧ mayIssue s k rs ws rd wr = true

/-- The `n` bytes at local offset `o` lie in the context's window, and `r` is their range of granules. -/
def localRange (s : State) (u : Fin 17) (k o n : Nat) (r : Option (Nat × Nat)) : Prop :=
  ∃ d, localAddr s u.val (k % 64) o n = some d ∧ r = some (granules d n)

/-- The range of granules that an instruction declares for the local range `x` (offset and length), if it has one. -/
def declares (s : State) (u : Fin 17) (k : Nat) (x r : Option (Nat × Nat)) : Prop :=
  match x with
  | some (o, n) => localRange s u k o n r
  | none => r = none

/-- What an instruction issued to engine `e` carries. -/
def carries (s : State) (k major : Nat) (w : BitVec 56) (e : Engine) (args : List DWord) (rd wr : Option (Nat × Nat))
    (q : QEntry) : Prop :=
  q.major = major ∧ q.w = w ∧ q.pc = (ctxAt s k).pc ∧ q.seq = (ctxAt s k).seqNo ∧ q.ctx = k % 64 ∧ q.args = args
    ∧ q.rd = rd ∧ q.wr = wr ∧ q.nte = (ctxAt s k).nte ∧ q.engine = e

/-- An instruction of major opcode `major` is issued to engine `e`: it is last in the queue, its context goes on, and
nothing else has changed. -/
def queued (s t : State) (u : Fin 17) (k major : Nat) (w : BitVec 56) (e : Engine) (args : List DWord)
    (rd wr : Option (Nat × Nat)) : Prop :=
  wentTo (ctxAt s k) (ctxAt t k) ((ctxAt s k).pc + 8) ∧ ctxOnly s { t with sculls := s.sculls } k []
    ∧ (∀ j, j ≠ u.val → scullAt t j = scullAt s j)
    ∧ ∃ q, scullAt t u.val = setQueue (scullAt s u.val) e (queueOf (scullAt s u.val) e ++ [q]) ∧ carries s k major w e args rd wr q

/-- Instruction `i` of major opcode `major`, which reads the scalars `gs` at issue, goes to engine `e` with its operands
`args`, its registers and its ranges. -/
def goesTo (i : Instr) (s : State) (u : Fin 17) (k major : Nat) (w : BitVec 56) (e : Engine) (gs : List Nat)
    (args : List DWord) (rs ws : List Nat) (rd wr : Option (Nat × Nat)) : Prop :=
  issues s u k e gs rs ws rd wr → ∃ t, exec i s = .next t ∧ queued s t u k major w e args rd wr

/-- The engine `e` of a live scull runs one instruction, alone in its queue, of major opcode `major`; the held set of the
context on the scull is empty. -/
def endsAlone (s : State) (u : Fin 16) (e : Engine) (major : Nat) (q : QEntry) : Prop :=
  e ≠ .dma ∧ queueOf (scullAt s u.val) e = [q] ∧ q.started = true ∧ q.major = major ∧ live s u.val = true
    ∧ ∀ j, runKey s u.val = some j → (ctxAt s j).held = []

/-- The queue of engine `e` is empty after it, and nothing has changed but its scull's `e` queue, context `k`, and the
registers in the list. -/
def completed (s t : State) (u : Fin 16) (e : Engine) (k : Nat) (ks : List RegKey) : Prop :=
  scullAt t u.val = setQueue (scullAt s u.val) e [] ∧ ctxOnly s { t with sculls := s.sculls } k ks
    ∧ ∀ j, j ≠ u.val → scullAt t j = scullAt s j

/-- The registers that count bank losses. -/
def lossKeys (l : List BankLoss) : List RegKey := (l.map (fun b => [(.sclBankConf, b.scull.val), (.sclSticky, b.scull.val)])).flatten

/-- The integer and logical operations of valu on one lane; a shift by 32 or more has no stated result. -/
def valuSpec (minor : Nat) (a b : Word) : Option Word :=
  match minor with
  | 5 => some (a &&& b)
  | 6 => some (a ||| b)
  | 7 => some (a ^^^ b)
  | 8 => if b.toNat < 32 then some (a <<< b.toNat) else none
  | 9 => if b.toNat < 32 then some (a >>> b.toNat) else none
  | 16 => some (a + b)
  | 17 => some (a - b)
  | 18 => some (a * b)
  | 19 => some (if a.sle b then a else b)
  | 20 => some (if a.sle b then b else a)
  | 21 => some (a &&& b)
  | 22 => some (a ||| b)
  | 23 => some (a ^^^ b)
  | 24 => if b.toNat < 32 then some (a <<< b.toNat) else none
  | 25 => if b.toNat < 32 then some (a >>> b.toNat) else none
  | 26 => some (if a.slt b then 1 else 0)
  | 27 => some (if a = b then 1 else 0)
  | _ => none

/-! ## Reflex banks -/

/-- Row `r` of a layer before its clamp (R484): the sum of weight × input, scaled, rounded to the nearest with ties to even,
plus the bias. -/
def rowSpec (l : Layer) (xs : List Int) (r : Nat) : Int :=
  roundEven (((List.range 32).map (fun i => l.weights.getD (32 * r + i) 0 * xs.getD i 0)).sum * 128)
    (127 * 127 * 2 ^ l.fsLog2) + l.bias.getD r 0

/-- The exact output code of row `r`. -/
def codeSpec (l : Layer) (xs : List Int) (r : Nat) : Int := clampInt (-128) 127 (rowSpec l xs r)

/-- The output code of row `r` that is `dev` codes away from the exact one. -/
def nearSpec (l : Layer) (xs dev : List Int) (r : Nat) : Int := clampInt (-128) 127 (codeSpec l xs r + dev.getD r 0)

/-- A row was clamped. -/
def overSpec (l : Layer) (xs : List Int) : Bool := (List.range 32).any (fun r => decide (rowSpec l xs r < -128 ∨ 127 < rowSpec l xs r))

/-- A row of `code` is more than 8 codes from the exact one. -/
def missSpec (l : Layer) (xs : List Int) (code : Nat → Int) : Bool :=
  (List.range 32).any (fun r => decide (8 < (codeSpec l xs r - code r).natAbs))

/-- An output granule stands at `a`: 32 codes, the status word, TS_NS and zeros (R485). -/
def granule (t : State) (a : Nat) (code : Nat → Int) (status ts : Nat) : Prop :=
  (∀ r < 32, mrd t (a + r) = BitVec.ofInt 8 (code r)) ∧ memRead t (a + 32) 8 = bytesOf 4 status ++ bytesOf 4 ts
    ∧ memRead t (a + 40) 24 = List.replicate 24 0

/-- Memory outside the `n` bytes at `a` reads as before. -/
def memKept (s t : State) (a n : Nat) : Prop := ∀ y, y < a ∨ a + n ≤ y → mrd t y = mrd s y

/-- `t` is `s` but for memory, the banks and the registers in the list. -/
def bankOnly (s t : State) (b : Nat) (ks : List RegKey) : Prop :=
  { t with regs := s.regs, mem := s.mem, poisoned := s.poisoned, banks := s.banks } = s ∧ regsKept s t ks
    ∧ ∀ j, j ≠ b → bankAt t j = bankAt s j

end Sys2Proof.Machine
end

