-- ==== Sys2Proof/WellFormed.lean ====
section
/-! DEFINITION. Which operands a command may carry: what the outside world can bring to the device at all. The
meanings are total and do not ask for it; statements name it where they need it. -/

namespace Sys2Proof

/-- A register or memory access is 1, 2, 4 or 8 bytes wide. -/
def wfWidth (n : Nat) : Bool := n == 1 || n == 2 || n == 4 || n == 8

/-- A device address has 48 bits (02_package_and_islands.md, Device address map). -/
def wfAddr (a : Nat) : Bool := decide (a < 2 ^ 48)

/-- A PCIe BAR is 0, 1 or 2 here (BAR 0, 2 and 4 of R575), and the offset lies inside it. -/
def wfBar (bar : Fin 3) (off : Nat) : Bool :=
  match bar.val with
  | 0 => decide (off < 0x200000)
  | 1 => decide (off < 0x4000000)
  | _ => decide (off < 0x200000)

/-- A message of a regatta lane is 64 bytes (R525). -/
def wfMessage (m : Message) : Bool := m.length == 64

/-- One deviation per output row of a reflex bank (R484). -/
def wfDev (d : List Int) : Bool := d.length == 32

/-- The activity of 16 logical sculls (R498). -/
def wfActivity (a : List (Fin 65537)) : Bool := a.length == 16

/-- A link receives at most 641 bytes of one frame (R140). -/
def wfFrame (f : List Byte) : Bool := decide (f.length ≤ 641)

/-- A value as a fraction of full scale needs a denominator. -/
def wfSample (smp : Sample) : Bool := decide (0 < smp.den)

/-- The rails, each once (R182). -/
def wfOrder (o : List (Fin 11)) : Bool := o.length == 11 && o.Nodup

/-- The checks of one command. -/
def Instr.wf : Instr → Bool
  | .registerWrite _ addr bytes _ => wfAddr addr && wfWidth bytes
  | .sampleOutput _ _ smp => wfSample smp
  | .downstreamData _ f => wfFrame f
  | .downstreamHello _ f => wfFrame f
  | .bankPass _ d _ => wfDev d
  | .probePass _ d => wfDev d
  | .heaterLoopUpdate _ _ _ _ _ _ o => wfActivity o.act
  | .laneMessage _ m => wfMessage m
  | .strokeMessage _ m => wfMessage m
  | .helloMessage _ m => wfMessage m
  | .hostAccess bar off bytes _ => wfBar bar off && wfWidth bytes
  | .patrolScrub addr _ => wfAddr addr
  | .powerOn order => wfOrder order
  | _ => true

end Sys2Proof
end

