-- ==== Sys2Proof/Certificates/Slice0/Obligations.lean ====
section
/-! DEFINITION. The statements about the block, for the provers: what each command does and what it leaves, what the
machine as a whole keeps. -/

open Sys2Proof Sys2Proof.Machine

/-! ## The queue and the step -/

/-- A step takes the command at the front of the queue and performs it with the rest of the queue; with nothing queued, one
nanosecond passes and nothing else (the idle step is the model's choice, assumption 3). -/
def Obligations.StepTakesTheFrontCommand : Prop :=
  (∀ (c : Instr) (s : State), step { s with pending := c :: s.pending } = exec c s)
    ∧ ∀ s : State, s.pending = [] → step s = .next { s with now := s.now + 1 }

/-- No command ends in a fault or a refusal, and none touches the queue. -/
def Obligations.EveryCommandCompletesAndLeavesTheQueue : Prop :=
  ∀ (c : Instr) (s : State), ∃ t, exec c s = .next t ∧ t.pending = s.pending

/-- From every state in which the register store and memory are in canonical form, every step leaves them so. -/
def Obligations.StepsKeepTheCanonicalForm : Prop :=
  ∀ s t : State, s.regsWf = true → s.memWf = true → step s = .next t → t.regsWf = true ∧ t.memWf = true

/-- The reset state: canonical, nothing queued, stage 2, FAULT_N asserted, RUN low, every mailbox free, memory empty, and
every register at the reset value of its chapter: zero but for those listed. -/
def Obligations.ResetState : Prop :=
  State.reset.regsWf = true ∧ State.reset.memWf = true ∧ State.reset.pending = [] ∧ State.reset.mem = []
    ∧ stageOf State.reset = 2 ∧ State.reset.pinFaultN = true ∧ State.reset.run = false
    ∧ (∀ m < 16, mbState State.reset m = 0)
    ∧ (let given : List (Reg × Word) :=
        [(Reg.stkPeriod, (0x3D09 : Word)), (.stkFinish, 0x9C4), (.stkSyncWin, 0xFA), (.idPart, 0x17216), (.idStep, 0x10),
        (.idScullCnt, 0x1110), (.idArrPerScull, 0x4), (.idArrShape, 0x1000080), (.idMemCfg, 0x20001021),
        (.idPhoton, 0xA2224), (.idAxlCnt, 0xC), (.idScullLive, 0xFFFF), (.idFloor, 0x2800320), (.idPeak, 0x3E804E2),
        (.snsModCfg, 0x160004), (.snsAeRate, 0x1), (.snsVibRate, 0x1), (.axlCfg, 0x4000000), (.stpCfg, 0x10000),
        (.pwrBoot, 0x2), (.mbStat, 0xFF00), (.sclClk, 0x640A0280), (.sfuTabVer, 0x1), (.rfxCfg, 0x4400040),
        (.rfxBankCfg, 0x1F000000), (.rfxBankStat, 0x3F000), (.thmThrot, 0x5F69), (.thmFfTau, 0x32), (.oplTime, 0x7D0),
        (.oplPStat, 0xFF00), (.oplPTxmap, 0xFFFFFFFF), (.oplPRxmap, 0xFFFFFFFF), (.hstId, 0x72160000),
        (.hstCfg, 0x10)]
       (∀ p ∈ given, ∀ i, rd State.reset p.1 i = p.2)
        ∧ ∀ r i, (regDesc r).view = false → (∀ p ∈ given, p.1 ≠ r) → rd State.reset r i = 0)
    ∧ regValue State.reset .fltStat 0 = 0x80000000
    ∧ ∀ u < 16, regValue State.reset .sclStat u = 0x40000000 ∧ regValue State.reset .seqStat u = 0x21

/-! ## Registers -/

/-- Every register of every block lies at one address of its own: its block's number and its offset lead back to it. -/
def Obligations.RegisterAddressesDecode : Prop :=
  ∀ (r : Reg) (i : Nat), i < dimsCount (regDesc r).dims →
    regAddr r i % 4 = 0 ∧ allBlocks[(regAddr r i - regBase) / 0x10000]? = some (regDesc r).blk
      ∧ regAt (regDesc r).blk ((regAddr r i - regBase) % 0x10000) = some (r, i)

/-- From Run on no register write, by any requester at any address, changes a register of access code RWL. -/
def Obligations.RunLocksRwlRegisters : Prop :=
  ∀ (rq : Requester) (a n : Nat) (v : DWord) (s : State), s.run = true →
    ∃ t, exec (.registerWrite rq a n v) s = .next t ∧ t.run = true
      ∧ ∀ r i, (regDesc r).acc = .rwl → rd t r i = rd s r i

/-- A write that reaches a register without a rule of its own acts by the register's access code: RO and WO keep their
contents, W1C clears where the value has ones, RW and RWL before Run take the defined bits when every field is in range
and otherwise keep their contents and set CFG_REJ; a 1 in a reserved bit sets RSVD_WR. Nothing else changes. -/
def Obligations.RegisterWriteByAccessCode : Prop :=
  ∀ (rq : Requester) (r : Reg) (i : Nat) (v : DWord) (s : State), rq ≠ .host → r ∉ ownRule → r ≠ .fltSticky →
    i < dimsCount (regDesc r).dims → busAllowed s rq (regAddr r i) 4 true ≠ none →
    let w : Word := v.truncate 32
    ∃ t, exec (.registerWrite rq (regAddr r i) 4 v) s = .next t
      ∧ ((regDesc r).acc = .ro → rd t r i = rd s r i ∧ onlyRegs s t [(.fltSticky, 0)])
      ∧ ((regDesc r).acc = .w1c → rd t r i = rd s r i &&& ~~~ w ∧ onlyRegs s t [(r, i), (.fltSticky, 0)])
      ∧ ((regDesc r).acc = .rw ∨ ((regDesc r).acc = .rwl ∧ s.run = false) →
          (rangeOk s r i (w &&& regMask r) = true →
            rd t r i = w &&& regMask r ∧ onlyRegs s t [(r, i), (.fltSticky, 0)])
          ∧ (rangeOk s r i (w &&& regMask r) = false →
            rd t r i = rd s r i ∧ t = rejectWrite (reservedCheck s r w) (regDesc r).blk))
      ∧ ((regDesc r).acc = .rwl ∧ s.run = true →
          rd t r i = rd s r i ∧ bget (rd t .fltSticky 0) 0 = true ∧ onlyRegs s t [(.fltSticky, 0)])
      ∧ bget (rd t .fltSticky 0) 1 = (bget (rd s .fltSticky 0) 1 || decide (w &&& ~~~ regMask r ≠ 0))

/-- A write by a requester other than the host that its rights or the map do not allow performs nothing and raises
ADDR_FAULT at the requester, whatever its width; an allowed one of another width or alignment is ignored and sets REG_ALIGN.
The host's refused write sets DENIED. -/
def Obligations.RefusedRegisterAccess : Prop :=
  (∀ rq a n v s, rq ≠ Requester.host → busAllowed s rq a n true = none →
    ∃ t, exec (.registerWrite rq a n v) s = .next t ∧ wasRaised s t cAddrFault scRequester (reqId rq) ∧ reported s t [])
  ∧ (∀ rq a n v s, rq ≠ Requester.host → busAllowed s rq a n true ≠ none → aligned32 a n = false →
    ∃ t, exec (.registerWrite rq a n v) s = .next t ∧ onlyRegs s t [(.fltSticky, 0)]
      ∧ rd t .fltSticky 0 = bput (rd s .fltSticky 0) 2 true)
  ∧ ∀ a n v s, busAllowed s .host a n true = none →
    ∃ t, exec (.registerWrite .host a n v) s = .next t ∧ onlyRegs s t [(.hstSticky, 0)]
      ∧ rd t .hstSticky 0 = bput (rd s .hstSticky 0) 0 true

/-- A read of STK_COUNT_LO returns the low half of the stroke number and snapshots the high half into STK_COUNT_HI, where a
read of STK_COUNT_HI finds it. -/
def Obligations.StrokeCountSnapshot : Prop :=
  ∀ (rq : Requester) (s : State), rq ≠ .jtag → (rq = .host → s.run = true) →
    ∃ t, exec (.stkCountLoRead rq) s = .next t
      ∧ t.rdData = (s.strokeNo.truncate 32 : Word).zeroExtend 64
      ∧ rd t .stkCountHi 0 = (s.strokeNo >>> 32).truncate 32
      ∧ regValue t .stkCountHi 0 = (s.strokeNo >>> 32).truncate 32
      ∧ { t with regs := s.regs, rdData := s.rdData, rdEp := s.rdEp } = s ∧ regsKept s t [(.stkCountHi, 0)]

/-- A read of OPL_RS_LO by the stern core, Cox or (in Run) the host returns the low half of the regatta stroke number and
snapshots the high half into OPL_RS_HI; a context's is refused with ADDR_FAULT. -/
def Obligations.RegattaStrokeSnapshot : Prop :=
  (∀ (rq : Requester) (s : State), rq = .stern ∨ rq = .cox ∨ (rq = .host ∧ s.run = true) →
    ∃ t, exec (.oplRsLoRead rq) s = .next t
      ∧ t.rdData = (BitVec.ofNat 32 (regattaStroke s)).zeroExtend 64
      ∧ rd t .oplRsHi 0 = BitVec.ofNat 32 (regattaStroke s / 2 ^ 32)
      ∧ { t with regs := s.regs, rdData := s.rdData, rdEp := s.rdEp } = s ∧ regsKept s t [(.oplRsHi, 0)])
  ∧ ∀ (c : Fin 64) (s : State), ∃ t, exec (.oplRsLoRead (.ctx c)) s = .next t ∧ t.rdData = 0
      ∧ wasRaised s t cAddrFault scRequester c.val ∧ reported s { t with rdData := s.rdData } []

/-! ## The host port -/

/-- What the host may reach: BAR 0 reads a register in Run, BAR 2 reads the telemetry window in Run, with EP set where a byte
of it is poisoned, the staging window of BAR 4 takes writes in Run, and a read that R203 or R208 does not allow, a read of
BAR 2 beyond the window and a write of BAR 2 read zero or do nothing and set DENIED. -/
def Obligations.HostAccess : Prop :=
  (∀ (r : Reg) (i : Nat) s, s.perst = false → rdb s .hstStat 0 31 = true → 4 ≤ stageOf s → s.run = true →
      i < dimsCount (regDesc r).dims → busAllowed s .host (regAddr r i) 4 false ≠ none → r ≠ .stkCountLo → r ≠ .oplRsLo →
    exec (.hostAccess 0 (regAddr r i - regBase) 4 none) s
      = .next { s with rdData := (regValue s r i).zeroExtend 64, rdEp := false })
  ∧ (∀ off n s, s.perst = false → rdb s .hstStat 0 31 = true → 4 ≤ stageOf s → s.run = true → off + n ≤ telBytes →
    ∃ t, exec (.hostAccess 1 off n none) s = .next t
      ∧ t.rdData = BitVec.ofNat 64 (natOf (memRead s (telWin s + off) n)) ∧ t.rdEp = poisonIn s (telWin s + off) n
      ∧ { t with regs := s.regs, rdData := s.rdData, rdEp := s.rdEp } = s ∧ regsKept s t [(.hstSticky, 0)]
      ∧ rd t .hstSticky 0 = (if poisonIn s (telWin s + off) n then bput (rd s .hstSticky 0) 4 true else rd s .hstSticky 0))
  ∧ (∀ off n (v : DWord) s, s.perst = false → rdb s .hstStat 0 31 = true → 4 ≤ stageOf s → s.run = true →
      off + n ≤ 0x100000 →
    ∃ t, exec (.hostAccess 2 off n (some v)) s = .next t ∧ { t with staging := s.staging } = s
      ∧ ∀ x, Tab.get memDefault t.staging x =
          if off ≤ x ∧ x < off + n then BitVec.ofNat 8 (v.toNat / 256 ^ (x - off)) else Tab.get memDefault s.staging x)
  ∧ (∀ off n s, s.perst = false → rdb s .hstStat 0 31 = true → 4 ≤ stageOf s →
      busAllowed s .host (regBase + off) n false = none →
    ∃ t, exec (.hostAccess 0 off n none) s = .next t ∧ t.rdData = 0
      ∧ { t with regs := s.regs, rdData := s.rdData, rdEp := s.rdEp } = s ∧ regsKept s t [(.hstSticky, 0)]
      ∧ rd t .hstSticky 0 = bput (rd s .hstSticky 0) 0 true)
  ∧ (∀ off n s, s.perst = false → rdb s .hstStat 0 31 = true → 4 ≤ stageOf s → telBytes < off + n →
    ∃ t, exec (.hostAccess 1 off n none) s = .next t ∧ t.rdData = 0
      ∧ { t with regs := s.regs, rdData := s.rdData, rdEp := s.rdEp } = s ∧ regsKept s t [(.hstSticky, 0)]
      ∧ rd t .hstSticky 0 = bput (rd s .hstSticky 0) 0 true)
  ∧ ∀ off n v s, s.perst = false → rdb s .hstStat 0 31 = true → 4 ≤ stageOf s →
    ∃ t, exec (.hostAccess 1 off n (some v)) s = .next t ∧ onlyRegs s t [(.hstSticky, 0)]
      ∧ rd t .hstSticky 0 = bput (rd s .hstSticky 0) 0 true

/-- One request slot that the host publishes: the port writes the mark of R578 into its bytes 2 and 3, opens a window of
1 ms at the first admitted request, and answers each non-zero mark itself with the request's TAG. -/
def Obligations.RequestMarks : Prop :=
  ∀ s : State, (rd s .hstReqProd 0 + 1 - rd s .hstReqCons 0).toNat ≤ 64 → rd s .hstReqProd 0 ≠ rd s .hstReqCons 0 - 1 →
    rd s .hstRspProd 0 - rd s .hstRspCons 0 ≠ 64 →
    let k := (rd s .hstReqProd 0).toNat % 64
    let mark := (markRequest s).1
    let slot := (rd s .hstRspProd 0).toNat % 64
    ∃ t, exec (.hstReqProd (rd s .hstReqProd 0 + 1)) s = .next t
      ∧ rd t .hstReqProd 0 = rd s .hstReqProd 0 + 1
      ∧ fget (rd t .hstReqRing (k * 16)) 31 16 = mark
      ∧ fget (rd t .hstReqRing (k * 16)) 15 0 = fget (rd s .hstReqRing (k * 16)) 15 0
      ∧ (s.run = false → mark = cWrongState)
      ∧ (s.run = true → rdf s .hstCfg 0 7 0 = 0 → mark = cNotPermitted)
      ∧ (s.run = true → rdf s .hstCfg 0 7 0 ≠ 0 → windowOpen s = true → rdf s .hstCfg 0 7 0 ≤ s.winCount → mark = cRetryAfter)
      ∧ (s.run = true → rdf s .hstCfg 0 7 0 ≠ 0 → windowOpen s = false → mark = 0 ∧ t.winOpen = some s.now ∧ t.winCount = 1)
      ∧ (mark = 0 → rd t .hstRspProd 0 = rd s .hstRspProd 0)
      ∧ (mark ≠ 0 → rd t .hstRspProd 0 = rd s .hstRspProd 0 + 1
          ∧ fget (rd t .hstRspRing (slot * 16)) 31 16 = mark
          ∧ rd t .hstRspRing (slot * 16 + 1) = rd s .hstReqRing (k * 16 + 1))
      ∧ t.mem = s.mem ∧ ∀ r i, r ≠ .hstReqRing → r ≠ .hstRspRing → r ≠ .hstReqProd → r ≠ .hstRspProd →
          rd t r i = rd s r i

/-- A push into the response ring copies the stage to slot PROD mod 64 and then counts PROD; a push that finds 64 entries is
dropped, sets RSP_FULL and is counted. A write of HST_IRQ_SET with one bit raises that bit's vector. A request window that
has lasted 1 ms closes. -/
def Obligations.ResponsePushAndInterrupts : Prop :=
  (∀ s : State, rd s .hstRspProd 0 - rd s .hstRspCons 0 ≠ 64 →
    ∃ t, exec (.hstRspPush .stern) s = .next t ∧ rd t .hstRspProd 0 = rd s .hstRspProd 0 + 1
      ∧ (∀ i < 16, rd t .hstRspRing ((rd s .hstRspProd 0).toNat % 64 * 16 + i) = rd s .hstRspStage i)
      ∧ reportOnly s t ∧ t.mem = s.mem
      ∧ ∀ r j, r ≠ .hstRspProd → (r ≠ .hstRspRing ∨ j / 16 ≠ (rd s .hstRspProd 0).toNat % 64) → rd t r j = rd s r j)
  ∧ (∀ s : State, rd s .hstRspProd 0 - rd s .hstRspCons 0 = 64 →
    ∃ t, exec (.hstRspPush .stern) s = .next t ∧ rd t .hstRspDrop 0 = counted (rd s .hstRspDrop 0) 1
      ∧ rd t .hstSticky 0 = bput (rd s .hstSticky 0) 1 true ∧ onlyRegs s t [(.hstRspDrop, 0), (.hstSticky, 0)])
  ∧ (∀ (j : Nat) (s : State), j < 20 → exec (.hstIrqSet .stern (1#32 <<< j)) s = .next (fireVector s (12 + j)))
  ∧ ∀ s x, s.winOpen = some x → x + 1000000 ≤ s.now →
    exec .requestWindowClose s = .next { s with winOpen := none, winCount := 0 }

/-- The MSI-X vectors: a masked vector records its message, one inside the spacing of 100 µs waits, and any other sends it and
opens the spacing. Unmasking sends what was recorded, the end of the spacing what waited, and 1 ms with units left a ring's. -/
def Obligations.InterruptVectors : Prop :=
  (∀ (v : Fin 32) (s : State), s.msgWaiting.getLsbD v.val = true → Tab.get zeroDefault s.msgAt v.val ≤ s.now →
    exec (.msixSpacingEnd v) s = .next (fireVector { s with msgWaiting := s.msgWaiting &&& ~~~ (1#32 <<< v.val) } v.val))
  ∧ (∀ (r : Fin 8) (s : State), ringUsed s r.val ≠ 0 → Tab.get zeroDefault s.ringSince r.val + 1000000 ≤ s.now →
    exec (.msixIdleTimer r) s = .next (fireVector s r.val))
  ∧ (∀ (v : Fin 32) (s : State), ∃ t, exec (.msixUnmask v) s = .next t ∧ msixMasked t v.val = false
      ∧ t.pba.getLsbD v.val = false ∧ t.regs = s.regs ∧ t.mem = s.mem
      ∧ (s.pba.getLsbD v.val = true → Tab.get zeroDefault s.msgAt v.val ≤ s.now →
          Tab.get zeroDefault t.sentCount v.val = Tab.get zeroDefault s.sentCount v.val + 1))
  ∧ ∀ (s : State) (v : Nat), v < 32 →
    (msixMasked s v = true → (fireVector s v).pba.getLsbD v = true ∧ (fireVector s v).sentCount = s.sentCount)
    ∧ (msixMasked s v = false → s.now < Tab.get zeroDefault s.msgAt v →
        (fireVector s v).msgWaiting.getLsbD v = true ∧ (fireVector s v).sentCount = s.sentCount)
    ∧ (msixMasked s v = false → Tab.get zeroDefault s.msgAt v ≤ s.now →
        Tab.get zeroDefault (fireVector s v).sentCount v = Tab.get zeroDefault s.sentCount v + 1
        ∧ Tab.get zeroDefault (fireVector s v).msgAt v = s.now + 100000)

/-- The counts of the telemetry rings: a CONS write up to PROD is taken and one beyond sets CONS_BAD, where a count lies
beyond another when it is less than 2^31 ahead of it (the model's choice, assumption 129); a PROD write of an
enabled crew ring is taken up to the ring's size and one beyond sets OVERRUN; enabling a ring that fits clears its counts. -/
def Obligations.TelemetryRingCounts : Prop :=
  (∀ (r : Fin 8) (v : Word) (s : State), v = rd s .telProd r.val ∨ 2 ^ 31 ≤ (v - rd s .telProd r.val).toNat →
    ∃ t, exec (.telRingCons r v) s = .next t ∧ rd t .telCons r.val = v
      ∧ { t with regs := s.regs, ringSince := s.ringSince } = s ∧ regsKept s t [(.telCons, r.val)])
  ∧ (∀ (r : Fin 8) (v : Word) (s : State), v ≠ rd s .telProd r.val → (v - rd s .telProd r.val).toNat < 2 ^ 31 →
    ∃ t, exec (.telRingCons r v) s = .next t ∧ rd t .telSticky 0 = bput (rd s .telSticky 0) 2 true
      ∧ onlyRegs s t [(.telSticky, 0)])
  ∧ (∀ (r : Fin 8) (v : Word) (s : State), 2 ≤ r.val → ringOn s r.val = true →
      (v - rd s .telCons r.val).toNat ≤ ringSize s r.val →
    ∃ t, exec (.telRingProd .stern r v) s = .next t ∧ rd t .telProd r.val = v ∧ reportOnly s t ∧ t.mem = s.mem
      ∧ regsKept s t [(.telProd, r.val)])
  ∧ (∀ (r : Fin 8) (v : Word) (s : State), 2 ≤ r.val → ringOn s r.val = true →
      ringSize s r.val < (v - rd s .telCons r.val).toNat →
    ∃ t, exec (.telRingProd .stern r v) s = .next t ∧ rd t .telSticky 0 = bput (rd s .telSticky 0) 0 true
      ∧ onlyRegs s t [(.telSticky, 0)])
  ∧ ∀ (r : Fin 8) (s : State), rd s .telCfg 0 = 0 → ringFits s r.val = true →
    ∃ t, exec (.telCfg .stern (1#32 <<< r.val)) s = .next t ∧ ringOn t r.val = true ∧ rd t .telProd r.val = 0
      ∧ rd t .telCons r.val = 0 ∧ Tab.get zeroDefault t.ringSeq r.val = 0
      ∧ { t with regs := s.regs, ringSeq := s.ringSeq } = s
      ∧ regsKept s t [(.telProd, r.val), (.telCons, r.val), (.telCfg, 0)]

/-- While RUN is high, EXTEST, CLAMP and HIGHZ are loaded as BYPASS and set JTAG_REFUSED; every other instruction code is
loaded as it is. -/
def Obligations.JtagInstructionsInRun : Prop :=
  (∀ (ir : BitVec 8) (s : State), s.run = true → ir = Config.irExtest ∨ ir = Config.irClamp ∨ ir = Config.irHighz →
    ∃ t, exec (.jtagInstruction ir) s = .next t ∧ t.jtagIr = 0xFF ∧ rd t .hstSticky 0 = bput (rd s .hstSticky 0) 2 true
      ∧ { t with regs := s.regs, jtagIr := s.jtagIr } = s ∧ regsKept s t [(.hstSticky, 0)])
  ∧ ∀ (ir : BitVec 8) (s : State), s.run = false ∨ (ir ≠ Config.irExtest ∧ ir ≠ Config.irClamp ∧ ir ≠ Config.irHighz) →
    exec (.jtagInstruction ir) s = .next { s with jtagIr := ir }

/-- The link of the host port: on link-up the counts of requests and responses are 0; loss of the link and PERST_N clear the
link state and nothing outside the endpoint; a read that times out returns zero and sets LATE_RD; a UART line that was sent
leaves the queue. -/
def Obligations.HostLink : Prop :=
  (∀ (sp w : Fin 5) (s : State), sp.val ≠ 0 → w.val = 1 ∨ w.val = 2 ∨ w.val = 4 →
    ∃ t, exec (.pcieLinkUp sp w) s = .next t ∧ rd t .hstReqProd 0 = 0 ∧ rd t .hstReqCons 0 = 0 ∧ rd t .hstRspProd 0 = 0
      ∧ rd t .hstRspCons 0 = 0 ∧ rdb t .hstStat 0 31 = true ∧ rdf t .hstStat 0 30 28 = sp.val
      ∧ rdf t .hstStat 0 27 24 = w.val
      ∧ { t with regs := s.regs, perst := s.perst } = s
      ∧ regsKept s t [(.hstReqProd, 0), (.hstReqCons, 0), (.hstRspProd, 0), (.hstRspCons, 0), (.hstStat, 0)])
  ∧ (∀ s : State, ∃ t, exec .pcieLinkDown s = .next t ∧ rdb t .hstStat 0 31 = false ∧ onlyRegs s t [(.hstStat, 0)])
  ∧ (∀ s : State, ∃ t, exec .perstN s = .next t ∧ rdb t .hstStat 0 31 = false ∧ t.perst = true
      ∧ { t with regs := s.regs, perst := s.perst, msixTable := s.msixTable, pba := s.pba, msgWaiting := s.msgWaiting } = s
      ∧ regsKept s t [(.hstStat, 0)])
  ∧ (∀ s : State, ∃ t, exec .hostReadTimeout s = .next t ∧ t.rdData = 0
      ∧ rd t .hstSticky 0 = bput (rd s .hstSticky 0) 3 true
      ∧ t.rdEp = false ∧ { t with regs := s.regs, rdData := s.rdData, rdEp := s.rdEp } = s ∧ regsKept s t [(.hstSticky, 0)])
  ∧ ∀ (l : UartLine) (ls : List UartLine) (s : State), s.uart = l :: ls →
    exec .uartLineSent s = .next { s with uart := ls, uartTx := uartText l }

/-! ## Mailboxes and the services of Cox -/

/-- The states of a mailbox: the first write to a FREE one opens it for the writer, its owner's DOORBELL makes it BUSY, its
owner's ACK frees it; a write by another, in BUSY or DONE, or before Run to another mailbox than 14, and DOORBELL and ACK by
another, set MB_FOREIGN, and DOORBELL outside OPEN or before Run on another mailbox than 14 and ACK outside DONE
set MB_PROTO, and these change nothing else. The host's accesses arrive once its endpoint answers. -/
def Obligations.MailboxStates : Prop :=
  (∀ (rq : Requester) (m i : Fin 16) (v : Word) (s : State), arrives s rq = true → mbUser rq m.val = true →
      s.run = true ∨ m.val = 14 → mbState s m.val = 0 →
    ∃ t, exec (.mailboxRequestWrite rq m i v) s = .next t ∧ mbState t m.val = 1 ∧ mbOwner t m.val = reqId rq
      ∧ rd t .mbReq (m.val * 16 + i.val) = v ∧ (mboxAt t m.val).opened = s.now
      ∧ { t with regs := s.regs, mbox := s.mbox } = s ∧ regsKept s t [(.mbStat, m.val), (.mbReq, m.val * 16 + i.val)])
  ∧ (∀ (rq : Requester) (m i : Fin 16) (v : Word) (s : State), arrives s rq = true → mbUser rq m.val = true →
      s.run = true ∨ m.val = 14 → mbState s m.val = 1 → mbOwner s m.val = reqId rq →
    ∃ t, exec (.mailboxRequestWrite rq m i v) s = .next t ∧ rd t .mbReq (m.val * 16 + i.val) = v
      ∧ onlyRegs s t [(.mbReq, m.val * 16 + i.val)])
  ∧ (∀ (rq : Requester) (m i : Fin 16) (v : Word) (s : State), arrives s rq = true → mbUser rq m.val = true →
      (s.run = false ∧ m.val ≠ 14)
        ∨ (mbState s m.val ≠ 0 ∧ (mbState s m.val ≠ 1 ∨ mbOwner s m.val ≠ reqId rq)) →
    ∃ t, exec (.mailboxRequestWrite rq m i v) s = .next t ∧ rd t .coxSticky 0 = bput (rd s .coxSticky 0) 0 true
      ∧ onlyRegs s t [(.coxSticky, 0)])
  ∧ (∀ (rq : Requester) (m : Fin 16) (s : State), arrives s rq = true → mbUser rq m.val = true → mbState s m.val = 1 →
      mbOwner s m.val = reqId rq → s.run = true ∨ m.val = 14 →
    ∃ t, exec (.doorbell rq m) s = .next t ∧ mbState t m.val = 2 ∧ mbOwner t m.val = reqId rq
      ∧ (mboxAt t m.val).rung = s.now
      ∧ { t with regs := s.regs, mbox := s.mbox } = s ∧ regsKept s t [(.mbStat, m.val)])
  ∧ (∀ (rq : Requester) (m : Fin 16) (s : State), arrives s rq = true → mbUser rq m.val = true →
      mbState s m.val ≠ 1 ∨ (s.run = false ∧ m.val ≠ 14) →
    ∃ t, exec (.doorbell rq m) s = .next t ∧ rd t .coxSticky 0 = bput (rd s .coxSticky 0) 1 true
      ∧ onlyRegs s t [(.coxSticky, 0)])
  ∧ (∀ (rq : Requester) (m : Fin 16) (s : State), arrives s rq = true → mbUser rq m.val = true → mbState s m.val = 1 →
      mbOwner s m.val ≠ reqId rq → s.run = true ∨ m.val = 14 →
    ∃ t, exec (.doorbell rq m) s = .next t ∧ rd t .coxSticky 0 = bput (rd s .coxSticky 0) 0 true
      ∧ onlyRegs s t [(.coxSticky, 0)])
  ∧ (∀ (rq : Requester) (m : Fin 16) (s : State), arrives s rq = true → mbUser rq m.val = true → mbState s m.val = 3 →
      mbOwner s m.val ≠ reqId rq →
    ∃ t, exec (.ack rq m) s = .next t ∧ rd t .coxSticky 0 = bput (rd s .coxSticky 0) 0 true ∧ onlyRegs s t [(.coxSticky, 0)])
  ∧ (∀ (rq : Requester) (m : Fin 16) (s : State), arrives s rq = true → mbUser rq m.val = true → mbState s m.val = 3 →
      mbOwner s m.val = reqId rq →
    ∃ t, exec (.ack rq m) s = .next t ∧ mbState t m.val = 0 ∧ mbOwner t m.val = 0xFF ∧ onlyRegs s t [(.mbStat, m.val)])
  ∧ ∀ (rq : Requester) (m : Fin 16) (s : State), arrives s rq = true → mbUser rq m.val = true → mbState s m.val ≠ 3 →
    ∃ t, exec (.ack rq m) s = .next t ∧ rd t .coxSticky 0 = bput (rd s .coxSticky 0) 1 true
      ∧ onlyRegs s t [(.coxSticky, 0)]

/-- An OPEN mailbox not rung within 1 ms and a DONE one not acknowledged within 100 ms are freed and set MB_TIMEOUT; when it
is mailbox 15, or the stern core acknowledges there, the next notice that waits is posted. A challenge ends after 10 s, and
ALIVE counts every millisecond while Cox runs. -/
def Obligations.MailboxTimeouts : Prop :=
  (∀ (m : Fin 16) (s : State), m.val ≠ 15 ∨ s.notices = [] → mbState s m.val = 1 → (mboxAt s m.val).opened + 1000000 ≤ s.now →
    ∃ t, exec (.mailboxOpenTimeout m) s = .next t ∧ mbState t m.val = 0 ∧ mbOwner t m.val = 0xFF
      ∧ rd t .coxSticky 0 = bput (rd s .coxSticky 0) 2 true ∧ onlyRegs s t [(.mbStat, m.val), (.coxSticky, 0)])
  ∧ (∀ (m : Fin 16) (s : State), m.val ≠ 15 ∨ s.notices = [] → mbState s m.val = 3 → (mboxAt s m.val).done + 100000000 ≤ s.now →
    ∃ t, exec (.mailboxDoneTimeout m) s = .next t ∧ mbState t m.val = 0 ∧ mbOwner t m.val = 0xFF
      ∧ rd t .coxSticky 0 = bput (rd s .coxSticky 0) 2 true ∧ onlyRegs s t [(.mbStat, m.val), (.coxSticky, 0)])
  ∧ (∀ (s : State) (n : Notice) (ns : List Notice), mbState s 15 = 3 → mbOwner s 15 = 0x40 → s.notices = n :: ns →
      coxHalted s = false → n.service < 2 ^ 16 → n.status < 2 ^ 16 →
    ∃ t, exec (.ack .stern 15) s = .next t ∧ t.notices = ns ∧ mbState t 15 = 3 ∧ mbOwner t 15 = 0x40
      ∧ fget (rd t .mbRsp 240) 15 0 = n.service ∧ fget (rd t .mbRsp 240) 31 16 = n.status)
  ∧ (∀ (s : State) (n : Notice) (ns : List Notice), mbState s 15 = 3 → (mboxAt s 15).done + 100000000 ≤ s.now →
      s.notices = n :: ns → coxHalted s = false → n.service < 2 ^ 16 → n.status < 2 ^ 16 →
    ∃ t, exec (.mailboxDoneTimeout 15) s = .next t ∧ t.notices = ns ∧ mbState t 15 = 3 ∧ mbOwner t 15 = 0x40
      ∧ fget (rd t .mbRsp 240) 15 0 = n.service ∧ fget (rd t .mbRsp 240) 31 16 = n.status ∧ rdb t .coxSticky 0 2 = true)
  ∧ (∀ (c : Challenge) (s : State), s.challenge = some c → c.since + 10000000000 ≤ s.now →
    exec .challengeExpiry s = .next { s with challenge := none })
  ∧ ∀ s : State, coxHalted s = false → s.aliveAt + 1000000 ≤ s.now →
    ∃ t, exec .aliveTick s = .next t ∧ rdf t .coxStat 0 31 16 = (rdf s .coxStat 0 31 16 + 1) % 2 ^ 16
      ∧ rdf t .coxStat 0 15 0 = rdf s .coxStat 0 15 0
      ∧ { t with regs := s.regs, aliveAt := s.aliveAt } = s ∧ regsKept s t [(.coxStat, 0)]

/-- Cox takes the BUSY request that R214 puts first and, in Run, answers one that comes too soon after another on mailbox 14
with RETRY_AFTER, one of an unknown service with UNKNOWN_SERVICE, one whose requester the service does not serve with
NOT_PERMITTED, and one with a non-zero reserved byte with BAD_ARG; every other it takes. From stage 5 and before Run it
answers every request but the two of debug unlock with WRONG_STATE, and CHG_START then sets CHG_EARLY. -/
def Obligations.TakingARequest : Prop :=
  (∀ (s : State) (m : Nat), coxHalted s = false → s.taken = none → s.run = false → 5 ≤ stageOf s → nextRequest s = some m →
      tooSoon s m = false → reqService s m ≠ svDbgChallenge → reqService s m ≠ svDbgResponse →
    ∃ t, exec .takeRequest s = .next t ∧ answered s t m cWrongState 0 []
      ∧ rdb t .pwrSticky 0 4 = (rdb s .pwrSticky 0 4 || decide (reqService s m = svChgStart)))
  ∧ ∀ (s : State) (m : Nat), coxHalted s = false → s.taken = none → s.run = true → stageOf s = 12 → nextRequest s = some m →
    let v := reqService s m
    (tooSoon s m = true →
      ∃ t, exec .takeRequest s = .next t
        ∧ answered s t m cRetryAfter (strokesOf s (s.hostRing.getD 0 + 1000000 - s.now) % 2 ^ 16) [] ∧ answerOnly s t m)
    ∧ (tooSoon s m = false → v ∉ services →
      ∃ t, exec .takeRequest s = .next t ∧ answered s t m cUnknownService 0 [] ∧ answerOnly s { t with hostRing := s.hostRing } m)
    ∧ (tooSoon s m = false → v ∈ services → mayAsk v (mbOwner s m) = false →
      ∃ t, exec .takeRequest s = .next t ∧ answered s t m cNotPermitted 0 [] ∧ answerOnly s { t with hostRing := s.hostRing } m)
    ∧ (tooSoon s m = false → v ∈ services → mayAsk v (mbOwner s m) = true → reservedClear (reqBytes s m) v = false →
      ∃ t, exec .takeRequest s = .next t ∧ answered s t m cBadArg 0 [] ∧ answerOnly s { t with hostRing := s.hostRing } m)
    ∧ (tooSoon s m = false → v ∈ services → mayAsk v (mbOwner s m) = true → reservedClear (reqBytes s m) v = true →
      ∃ t, exec .takeRequest s = .next t ∧ t.taken = some m ∧ (m = 14 → t.hostRing = some (mboxAt s m).rung)
        ∧ { t with taken := none, hostRing := s.hostRing } = s)

/-- Among BUSY requests that wait, which that of the running long service does not, none of them older than 1 ms, Cox takes
one of the highest rank, and the lowest mailbox among equals. -/
def Obligations.RequestOrder : Prop :=
  ∀ (s : State) (m : Nat), (∀ k < 15, waits s k = true → s.now ≤ (mboxAt s k).rung + 1000000) →
    (nextRequest s = some m ↔ m < 15 ∧ mbState s m = 2 ∧ s.long.map (·.mailbox) ≠ some m ∧ ∀ k < 15, waits s k = true →
      ownerRank s (mbOwner s m) < ownerRank s (mbOwner s k)
        ∨ (ownerRank s (mbOwner s m) = ownerRank s (mbOwner s k) ∧ m ≤ k))

/-- The short services of INFO and debug: INFO answers a page, DBG_CHALLENGE its block of 48 bytes, DBG_END withdraws level 1
and answers WRONG_STATE at any other level; with three failures every debug request is answered DEBUG_LOCKOUT. -/
def Obligations.InfoAndDebugServices : Prop :=
  (∀ (m : Nat) (s : State), served s svInfo m → reqField s m 8 1 ≤ 3 →
    ∃ t, exec .info s = .next t ∧ answered s t m 0 0 (infoPage s (reqField s m 8 1)) ∧ answerOnly s t m)
  ∧ (∀ (m : Nat) (s : State), served s svInfo m → 3 < reqField s m 8 1 →
    ∃ t, exec .info s = .next t ∧ answered s t m cBadArg 0 [] ∧ answerOnly s t m)
  ∧ (∀ (m : Nat) (s : State), served s svDbgChallenge m → 3 ≤ s.authFails →
    ∃ t, exec .dbgChallenge s = .next t ∧ answered s t m cDebugLockout 0 [] ∧ answerOnly s t m)
  ∧ (∀ (m : Nat) (s : State), served s svDbgChallenge m → s.authFails < 3 →
      reqField s m 8 1 = 1 ∧ dbgOffBlown s.fuses = false ∨ reqField s m 8 1 = 2 ∧ s.chg.active = false →
    ∃ t block, exec .dbgChallenge s = .next t ∧ block.length = 48 ∧ answered s t m 0 0 block
      ∧ slice block 28 16 = slice s.fuses.serial.val 0 16 ∧ field block 44 1 = reqField s m 8 1 ∧ field block 45 3 = 0
      ∧ t.challenge = some ⟨reqField s m 8 1, block, s.now, none, m⟩
      ∧ answerOnly s { t with free := s.free, challenge := s.challenge } m)
  ∧ (∀ (m : Nat) (s : State), served s svDbgEnd m → s.authFails < 3 → rdf s .coxStat 0 5 4 = 1 →
    ∃ t, exec .dbgEnd s = .next t ∧ rdf t .coxStat 0 5 4 = 0 ∧ mbState t m = 3 ∧ fget (rd t .mbRsp (m * 16)) 31 16 = 0
      ∧ (∀ k, (ctxAt s k).halt = .debug → (ctxAt t k).halt = .none) ∧ t.mem = s.mem ∧ t.insts = s.insts)
  ∧ (∀ (m : Nat) (s : State), served s svDbgEnd m → s.authFails < 3 → rdf s .coxStat 0 5 4 ≠ 1 →
    ∃ t, exec .dbgEnd s = .next t ∧ answered s t m cWrongState 0 [] ∧ answerOnly s t m)

/-- A long service that is in order runs in the background: LONG_BUSY is set, the mailbox stays BUSY and no answer is
written; while one runs, another is answered RETRY_AFTER. Said of FLASH_ERASE, FLASH_WRITE, ARC_ADVANCE, CTX_RESTART,
DBG_RESPONSE and CHG_START. -/
def Obligations.LongServicesStart : Prop :=
  (∀ (m : Nat) (s : State), served s svFlashErase m → s.long = none → reqField s m 12 4 % 65536 = 0 →
      reqField s m 16 4 % 65536 = 0 → flashRefusal s (reqField s m 8 1) (reqField s m 12 4) (reqField s m 16 4) = none →
    ∃ t, exec .flashErase s = .next t ∧ longStarted s t m)
  ∧ (∀ (m : Nat) (bs : List Byte) (s : State), served s svFlashWrite m → s.long = none → reqField s m 12 4 % 256 = 0 →
      1 ≤ reqField s m 16 4 → reqField s m 16 4 ≤ 65536 →
      flashRefusal s (reqField s m 8 1) (reqField s m 12 4) (reqField s m 16 4) = none →
      flashSource s m (reqField s m 16 4) = some bs →
    ∃ t l, exec .flashWrite s = .next t ∧ longStarted s t m ∧ t.long = some l ∧ l.results = bs)
  ∧ (∀ (m : Nat) (s : State), served s svArcAdvance m → s.long = none → s.chg.active = false → reqField s m 8 1 ≤ 1 →
      reqField s m 9 1 ≤ 1 → arcCount s (reqField s m 8 1 == 1) < reqField s m 10 1 →
      reqField s m 10 1 ≤ arcVersion s (reqField s m 8 1 == 1) → reqField s m 10 1 ≤ 64 →
    ∃ t, exec .arcAdvance s = .next t ∧ longStarted s t m)
  ∧ (∀ (m : Nat) (s : State), served s svCtxRestart m → s.long = none → reqField s m 8 1 < 64 →
      ctxFaulted s (reqField s m 8 1) = true → ∃ t, exec .ctxRestart s = .next t ∧ longStarted s t m)
  ∧ (∀ (m : Nat) (c : Challenge) (s : State), served s svDbgResponse m → s.long = none → s.authFails < 3 →
      s.challenge = some c → s.now < c.since + 10000000000 → c.level ≠ 2 ∨ s.chg.active = false → c.partR = none →
      reqField s m 8 1 = 0 →
    ∃ t, exec .dbgResponse s = .next t ∧ longStarted s { t with challenge := s.challenge } m
      ∧ t.challenge = some { c with partR := some (slice (reqBytes s m) 16 48) })
  ∧ (∀ (m : Nat) (c : Challenge) (r : List Byte) (s : State), served s svDbgResponse m → s.long = none → s.authFails < 3 →
      s.challenge = some c → s.now < c.since + 10000000000 → c.level ≠ 2 ∨ s.chg.active = false → c.partR = some r →
      reqField s m 8 1 = 1 →
    ∃ t l, exec .dbgResponse s = .next t ∧ longStarted s t m ∧ t.long = some l ∧ l.results = slice (reqBytes s m) 16 48)
  ∧ (∀ (m : Nat) (s : State), served s svChgStart m → s.long = none → s.chg.active = false → reqField s m 8 1 ≤ 1 →
      reqField s m 8 1 ≠ slotInForce s → reqField s m 9 1 ≤ 1 →
    ∃ t, exec .chgStart s = .next t ∧ t.taken = none ∧ t.long.isSome = true ∧ rdb t .coxStat 0 7 = true
      ∧ t.chg.active = true ∧ t.chg.slot = reqField s m 8 1 ∧ t.chg.checkOnly = (reqField s m 9 1 == 1)
      ∧ t.chg.mailbox = some m ∧ t.chg.since = s.now ∧ t.mem = s.mem ∧ t.insts = s.insts ∧ t.img = s.img)
  ∧ ∀ (m : Nat) (l : LongService) (s : State), served s svCtxRestart m → s.long = some l → reqField s m 8 1 < 64 →
      ctxFaulted s (reqField s m 8 1) = true →
    ∃ t, exec .ctxRestart s = .next t
      ∧ answered s t m cRetryAfter (strokesOf s (longEnd s l - s.now) % 2 ^ 16) [] ∧ answerOnly s t m

/-- The end of a long service: a flash erase leaves ones in its range, a flash write ANDs its bytes in and answers FLASH_READ
where they then read back other than written, an anti-rollback advance sets the lowest TARGET bits, or none where the other
slot would fail, and a response whose signature verifies grants its level (level 2 in Run with DEBUG_ACTIVE due at the next
catch) and one that does not is counted; no service runs any more. -/
def Obligations.LongServicesEnd : Prop :=
  (∀ (l : LongService) (s : State), coxHalted s = false → s.long = some l → l.service = svFlashErase →
    ∃ t, exec (.longServiceComplete true) s = .next t ∧ t.long = none
      ∧ (∀ a, let b := slotBase s.flash (field l.args 8 1) + field l.args 12 4
          Tab.get eraseDefault t.flash.bytes a =
            if b ≤ a ∧ a < b + field l.args 16 4 then 0xFF else Tab.get eraseDefault s.flash.bytes a)
      ∧ t.fuses = s.fuses)
  ∧ (∀ (l : LongService) (s : State), coxHalted s = false → s.long = some l → l.service = svFlashWrite →
      l.results.length = field l.args 16 4 →
    ∃ t, exec (.longServiceComplete true) s = .next t ∧ t.long = none
      ∧ (∀ a, let b := slotBase s.flash (field l.args 8 1) + field l.args 12 4
          Tab.get eraseDefault t.flash.bytes a =
            if b ≤ a ∧ a < b + field l.args 16 4 then Tab.get eraseDefault s.flash.bytes a &&& l.results.getD (a - b) 0
            else Tab.get eraseDefault s.flash.bytes a)
      ∧ t.fuses = s.fuses
      ∧ (mbState s l.mailbox = 2 → l.mailbox < 15 → mbState t l.mailbox = 3
          ∧ fget (rd t .mbRsp (l.mailbox * 16)) 31 16 =
              if (List.range l.results.length).all (fun i =>
                let b := slotBase s.flash (field l.args 8 1) + field l.args 12 4
                Tab.get eraseDefault s.flash.bytes (b + i) &&& l.results.getD i 0 == l.results.getD i 0) then 0
              else cFlashRead))
  ∧ (∀ (l : LongService) (s : State), coxHalted s = false → s.long = some l → l.service = svArcAdvance →
      field l.args 9 1 ≠ 1 → otherSlotPasses s (field l.args 8 1 == 1) (field l.args 10 1) = false →
    ∃ t, exec (.longServiceComplete true) s = .next t ∧ t.long = none ∧ t.flash = s.flash ∧ t.fuses = s.fuses)
  ∧ (∀ (l : LongService) (s : State), coxHalted s = false → s.long = some l → l.service = svArcAdvance →
      field l.args 9 1 = 1 ∨ otherSlotPasses s (field l.args 8 1 == 1) (field l.args 10 1) = true →
    ∃ t, exec (.longServiceComplete true) s = .next t ∧ t.long = none ∧ t.flash = s.flash
      ∧ (field l.args 8 1 = 1 → t.fuses = { s.fuses with vendorArc := thermometer (field l.args 10 1) })
      ∧ (field l.args 8 1 ≠ 1 → t.fuses = { s.fuses with builderArc := thermometer (field l.args 10 1) }))
  ∧ (∀ (l : LongService) (c : Challenge) (s : State), coxHalted s = false → s.long = some l → l.service = svDbgResponse →
      s.challenge = some c → field l.args 8 1 = 1 → c.level = 2 → s.run = true →
      ecdsaVerify (vendorKey s) c.block (c.partR.getD [] ++ l.results) = true →
    ∃ t, exec (.longServiceComplete true) s = .next t ∧ t.long = none ∧ t.challenge = none ∧ rdf t .coxStat 0 5 4 = 2
      ∧ t.debugDue = true ∧ t.authFails = s.authFails)
  ∧ ∀ (l : LongService) (c : Challenge) (s : State), coxHalted s = false → s.long = some l → l.service = svDbgResponse →
      s.challenge = some c → field l.args 8 1 = 1 → c.level = 1 →
    ∃ t, exec (.longServiceComplete true) s = .next t ∧ t.long = none ∧ t.challenge = none
      ∧ (let good := ecdsaVerify (image s).builderKey c.block (c.partR.getD [] ++ l.results)
         (good = true → rdf t .coxStat 0 5 4 = 1 ∧ t.authFails = s.authFails)
          ∧ (good = false → rdf t .coxStat 0 5 4 = rdf s .coxStat 0 5 4 ∧ t.authFails = s.authFails + 1))
      ∧ t.fuses = s.fuses ∧ t.flash = s.flash

/-- PT_MAP of one page that its conditions let through writes the page's entry (for a 64 KiB page also the level-1 entry of
its table), PT_UNMAP of one mapped page that is not pinned clears it, each answers 0 and writes no other byte; a mapping
outside the allotment is answered PT_RANGE, and one for a context that may not be demand-paged PT_PINNED. -/
def Obligations.MappingServices : Prop :=
  (∀ (m : Nat) (s : State), served s svPtMap m → ptRefusal s m (ptArgs s m) = none → (ptArgs s m).attr ≤ 3 →
      (ptArgs s m).size = 1 → (ptArgs s m).count = 1 → (ptArgs s m).va + 2 ^ 21 ≤ vaddrEnd →
      (∀ o ∈ ptPages (ptArgs s m), inAllotment s (ptArgs s m).ctx ((ptArgs s m).pa + o) = true
        ∧ inPinned s (ptArgs s m).ctx ((ptArgs s m).pa + o) = false
        ∧ leafOf s (ptArgs s m).ctx ((ptArgs s m).va + o) = none) →
      (ptArgs s m).va % 2 ^ 21 = 0 → (ptArgs s m).pa % 2 ^ 21 = 0 → (ptArgs s m).pa < 2 ^ 48 →
    let p := ptArgs s m
    let a := l1At s p.ctx + 8 * (p.va / 2 ^ 21 % 32768)
    ∃ t, exec .ptMap s = .next t ∧ mbState t m = 3 ∧ fget (rd t .mbRsp (m * 16)) 31 16 = 0
      ∧ entryAt t a = p.pa + (p.attr / 2 % 2) * 8 + (p.attr % 2) * 4 + 3
      ∧ ∀ x, ¬ (a ≤ x ∧ x < a + 8) → mrd t x = mrd s x)
  ∧ (∀ (m : Nat) (s : State), served s svPtMap m → ptRefusal s m (ptArgs s m) = none → (ptArgs s m).attr ≤ 3 →
      (ptArgs s m).size = 0 → (ptArgs s m).count = 1 → (ptArgs s m).va + 2 ^ 16 ≤ vaddrEnd →
      inAllotment s (ptArgs s m).ctx (ptArgs s m).pa = true → inPinned s (ptArgs s m).ctx (ptArgs s m).pa = false →
      leafOf s (ptArgs s m).ctx (ptArgs s m).va = none →
      (ptArgs s m).va % 2 ^ 16 = 0 → (ptArgs s m).pa % 2 ^ 16 = 0 → (ptArgs s m).pa < 2 ^ 48 →
    let p := ptArgs s m
    let a := l1At s p.ctx + 8 * (p.va / 2 ^ 21 % 32768)
    let b := l2At s p.ctx (p.va / 2 ^ 21 % 32768) + 8 * (p.va / 2 ^ 16 % 32)
    ∃ t, exec .ptMap s = .next t ∧ mbState t m = 3 ∧ fget (rd t .mbRsp (m * 16)) 31 16 = 0
      ∧ entryAt t a = (l2At s p.ctx (p.va / 2 ^ 21 % 32768) + 1) % 2 ^ 64
      ∧ entryAt t b = p.pa + (p.attr / 2 % 2) * 8 + (p.attr % 2) * 4 + 1
      ∧ ∀ x, ¬ (a ≤ x ∧ x < a + 8) → ¬ (b ≤ x ∧ x < b + 8) → mrd t x = mrd s x)
  ∧ (∀ (m : Nat) (s : State), served s svPtMap m → ptRefusal s m (ptArgs s m) = none → (ptArgs s m).attr ≤ 3 →
      (ptArgs s m).va + (ptArgs s m).count * ptBytes (ptArgs s m) ≤ vaddrEnd →
      (∃ o ∈ ptPages (ptArgs s m), inAllotment s (ptArgs s m).ctx ((ptArgs s m).pa + o) = false) →
    ∃ t, exec .ptMap s = .next t ∧ answered s t m cPtRange 0 [] ∧ answerOnly s t m)
  ∧ (∀ (m : Nat) (s : State), served s svPtMap m → mbOwner s m = 0x40 → (ptArgs s m).ctx < 64 → (ptArgs s m).size ≤ 1 →
      1 ≤ (ptArgs s m).count → (ptArgs s m).count ≤ 32 → switchPending s (ptArgs s m).ctx = false →
      demandPaged s (ptArgs s m).ctx = false →
    ∃ t, exec .ptMap s = .next t ∧ answered s t m cPtPinned 0 [] ∧ answerOnly s t m)
  ∧ ∀ (m x : Nat) (s : State), served s svPtUnmap m → ptRefusal s m (ptArgs s m) = none → (ptArgs s m).size = 1 →
      (ptArgs s m).count = 1 → (ptArgs s m).va % 2 ^ 21 = 0 → (ptArgs s m).va + 2 ^ 21 ≤ 2 ^ 36 →
      leafOf s (ptArgs s m).ctx (ptArgs s m).va = some (x, 2 ^ 21) → ptePin x = false →
    let p := ptArgs s m
    let a := l1At s p.ctx + 8 * (p.va / 2 ^ 21 % 32768)
    ∃ t, exec .ptUnmap s = .next t ∧ mbState t m = 3 ∧ fget (rd t .mbRsp (m * 16)) 31 16 = 0 ∧ entryAt t a = 0
      ∧ ∀ y, ¬ (a ≤ y ∧ y < a + 8) → mrd t y = mrd s y

/-- The fencing of a scull: its bit of ID_SCULL_LIVE clears, FLT_SCULLs takes the code, its engines and the contexts on it
are gone; a fenced scull is not fenced again. Said of FENCE_SCULL, ENGINE_HANG of an engine, a scan, a channel and a trap
entry, a crossing and a clock island of a scull, and an array island above its limit; of an island outside the sculls the
code is raised at device scope, a crossing there fail-stops the STROKE outputs, an island of fixed frequency has no floor to
lose, and a fenced scull's FENCE_SCULL is answered BAD_ARG. -/
def Obligations.Fencing : Prop :=
  (∀ (m : Nat) (s : State), served s svFenceScull m → s.long = none → reqField s m 8 1 < 16 →
      live s (reqField s m 8 1) = true →
    ∃ t, exec .fenceScull s = .next t ∧ fenced t (reqField s m 8 1) cFenceRequest ∧ t.long.isSome = true)
  ∧ (∀ (m : Nat) (s : State), served s svFenceScull m → live s (reqField s m 8 1) = false →
    ∃ t, exec .fenceScull s = .next t ∧ answered s t m cBadArg 0 [] ∧ answerOnly s t m)
  ∧ (∀ (u : Fin 16) (e : Engine) (s : State), live s u.val = true → engineRuns s u.val e = true →
    ∃ t, exec (.engineHang u e) s = .next t ∧ fenced t u.val cEngineHang)
  ∧ (∀ (u : Fin 16) (k : Scan) (s : State), live s u.val = true → shownScan s u.val = some k → k.running = true →
      k.w0.getLsbD 43 = false ∨ k.staged ≠ 0 → ∃ t, exec (.scanHang u) s = .next t ∧ fenced t u.val cEngineHang)
  ∧ (∀ (u : Fin 16) (ch : Fin 4) (s : State), live s u.val = true → (chAt (scullAt s u.val) ch.val).state = 1 →
    ∃ t, exec (.dmaChannelTimeout u ch) s = .next t ∧ fenced t u.val cEngineHang)
  ∧ (∀ (u : Fin 16) (c : Nat) (s : State), live s u.val = true → (scullAt s u.val).running = some c →
      (nextTrap (ctxAt s (ctxKey u.val c))).isSome = true →
    ∃ t, exec (.trapEntryTimeout u) s = .next t ∧ fenced t u.val cEngineHang)
  ∧ (∀ (isl : Island) (u : Nat) (s : State), islandScull isl = some u → live s u = true →
    (∃ t, exec (.crossingTimeout isl) s = .next t ∧ fenced t u cFabricStall)
      ∧ ∃ t, exec (.islandFloor isl) s = .next t ∧ fenced t u cIslandFloor)
  ∧ (∀ (isl : Island) (u : Nat) (s : State), islandScull isl = some u → live s u = false →
    exec (.crossingTimeout isl) s = .next s ∧ exec (.islandFloor isl) s = .next s)
  ∧ (∀ (n : Fin 16) (temp : BitVec 16) (s : State), live s n.val = true → 1760 ≤ temp.toInt →
    ∃ t, exec (.overTemperature (Fin.natAdd 16 n) temp) s = .next t ∧ fenced t n.val cIslandFloor)
  ∧ (∀ (isl : Island) (s : State), islandScull isl = none →
    ∃ t, exec (.crossingTimeout isl) s = .next t ∧ wasRaised s t cFabricStall scDevice 0
      ∧ reported s t [(.stkStatus, 0), (.stkSticky, 0)] ∧ rd t .stkStatus 0 = bput (rd s .stkStatus 0) 2 true
      ∧ rd t .stkSticky 0 = bput (rd s .stkSticky 0) 2 true)
  ∧ (∀ s : State, ∃ t, exec (.islandFloor .stern) s = .next t ∧ wasRaised s t cIslandFloor scDevice 0
      ∧ t.floorAt = s.now ∧ reported s { t with floorAt := s.floorAt } [])
  ∧ (∀ (isl : Island) (s : State), islandScull isl = none → isl ≠ .stern → exec (.islandFloor isl) s = .next s)
  ∧ ∀ (s : State) (u code : Nat) (mb : Option Nat), live s u = false → fenceScull s u code mb = s

/-- Cox halts at a lockstep mismatch: HALTED is set, COX_LOCKSTEP holds FAULT_N, no re-admission goes on, and before Run
start-up stops with FAIL_STAGE at its stage. -/
def Obligations.CoxHalts : Prop :=
  ∀ s : State, s.inReset = false → coxHalted s = false →
    ∃ t, exec .coxLockstepMismatch s = .next t ∧ coxHalted t = true ∧ cCoxLockstep ∈ t.holding ∧ t.readmit = none
      ∧ t.run = s.run ∧ (s.run = false → t.stuck = true)
      ∧ (s.run = false → s.stuck = false → rdf t .pwrBoot 0 15 12 = stageOf s) ∧ t.strokeNo = s.strokeNo ∧ t.img = s.img

/-! ## Power, reset and start-up -/

/-- RST_N puts the device in reset: every register but PWR_STICKY and PWR_RAIL takes its reset value, RUN is low, FAULT_N is
asserted; flash, fuses, memory and the queue stay. Reset release with a rail of groups 1 to 4 out of range leaves the device
in reset; with all in range it samples SLOT_SEL, raises RAIL_DROP when a rail had left its range, and enters stage 3. A rail
of groups 1 to 4 that leaves its range sets RAIL_DROP and puts the device in reset; VHTR and VIEPE do not. -/
def Obligations.ResetAndRails : Prop :=
  (∀ s : State, ∃ t, exec .rstNAssert s = .next t ∧ t.inReset = true ∧ t.run = false ∧ t.pinFaultN = true ∧ t.img = none
      ∧ t.mem = s.mem ∧ t.flash = s.flash ∧ t.fuses = s.fuses ∧ t.pending = s.pending ∧ t.holding = []
      ∧ ∀ r i, rd t r i = if r = .pwrSticky ∨ r = .pwrRail then rd s r i else regReset (r, i))
  ∧ (∀ (b : Bool) (good : BitVec 9) (s : State), s.inReset = true → good ≠ 0x1FF →
    ∃ t, exec (.resetRelease ⟨b, good⟩) s = .next t ∧ t.inReset = true ∧ rdf t .pwrRail 0 8 0 = good.toNat
      ∧ onlyRegs s t [(.pwrRail, 0)])
  ∧ (∀ (b : Bool) (good : BitVec 9) (s : State), s.inReset = false → exec (.resetRelease ⟨b, good⟩) s = .next s)
  ∧ (∀ (b : Bool) (s : State), s.inReset = true → s.railReset = false →
    ∃ t, exec (.resetRelease ⟨b, 0x1FF⟩) s = .next t ∧ t.inReset = false ∧ t.bootSlot = b.toNat ∧ t.resetAt = s.now
      ∧ rdb t .imgStat 0 3 = b ∧ rdf t .pwrRail 0 8 0 = 0x1FF ∧ t.pinFaultN = s.pinFaultN ∧ t.holding = s.holding
      ∧ stageOf t = 3 ∧ t.stageAt = s.now ∧ (s.uart.length < 64 → t.uart = s.uart ++ [.stage 3 0 0])
      ∧ t.mem = s.mem ∧ regsKept s t [(.pwrRail, 0), (.imgStat, 0), (.pwrBoot, 0), (.fltSticky, 0)])
  ∧ (∀ (b : Bool) (s : State), s.inReset = true → s.railReset = true → rdf s .fltFirst 0 15 0 = 0 → s.holding = [] →
    ∃ t, exec (.resetRelease ⟨b, 0x1FF⟩) s = .next t ∧ t.inReset = false ∧ t.bootSlot = b.toNat ∧ stageOf t = 3
      ∧ rdf t .fltFirst 0 15 0 = cRailDrop ∧ rd t .fltLast 0 = lastWord cRailDrop scDevice 0
      ∧ rd t .fltEvtCnt 0 = counted (rd s .fltEvtCnt 0) 1 ∧ t.holding = [cRailDrop] ∧ t.pinFaultN = true)
  ∧ (∀ (n : Fin 11) (s : State), n.val < 9 →
    ∃ t, exec (.railOutOfRange n) s = .next t ∧ t.inReset = true ∧ t.run = false ∧ rdb t .pwrSticky 0 1 = true
      ∧ rdb t .pwrRail 0 n.val = false ∧ (t.railReset = true ↔ s.railReset = true ∨ (s.everInRange = true ∧ s.inReset = false))
      ∧ t.flash = s.flash ∧ t.fuses = s.fuses ∧ ∀ r i, r ≠ .pwrSticky → r ≠ .pwrRail → rd t r i = regReset (r, i))
  ∧ (∀ (n : Fin 11) (s : State), 9 ≤ n.val →
    ∃ t, exec (.railOutOfRange n) s = .next t ∧ rdb t .pwrRail 0 n.val = false ∧ t.inReset = s.inReset ∧ t.run = s.run
      ∧ t.insts = s.insts ∧ (n.val = 9 → rdb t .pwrSticky 0 3 = true)
      ∧ (n.val = 10 → rdb t .pwrSticky 0 2 = true ∧ t.viepeLow = true))
  ∧ ∀ (order : List (Fin 11)) (s : State), ∃ t, exec (.powerOn order) s = .next t ∧ t.inReset = true ∧ t.railReset = false
      ∧ (rdb t .pwrSticky 0 0 = true ↔ inGroupOrder order = false)
      ∧ (∀ n : Fin 11, rdb t .pwrRail 0 n.val = true ↔ n ∈ order)
      ∧ (t.viepeLow = true ↔ (10 : Fin 11) ∉ order)
      ∧ ∀ r i, r ≠ .pwrSticky → r ≠ .pwrRail → rd t r i = regReset (r, i)

/-- Stages 3 to 7 when they pass: each leads to the next. Stage 3 releases FAULT_N when nothing holds it; stage 4 counts the
slot in TRIES and keeps its header; stage 5 keeps the verified image and hands over to its firmware, after a provisioning
boot with the builder key hash blown; stage 6 leaves memory zero and fences the sculls that failed self-test; stage 7 keeps
the whole image, and with the lists of stage 8 the stroke timer starts, in master mode locked at once. -/
def Obligations.StartUpPasses : Prop :=
  (∀ s : State, canBoot s 2 = true ∨ canBoot s 3 = true → fusesOk s.fuses = true → cRailDrop ∉ s.holding →
    ∃ t, exec (.coxRom .pass) s = .next t ∧ stageOf t = 4 ∧ t.stuck = false ∧ t.holding = s.holding
      ∧ (s.holding = [] → t.pinFaultN = false) ∧ t.mem = s.mem ∧ t.stageAt = s.now)
  ∧ (∀ s : State, canBoot s 4 = true → s.flash.answers = true → 27 ≤ s.flash.densLog2 →
      s.flash.octal = true → tries s < 15 →
    ∃ t, exec .headerVerify s = .next t ∧ ∀ g, verifyHeader (bringUp s) s.bootSlot = .inr g →
      stageOf t = 5 ∧ t.img = some g ∧ tries t = tries s + 1 ∧ t.mem = s.mem ∧ t.holding = s.holding ∧ t.stuck = false)
  ∧ (∀ (b : Bool) (s : State), canBoot s 5 = true → s.fuses.builderHash.blank = false → s.hbmTrained = false →
    ∃ t, exec (.coxSection b) s = .next t ∧ ∀ g, verifyCox s (image s) = .inr g →
      stageOf t = 6 ∧ t.img = some g ∧ rdf t .coxStat 0 2 0 = 1 ∧ t.mem = s.mem ∧ t.fuses = s.fuses)
  ∧ (∀ s : State, canBoot s 5 = true → s.fuses.builderHash.blank = true → s.hbmTrained = false →
    ∃ t, exec (.coxSection true) s = .next t ∧ ∀ g, verifyCox s (image s) = .inr g →
      stageOf t = 6 ∧ t.img = some g ∧ t.fuses.builderHash = .blow (sha384 g.builderKey))
  ∧ (∀ (b : Bool) (s : State), canBoot s 5 = true → s.fuses.builderHash.blank = false → s.hbmTrained = true →
    ∃ t, exec (.coxSection b) s = .next t ∧ ∀ g, verifyCox s (image s) = .inr g → stageOf t = 7 ∧ t.img = some g)
  ∧ (∀ (a b : Nat) (s : State), canBoot s 6 = true → a < 2 → b < 2 →
    ∃ t, exec (.hbmTraining a b 0) s = .next t ∧ stageOf t = 7 ∧ t.hbmTrained = true ∧ t.mem = [] ∧ t.poisoned = []
      ∧ t.ctxs = [] ∧ t.sculls = [] ∧ ∀ u < 16, rd t .sfuCrc (8 * u) = 0x5A1E93C7)
  ∧ (∀ (a b : Nat) (bist : BitVec 16) (u : Nat) (s : State), canBoot s 6 = true → a < 2 → b < 2 → bist.getLsbD u = true →
    ∃ t, exec (.hbmTraining a b bist) s = .next t ∧ stageOf t = 7 ∧ live t u = false
      ∧ (live s u = true → rdf t .fltScull u 15 0 = cScullBist))
  ∧ ∀ s : State, canBoot s 7 = true →
    ∃ t, exec .imageRead s = .next t ∧ ∀ g v, readImage s (kekOf s) (image s) = .inr g →
      let u := stageEntered (imageLoaded s g) 7
      takesLists u (axisLoads u true) (image u).snsList v →
      stageOf t = 8 ∧ t.img = v.img ∧ t.stuck = v.stuck ∧ t.timerOn = true ∧ t.phase = .catch_ ∧ t.catchAt = s.now
        ∧ t.lockNs = periodNs v ∧ rdb t .stkStatus 0 0 = rdb v .stkCfg 0 0

/-- Stages 3 to 7 when they fail: stage 3 stays with COX_LOCKSTEP or FUSE_ERR, stage 6 with HBM_TRAIN after two failed
trainings of a stack; a slot that fails a check leaves its STEP, SECT and code in IMG_FAIL, and the other slot is tried, or
after the second IMG_NONE holds FAULT_N. A flash read that times out is retried once; the second time the slot fails, at
flash bring-up both do, and a changeover that reads the target ends. -/
def Obligations.StartUpFailures : Prop :=
  (∀ s : State, canBoot s 2 = true ∨ canBoot s 3 = true →
    ∃ t, exec (.coxRom .lockstep) s = .next t ∧ t.stuck = true ∧ rdf t .pwrBoot 0 15 12 = 3 ∧ cCoxLockstep ∈ t.holding
      ∧ stageOf t = 3)
  ∧ (∀ (r : RomResult) (s : State), canBoot s 2 = true ∨ canBoot s 3 = true →
      r = .fuse ∨ (r = .pass ∧ fusesOk s.fuses = false) →
    ∃ t, exec (.coxRom r) s = .next t ∧ t.stuck = true ∧ rdf t .pwrBoot 0 15 12 = 3 ∧ cFuseErr ∈ t.holding)
  ∧ (∀ (f : SlotFail) (s : State), canBoot s 4 = true → s.flash.answers = true → 27 ≤ s.flash.densLog2 →
      s.flash.octal = true → tries s = 0 → verifyHeader (bringUp s) s.bootSlot = .inl f → s.bootSlot < 2 →
    ∃ t, exec .headerVerify s = .next t ∧ stageOf t = 4 ∧ t.bootSlot = 1 - s.bootSlot ∧ t.stuck = false
      ∧ rd t .imgFail s.bootSlot = failWord f ∧ rdf t .pwrBoot 0 15 12 = 4 ∧ tries t = 1 ∧ t.img = none)
  ∧ (∀ (f : SlotFail) (s : State), canBoot s 4 = true → s.flash.answers = true → 27 ≤ s.flash.densLog2 →
      s.flash.octal = true → tries s = 1 → verifyHeader (bringUp s) s.bootSlot = .inl f →
    ∃ t, exec .headerVerify s = .next t ∧ t.stuck = true ∧ cImgNone ∈ t.holding ∧ rd t .imgFail s.bootSlot = failWord f
      ∧ rdf t .pwrBoot 0 15 12 = 4)
  ∧ (∀ s : State, canBoot s 4 = true → s.flash.answers = false →
    ∃ t, exec .headerVerify s = .next t ∧ t.stuck = true ∧ cImgNone ∈ t.holding
      ∧ rdf t .imgFail 0 15 0 = cFlashRead ∧ rdf t .imgFail 1 15 0 = cFlashRead)
  ∧ (∀ (a b : Nat) (bist : BitVec 16) (s : State), canBoot s 6 = true → 2 ≤ a ∨ 2 ≤ b →
    ∃ t, exec (.hbmTraining a b bist) s = .next t ∧ t.stuck = true ∧ cHbmTrain ∈ t.holding ∧ rdf t .pwrBoot 0 15 12 = 6)
  ∧ (∀ (step : Fin 9) (sect : Fin 1024) (s : State), s.long = none →
      (canBoot s (stageOf s) = true ∧ (readsIn (stageOf s) step.val = true ∨ (stageOf s = 4 ∧ step.val = 0)))
        ∨ (s.run = true ∧ s.chg.active = true ∧ s.chg.staged = false ∧ step.val ∈ [1, 2, 3, 5, 7]) →
    ∃ t, exec (.flashReadTimeout false step sect) s = .next t ∧ rd t .imgRdCnt 0 = counted (rd s .imgRdCnt 0) 1
      ∧ rd t .imgSticky 0 = bput (rd s .imgSticky 0) 0 true ∧ onlyRegs s t [(.imgRdCnt, 0), (.imgSticky, 0)])
  ∧ (∀ (step : Fin 9) (sect : Fin 1024) (s : State), s.long = none → canBoot s (stageOf s) = true →
      readsIn (stageOf s) step.val = true → tries s < 2 → s.bootSlot < 2 →
    ∃ t, exec (.flashReadTimeout true step sect) s = .next t ∧ stageOf t = 4 ∧ t.bootSlot = 1 - s.bootSlot
      ∧ rd t .imgFail s.bootSlot = failWord ⟨step.val, cFlashRead, sect.val⟩)
  ∧ (∀ (sect : Fin 1024) (s : State), s.long = none → canBoot s 4 = true →
    ∃ t, exec (.flashReadTimeout true 0 sect) s = .next t ∧ t.stuck = true ∧ cImgNone ∈ t.holding
      ∧ rdf t .imgFail 0 15 0 = cFlashRead ∧ rdf t .imgFail 1 15 0 = cFlashRead)
  ∧ ∀ (step : Fin 9) (sect : Fin 1024) (s : State), s.long = none → s.run = true → s.chg.active = true →
      s.chg.staged = false → step.val ∈ [1, 2, 3, 5, 7] →
    ∃ t, exec (.flashReadTimeout true step sect) s = .next t ∧ t.chg.active = false ∧ t.img = s.img
      ∧ rd t .imgFail s.chg.slot = failWord ⟨step.val, cFlashRead, sect.val⟩

/-- Stages 8 to 10: stage 8 ends with the calibrations, of which a channel that fails carries OPEN from then on; stage 9 takes
the light it finds and never fails the slot; stage 10 begins with the enabled stop lines asserted and
passes once the stroke is locked and every enabled link is in RUN; what is not in RUN at its bound raises AXL_HANDSHAKE;
LOCKED clear for 2,000 ms raises STROKE_SYNC_LOST. Each enters the next stage with that stage's lists. -/
def Obligations.BringUpStages : Prop :=
  (∀ (failed : BitVec 64) (s : State), canBoot s 8 = true →
    ∃ t, exec (.senseCalibration failed) s = .next t ∧ ∀ v,
      let u := stageEntered (calibrate failed s) 8
      takesLists u (image u).rfxList (image u).oplList v → stageOf t = 9 ∧ t = v
        ∧ ∀ c < 64, isMod c = false → chanOn s c = true → failed.getLsbD c = true → (chanAt u c).failed = true)
  ∧ (∀ (w : Warmup) (s : State), canBoot s 9 = true →
    ∃ t, exec (.photonicWarmup w) s = .next t ∧ ∀ v,
      let u := clearStp (stageEntered (warmUp w s) 9)
      takesLists u (axisLoads u false) [] v → stageOf t = 10 ∧ t.linksUp = true ∧ t.driven = true ∧ u.lightX = w.lightX
        ∧ u.lightL = w.lightL ∧ t.lightX = v.lightX ∧ t.lightL = v.lightL ∧ t.img = v.img
        ∧ (∀ n < 12, lineOn v n = true → rdb t .stpState 0 n = true ∧ (lineAt t n).met = true))
  ∧ (∀ s : State, canBoot s 10 = true → s.linksUp = true → rdb s .stkStatus 0 0 = true → linksDown s = [] →
      s.debugHold = false →
    ∃ t, exec .axisLinkHandshake s = .next t ∧ ∀ v,
      let u := stageEntered s 10
      takesLists u (image u).svcList [] v → stageOf t = 11 ∧ t = showImage v (image v) ∧ rdb t .imgStat 0 1 = true
        ∧ t.holding = v.holding ∧ t.mem = v.mem)
  ∧ (∀ s : State, canBoot s 10 = true → s.linksUp = true → rdb s .stkStatus 0 0 = false →
      exec .axisLinkHandshake s = .next s)
  ∧ (∀ s : State, canBoot s 10 = true → s.linksUp = true → rdb s .stkStatus 0 0 = true → s.debugHold = false →
      s.stageAt + handshakeBound s ≤ s.now →
    ∃ t, exec .handshakeBoundExpiry s = .next t ∧ ∀ v,
      let u := stageEntered (forEach (linksDown s) (fun n x => raiseNow x cAxlHandshake scLink n) s) 10
      takesLists u (image u).svcList [] v → stageOf t = 11 ∧ (linksDown s ≠ [] → cAxlHandshake ∈ u.holding)
        ∧ t.holding = v.holding)
  ∧ ∀ s : State, canBoot s 10 = true → slave s = true → rdb s .stkStatus 0 0 = false → s.stageAt + 2000000000 ≤ s.now →
      cStrokeSyncLost ∉ s.holding →
    ∃ t, exec .syncLockTimeout s = .next t ∧ wasRaised s t cStrokeSyncLost scDevice 0 ∧ reported s t []
      ∧ t.pinFaultN = true

/-- Admission: an image that passes is in force with every instance placed; one that fails leaves STEP 9 and WRONG_STATE in
IMG_FAIL, and the other slot is tried, or after the second ADMIT_FAIL or REPLACE_TRAY holds FAULT_N. -/
def Obligations.AdmissionOutcome : Prop :=
  (∀ s : State, canBoot s 11 = true → s.admitted = false → s.debugHold = false → admits s = true →
    ∃ t, exec .admission s = .next t ∧ t.admitted = true ∧ t.stuck = false ∧ t.img = s.img
      ∧ ∀ p ∈ placeAll s, ∃ q ∈ placeAll s, q.inst = p.inst ∧ (instAt t p.inst).placed = true
          ∧ (instAt t p.inst).mask = q.mask)
  ∧ (∀ s : State, canBoot s 11 = true → s.admitted = false → s.debugHold = false → s.bootSlot < 2 → admits s = false →
      tries s < 2 →
    ∃ t, exec .admission s = .next t ∧ t.admitted = false ∧ stageOf t = 4 ∧ t.bootSlot = 1 - s.bootSlot
      ∧ rd t .imgFail s.bootSlot = failWord ⟨9, cWrongState, 0⟩ ∧ t.img = none)
  ∧ ∀ s : State, canBoot s 11 = true → s.admitted = false → s.debugHold = false → admits s = false → 2 ≤ tries s →
    ∃ t, exec .admission s = .next t ∧ t.admitted = false ∧ t.stuck = true ∧ rdf t .pwrBoot 0 15 12 = 11
      ∧ rd t .imgFail s.bootSlot = failWord ⟨9, cWrongState, 0⟩ ∧ (cAdmitFail ∈ t.holding ∨ cReplaceTray ∈ t.holding)

/-- The first catch edge after stage 11 enters Run: RUN rises, the stage is 12, Cox is in Run, stroke 0 begins at that
instant, and from then on RWL registers are locked. -/
def Obligations.EntryIntoRun : Prop :=
  ∀ s : State, canBoot s 11 = true → s.admitted = true → s.debugHold = false → s.chg.active = false → ticking s = true →
      s.phase = .recovery → (catchRange s).1 ≤ s.now →
    ∃ t, exec .runEntry s = .next t ∧ t.run = true ∧ stageOf t = 12 ∧ rdf t .coxStat 0 2 0 = 2
      ∧ t.strokeNo = s.strokeNo ∧ t.catchAt = Nat.min s.now (catchRange s).2 ∧ t.phase = .catch_ ∧ t.img = s.img

/-! ## The stroke -/

/-- The catch edge: in Run STK_COUNT increments, t = 0 is this instant, the catch phase begins, SYNC_OUT rises when it is
enabled, and an edge accepted before it is compared with it; while no catch edges are issued, or before the edge is due,
nothing happens. The edge is due one locked period after the last, in slave mode within 8 ns of that. -/
def Obligations.CatchEdge : Prop :=
  (∀ s : State, ticking s = true → s.phase = .recovery → (catchRange s).1 ≤ s.now → s.run = true →
    ∃ t, exec .catchEdge s = .next t ∧ t.strokeNo = s.strokeNo + 1 ∧ t.catchAt = Nat.min s.now (catchRange s).2
      ∧ t.phase = .catch_ ∧ t.syncOut = rdb s .stkCfg 0 1 ∧ t.earlyEdge = false ∧ t.lateEdge = s.earlyEdge ∧ t.run = true
      ∧ t.now = s.now ∧ ∀ e, s.edgeAt = some e → rdf t .stkPhaseErr 0 15 0 = unsigned 16 ((e : Int) - t.catchAt))
  ∧ (∀ s : State, ticking s = true → s.phase = .recovery → (catchRange s).1 ≤ s.now → s.run = false → s.admitted = false →
    ∃ t, exec .catchEdge s = .next t ∧ t.strokeNo = s.strokeNo ∧ t.catchAt = Nat.min s.now (catchRange s).2
      ∧ t.phase = .catch_ ∧ t.syncOut = rdb s .stkCfg 0 1)
  ∧ (∀ s : State, ticking s = false ∨ s.phase ≠ .recovery ∨ s.now < (catchRange s).1 → exec .catchEdge s = .next s)
  ∧ (∀ s : State, following s = false → catchRange s = (s.catchAt + s.lockNs, s.catchAt + s.lockNs))
  ∧ ∀ s : State, following s = true → rdb s .stkStatus 0 1 = false →
      s.catchAt + s.lockNs ≤ (catchRange s).1 + 8 ∧ (catchRange s).1 ≤ (catchRange s).2
        ∧ (catchRange s).2 ≤ s.catchAt + s.lockNs + 8

/-- Drive starts 400 ns after the catch, and the commit cut-off is 160 ns before the finish offset: a STROKE step that was
released and is not complete then has missed, with the outcome of its policy; one that is complete has not. -/
def Obligations.DriveAndCutoff : Prop :=
  (∀ s : State, ticking s = true → s.phase = .catch_ → 400 ≤ strokeNs s →
    ∃ t, exec .driveStart s = .next t ∧ t.phase = .drive ∧ t.syncOut = false ∧ t.mem = s.mem ∧ t.strokeNo = s.strokeNo
      ∧ regsKept s t [(.svcSticky, 0)]
      ∧ (s.run = false → t = { s with phase := .drive, syncOut := false }))
  ∧ (∀ s : State, ticking s = true → s.phase = .drive → finishNs s ≤ strokeNs s + 160 →
    ∃ t, exec .commitCutoff s = .next t ∧ t.phase = .cutoff ∧ t.strokeNo = s.strokeNo
      ∧ ∀ i ∈ instsOf s .stroke, (instAt s i).stepped = true →
          ((instAt s i).complete = false → (instAt t i).missed = true ∧ (instAt t i).coasted = coastPolicy s i
            ∧ (instAt t i).running = none)
          ∧ ((instAt s i).complete = true → (instAt t i).missed = (instAt s i).missed))
  ∧ (∀ s : State, strokeNs s < 400 → exec .driveStart s = .next s)
  ∧ ∀ s : State, strokeNs s + 160 < finishNs s → exec .commitCutoff s = .next s

/-- The finish edge ends drive and starts recovery; before Run it commits nothing. -/
def Obligations.FinishEdge : Prop :=
  (∀ s : State, ticking s = true → s.phase = .cutoff → finishNs s ≤ strokeNs s → s.run = true →
    ∃ t, exec .finish s = .next t ∧ t.phase = .recovery ∧ t.firstFinish = true ∧ t.strokeNo = s.strokeNo
      ∧ t.catchAt = s.catchAt)
  ∧ (∀ s : State, ticking s = true → s.phase = .cutoff → finishNs s ≤ strokeNs s → s.run = false →
    ∃ t, exec .finish s = .next t ∧ t.phase = .recovery ∧ t.firstFinish = s.firstFinish
      ∧ ∀ i, (instAt t i).header = (instAt s i).header)
  ∧ ∀ s : State, strokeNs s < finishNs s → exec .finish s = .next s

/-- The record of one instance: its header holds the stroke number, the instance, age, status and epoch; an instance that is
fenced, or a STROKE instance in fail-stop, carries FENCED and publishes nothing, with the payload of its last SERVED record
or, where FS_POLICY asks for it, a zero one; a STROKE step that missed carries LATE or COASTED by its policy; one that is complete publishes its output and
carries SERVED. -/
def Obligations.FinishRecords : Prop :=
  ∀ (i : Nat) (s : State),
    let x := instAt s i
    let y := instAt (commitRecord i s) i
    y.header = headerOf (strokeNat s) i y.age y.status (y.header.toNat / 2 ^ 56)
    ∧ (x.fenced = true → y.status = 5 ∧ y.out = x.out ∧ y.newOut = none)
    ∧ (clsOf s i = some .stroke → failStopped s = true →
        y.status = 5 ∧ y.out = x.out ∧ (fsPolicy s ≠ 0 → y.shown = [] ∧ y.age = 8191 ∧ y.shownStop = false)
          ∧ (fsPolicy s = 0 → y.shown = x.served ∧ y.shownStop = x.servedStop))
    ∧ (clsOf s i = some .stroke → withheld s i x = false → x.nanRecord = false → x.overrun = false →
        standbyFor s i = false → x.held = false → x.staleLeft = 0 → x.staleUntilResult = false →
        (x.missed = true → x.complete = false → y.status = (if x.coasted then 2 else 1) ∧ y.shown = x.out)
        ∧ (x.missed = false → x.complete = true → ∀ o, x.newOut = some o →
            y.status = 0 ∧ y.shown = o ∧ y.served = o ∧ y.shownStop = x.newStop ∧ y.newOut = none
            ∧ rd (commitRecord i s) .svcDecimCnt i = 0))

/-- Acquisition, holdover and fail-stop: the first edge steps the catch phase onto it, and the 16th accepted edge declares
LOCKED; an edge in the window of the catch edge to come is accepted and kept to be compared with it; a second edge in a
window is rejected and counted; a window that closes without an edge starts holdover and counts the stroke, and after 64
such strokes starts fail-stop with STROKE_SYNC_LOST; an accepted edge ends holdover, and the eighth edge of the right spacing
fail-stop. -/
def Obligations.StrokeSync : Prop :=
  (∀ s : State, ticking s = true → slave s = true → rdb s .stkCfg 0 2 = false → s.everLocked = false → s.acqRun = 0 →
    ∃ t, exec (.strokeSyncEdge true) s = .next t ∧ t.catchAt = s.now ∧ t.phase = .catch_ ∧ t.acqRun = 1
      ∧ t.strokeNo = s.strokeNo ∧ rdf t .stkPhaseErr 0 15 0 = 0 ∧ t.edges = [s.now])
  ∧ (∀ (rising : Bool) (s : State), ticking s = true → slave s = true → rising ≠ rdb s .stkCfg 0 2 → s.everLocked = true →
      syncStopped s = false → winNs s < strokeNs s → s.lockNs ≤ strokeNs s + winNs s → s.earlyEdge = false →
      rdb s .stkStatus 0 1 = false →
    ∃ t, exec (.strokeSyncEdge rising) s = .next t ∧ t.earlyEdge = true ∧ t.edgeAt = some s.now ∧ t.regs = s.regs
      ∧ t.catchAt = s.catchAt)
  ∧ (∀ (rising : Bool) (l : Nat) (s : State), ticking s = true → slave s = true → rising ≠ rdb s .stkCfg 0 2 →
      s.everLocked = true → syncStopped s = true → s.phase = .recovery → s.fsRun = 7 → s.fsLast = some l →
      periodNs s ≤ s.now - l + winNs s → s.now - l ≤ periodNs s + winNs s → cFabricStall ∉ s.holding → s.chg.active = false →
    ∃ t, exec (.strokeSyncEdge rising) s = .next t ∧ rdb t .stkStatus 0 0 = true ∧ rdb t .stkStatus 0 2 = false
      ∧ rdf t .stkStatus 0 15 8 = 0 ∧ t.catchAt = s.now ∧ t.phase = .catch_ ∧ cStrokeSyncLost ∉ t.holding)
  ∧ (∀ s : State, ticking s = true → slave s = true → rdb s .stkCfg 0 2 = false → s.everLocked = false → s.acqRun = 15 →
      strokeNs s ≤ winNs s → s.lateEdge = false → cStrokeSyncLost ∉ s.holding →
    ∃ t, exec (.strokeSyncEdge true) s = .next t ∧ rdb t .stkStatus 0 0 = true ∧ t.everLocked = true
      ∧ rdf t .stkPhaseErr 0 15 0 = strokeNs s % 2 ^ 16 ∧ t.lateEdge = true ∧ t.holding = s.holding
      ∧ regsKept s t [(.stkStatus, 0), (.stkPhaseErr, 0)])
  ∧ (∀ (rising : Bool) (s : State), ticking s = true → slave s = true → rising ≠ rdb s .stkCfg 0 2 → s.everLocked = true →
      syncStopped s = false → strokeNs s ≤ winNs s → s.lateEdge = true →
    ∃ t, exec (.strokeSyncEdge rising) s = .next t ∧ rd t .stkSticky 0 = bput (rd s .stkSticky 0) 0 true
      ∧ rdf t .stkSyncErr 0 15 0 = Nat.min (rdf s .stkSyncErr 0 15 0 + 1) 65535
      ∧ onlyRegs s t [(.stkSticky, 0), (.stkSyncErr, 0)])
  ∧ (∀ s : State, ticking s = true → slave s = true → rdb s .stkCfg 0 2 = false → s.everLocked = true →
      syncStopped s = false → strokeNs s ≤ winNs s → s.lateEdge = false → rdb s .stkStatus 0 1 = true →
    ∃ t, exec (.strokeSyncEdge true) s = .next t ∧ rdb t .stkStatus 0 1 = false ∧ rdf t .stkStatus 0 15 8 = 0
      ∧ rdb t .stkStatus 0 0 = rdb s .stkStatus 0 0 ∧ t.lateEdge = true ∧ t.catchAt = s.catchAt)
  ∧ (∀ (rising : Bool) (s : State), slave s = false ∨ rising = rdb s .stkCfg 0 2 →
      exec (.strokeSyncEdge rising) s = .next s)
  ∧ (∀ s : State, ticking s = true → slave s = true → s.lateEdge = false → syncStopped s = false →
      winNs s < strokeNs s → s.everLocked = true → rdf s .stkStatus 0 15 8 < 64 →
    ∃ t, exec .syncWindowClose s = .next t ∧ rdb t .stkStatus 0 1 = true ∧ rdb t .stkSticky 0 1 = true
      ∧ rdf t .stkStatus 0 15 8 = rdf s .stkStatus 0 15 8 + 1 ∧ t.holding = s.holding
      ∧ regsKept s t [(.stkStatus, 0), (.stkSticky, 0)])
  ∧ ∀ s : State, ticking s = true → slave s = true → s.lateEdge = false → syncStopped s = false → winNs s < strokeNs s →
      s.everLocked = true → rdf s .stkStatus 0 15 8 = 64 →
    ∃ t, exec .syncWindowClose s = .next t ∧ rdb t .stkStatus 0 2 = true ∧ rdb t .stkStatus 0 1 = false
      ∧ rdb t .stkStatus 0 0 = false ∧ rdf t .stkStatus 0 15 8 = 64 ∧ rdb t .stkSticky 0 2 = true
      ∧ cStrokeSyncLost ∈ t.holding ∧ rd t .fltLast 0 = lastWord cStrokeSyncLost scDevice 0

/-- The work of recovery: a checkpoint that completes puts the slot's bytes behind their header, with stroke number and epoch,
where the newest complete copy is found, and one with a poisoned word is dropped; a mirror cycle, when no checkpoint stands before it, queues the bundles of its slots, some of which
start at once, and raises MIRROR_LATE when the last cycle had not ended; a bank's heat slot lists its heat. -/
def Obligations.RecoveryWork : Prop :=
  (∀ (i : Fin 256) (k : Fin 64) (m : Model) (d : SlotDir) (bs : List Byte) (s : State), s.phase = .recovery →
      ticking s = true → .checkpoint i.val k.val ∈ s.recovery → modelOf s i.val = some m → m.slots[k.val]? = some d →
      slotRead s m d = some (bs, false) → 1 ≤ strokeNat s →
      (∀ c, complete (Tab.get noCopy (instAt s i.val).ckA k.val) = some c → c.stroke < strokeNat s) →
      (∀ c, complete (Tab.get noCopy (instAt s i.val).ckB k.val) = some c → c.stroke < strokeNat s) →
    ∃ t, exec (.checkpointComplete i k) s = .next t ∧ .checkpoint i.val k.val ∉ t.recovery
      ∧ newestCopy (instAt t i.val) k.val = some (mkCopy i.val k.val (strokeNat s) (instAt s i.val).epoch bs)
      ∧ (s.recovery = [.checkpoint i.val k.val] → s.run = false → t.mem = s.mem))
  ∧ (∀ (i : Fin 256) (k : Fin 64) (m : Model) (d : SlotDir) (bs : List Byte) (s : State), s.phase = .recovery →
      ticking s = true → .checkpoint i.val k.val ∈ s.recovery → modelOf s i.val = some m → m.slots[k.val]? = some d →
      slotRead s m d = some (bs, true) →
    ∃ t, exec (.checkpointComplete i k) s = .next t ∧ .checkpoint i.val k.val ∉ t.recovery
      ∧ newestCopy (instAt t i.val) k.val = newestCopy (instAt s i.val) k.val
      ∧ rdb t .scnSticky (ckptScull s i.val) 2 = true)
  ∧ (∀ (i : Fin 256) (k : Fin 64) (s : State), s.phase ≠ .recovery ∨ .checkpoint i.val k.val ∉ s.recovery →
      exec (.checkpointComplete i k) s = .next s)
  ∧ (∀ (c : Fin 64) (s : State) (i other : Nat) (m : Model), s.phase = .recovery → ticking s = true →
      .mirror c.val ∈ s.recovery → s.recovery.any isCkpt = false → (channelOf s c.val).bind (mirrorEnd s) = some (i, other) →
      modelOf s i = some m →
      let late : Prop := (rchanAt s c.val).mirrorQ ≠ []
    ∃ t n, exec (.mirrorCycle c) s = .next t ∧ .mirror c.val ∉ t.recovery
      ∧ (rchanAt t c.val).mirrorQ
          = (((m.slots.zipIdx.filter (fun e => e.1.mirror)).map (fun e => slotBundles s i e.2 e.1)).flatten).drop n
      ∧ (late → rdb t .oplSticky 0 6 = true ∧ rd t .fltLast 0 = lastWord cMirrorLate scRegatta c.val)
      ∧ (¬ late → rd t .fltLast 0 = rd s .fltLast 0))
  ∧ (∀ (b : Fin 4) (s : State), .heat b.val ∉ s.recovery → s.phase ≠ .recovery →
      exec (.heatSlot b) s = .next { s with recovery := s.recovery ++ [.heat b.val] })
  ∧ ∀ (b : Fin 4) (s : State), s.recovery = [] → s.phase = .recovery → ticking s = true →
      exec (.heatSlot b) s = .next (startHeat s b.val)

/-- Loss of STK_REFCLK: catch edges stop, STK_PHASE keeps what it read, REFCLK_LOSS is set, STK_REF_LOST holds FAULT_N, every
enabled stop line is asserted, and before Run start-up stops with FAIL_STAGE at its stage. -/
def Obligations.ReferenceLoss : Prop :=
  ∀ s : State, s.refLost = false → s.inReset = false →
    ∃ t, exec .refclkLoss s = .next t ∧ ticking t = false ∧ t.refLost = true
      ∧ rdb t .stkSticky 0 5 = true ∧ cStkRefLost ∈ t.holding ∧ t.strokeNo = s.strokeNo ∧ (s.run = false → t.stuck = true)
      ∧ (s.run = false → s.stuck = false → rdf t .pwrBoot 0 15 12 = stageOf s)
      ∧ (s.timerOn = true ∨ s.phase = .catch_ → phaseWord t = phaseWord s)
      ∧ ∀ n < 12, lineOn s n = true → rdb t .stpState 0 n = true

/-! ## Islands, supplies and bridges -/

/-- An adaptive island takes a clock between its floor and the peak it is allowed: a lower one at once, the voltage change
after it; a higher one when the voltage suffices, or when the regulator reports that it has completed the change, and none
while a change is in flight. The fixed islands never scale; after the third failed AVSBus transaction every adaptive island
is at its floor and none moves any more. HBM_FAIL fences every instance but TREND with pinned data and asks for a new tray.
Loss of VHTR is a suspect cause of every bank in use, which its return ends where no other source of it holds. -/
def Obligations.IslandsAndSupplies : Prop :=
  (∀ (u : Fin 16) (mhz : Nat) (s : State),
    (clockOk s (.sequencer u) mhz = true ↔ 640 ≤ mhz ∧ mhz ≤ 1000)
      ∧ (clockOk s (.scratchpad u) mhz = true ↔ 640 ≤ mhz ∧ mhz ≤ 1000)
      ∧ (clockOk s .stern mhz = true ↔ 500 ≤ mhz ∧ mhz ≤ 800)
      ∧ (signed 16 (rdf s .thmTemp (16 + u.val) 15 0) ≤ (16 * rdf s .thmThrot 0 15 8 : Nat) →
          (clockOk s (.array u) mhz = true ↔ 800 ≤ mhz ∧ mhz ≤ 1250)))
  ∧ (∀ (isl : Island) (mhz mv : Nat) (s : State), s.run = true → s.avsDead = false → clockOk s isl mhz = true →
      720 ≤ mv → mv ≤ 850 → mv % 5 = 0 →
    (mhz ≤ clockOf s isl →
      ∃ t, exec (.islandFrequencyChange isl ⟨mhz, mv⟩) s = .next t ∧ clockOf t isl = mhz
        ∧ t.avsChange = (if s.avsChange = none ∧ mv ≠ s.vddMv then some mv else s.avsChange)
        ∧ (∀ k, k ≠ isl → clockOf t k = clockOf s k)
        ∧ { t with regs := s.regs, sternMhz := s.sternMhz, avsChange := s.avsChange } = s
        ∧ ∀ r i, r ≠ .sclClk → rd t r i = rd s r i)
    ∧ (clockOf s isl < mhz → s.avsChange = none → mv = s.vddMv →
      ∃ t, exec (.islandFrequencyChange isl ⟨mhz, mv⟩) s = .next t ∧ clockOf t isl = mhz
        ∧ (∀ k, k ≠ isl → clockOf t k = clockOf s k) ∧ { t with regs := s.regs, sternMhz := s.sternMhz } = s
        ∧ ∀ r i, r ≠ .sclClk → rd t r i = rd s r i)
    ∧ (clockOf s isl < mhz → s.avsChange = none → s.vddMv < mv →
      exec (.islandFrequencyChange isl ⟨mhz, mv⟩) s = .next { s with avsChange := some mv, avsRaise := some (isl, mhz) })
    ∧ (clockOf s isl < mhz → s.avsChange ≠ none ∨ mv < s.vddMv → exec (.islandFrequencyChange isl ⟨mhz, mv⟩) s = .next s))
  ∧ (∀ (isl : Island) (mhz mv : Nat) (s : State), isl = .cox ∨ isl = .scheduler ∨ isl = .strokeTimer
      ∨ (∃ e, isl = .slice e) ∨ s.run = false ∨ s.avsDead = true ∨ clockOk s isl mhz = false →
    exec (.islandFrequencyChange isl ⟨mhz, mv⟩) s = .next s)
  ∧ (∀ s : State, s.avsDead = false → 6 ≤ stageOf s →
    (∃ t, exec (.avsbusReply true) s = .next t ∧ t.avsFails = 0 ∧ t.vddMv = s.avsChange.getD s.vddMv ∧ t.avsChange = none
        ∧ t.avsRaise = none ∧ (∀ isl mhz, s.avsRaise = some (isl, mhz) → clockOk s isl mhz = true → clockOf t isl = mhz)
        ∧ (s.avsRaise = none → t.regs = s.regs ∧ t.sternMhz = s.sternMhz))
    ∧ (s.avsFails < 2 → exec (.avsbusReply false) s = .next { s with avsFails := s.avsFails + 1 })
    ∧ (2 ≤ s.avsFails → ∃ t, exec (.avsbusReply false) s = .next t ∧ t.avsDead = true
        ∧ (∀ u, rd t .sclClk u = 0x640A0280) ∧ t.sternMhz = 500
        ∧ { t with
            regs := s.regs, avsDead := false, sternMhz := s.sternMhz, avsChange := s.avsChange, avsRaise := s.avsRaise } = s
        ∧ ∀ r i, r ≠ .sclClk → rd t r i = rd s r i))
  ∧ (∀ (k : Fin 2) (s : State), ∃ t, exec (.hbmFail k) s = .next t ∧ cHbmFail ∈ t.holding ∧ cReplaceTray ∈ t.holding
      ∧ rd t .fltLast 0 = lastWord cReplaceTray scDevice 0
      ∧ (∀ i ∈ instances s, clsOf s i ≠ some .trend →
          s.allot.any (fun a => a.ctx == ctxOfInst s i && a.flags % 2 == 1) = true → (instAt t i).fenced = true)
      ∧ ∀ i, clsOf s i = some .trend → (instAt t i).fenced = (instAt s i).fenced)
  ∧ (∀ s : State, ∃ t, exec .vhtrLoss s = .next t ∧ rdb t .pwrRail 0 9 = false ∧ rdb t .pwrSticky 0 3 = true
      ∧ t.insts = s.insts
      ∧ ∀ b < 4, (bankState s b = 0 → bankAt t b = bankAt s b ∧ bankState t b = 0)
          ∧ (bankState s b ≠ 0 → bankState t b = 2 ∧ 4 ∈ (bankAt t b).causes)
          ∧ (bankState s b = 1 → rdf t .rfxBankStat b 23 20 = 4))
  ∧ ∀ s : State, ∃ t, exec .vhtrReturn s = .next t ∧ rdb t .pwrRail 0 9 = true
      ∧ { t with regs := s.regs, banks := s.banks } = s
      ∧ regsKept s t [(.pwrRail, 0), (.rfxBankStat, 0), (.rfxBankStat, 1), (.rfxBankStat, 2), (.rfxBankStat, 3)]
      ∧ ∀ b < 4,
          let hot : Prop := 2 ≤ (bankAt s b).sensorBad ∨ (bankAt s b).lowRows ≠ []
            ∨ ∃ i < 4, 1840 ≤ signed 16 (rdf s .thmTemp (4 * b + i) 15 0)
          (¬ hot → 4 ∉ (bankAt t b).causes) ∧ (hot → bankAt t b = bankAt s b)

/-- A parity error on the sense bridge is counted, clears VALID of the sample word it hits, and makes the frame it hits
invalid: in the catch phase the one latched, later the one received last, which leaves its window; the 17th of a stroke
raises SENSE_LINK. One on the photonic bridge is counted and makes its bank suspect with
cause 5. -/
def Obligations.BridgeParity : Prop :=
  (∀ (c : Fin 64) (k : Nat) (w : DWord) (s : State), s.staged.reverse.find? (fun e => e.1 / 65536 == c.val) = some (k, w) →
      s.cal = none → s.bridgeStroke ≠ 16 →
    ∃ t, exec (.bridgeParityError (.sample c)) s = .next t ∧ (Tab.get noWord t.staged k).getLsbD 39 = false
      ∧ (∀ n, n ≠ 39 → (Tab.get noWord t.staged k).getLsbD n = w.getLsbD n)
      ∧ (∀ j, j ≠ k → Tab.get noWord t.staged j = Tab.get noWord s.staged j)
      ∧ rdf t .fltBridge 0 15 0 = Nat.min (rdf s .fltBridge 0 15 0 + 1) 65535
      ∧ t.bridgeStroke = s.bridgeStroke + 1 ∧ t.bridgeClean = 0
      ∧ { t with regs := s.regs, staged := s.staged, chans := s.chans, bridgeStroke := s.bridgeStroke
                 bridgeClean := s.bridgeClean } = s ∧ regsKept s t [(.fltBridge, 0)])
  ∧ (∀ (n : Fin 12) (s : State), s.bridgeStroke ≠ 16 → s.phase ≠ .catch_ → strokeNs s + 300 ≤ periodNs s →
      (linkAt s n.val).newest = .onTime ∨ (linkAt s n.val).newest = .lateTag →
    let l := linkAt s n.val
    ∃ t, exec (.bridgeParityError (.frame n)) s = .next t
      ∧ (linkAt t n.val).win = { l.win with
          onTime := if l.newest = .onTime then none else l.win.onTime
          lateFrame := if l.newest = .onTime then l.win.lateFrame else none
          invalid := true }
      ∧ (linkAt t n.val).newest = .none
      ∧ rd t .axlCrcCnt n.val = (if s.run then counted (rd s .axlCrcCnt n.val) 1 else rd s .axlCrcCnt n.val)
      ∧ rdf t .fltBridge 0 15 0 = Nat.min (rdf s .fltBridge 0 15 0 + 1) 65535 ∧ t.bridgeStroke = s.bridgeStroke + 1
      ∧ { t with regs := s.regs, links := s.links, bridgeStroke := s.bridgeStroke, bridgeClean := s.bridgeClean } = s
      ∧ regsKept s t [(.fltBridge, 0), (.axlCrcCnt, n.val)])
  ∧ (∀ (n : Fin 12) (f : List Byte) (s : State), s.bridgeStroke ≠ 16 → s.phase = .catch_ → (linkAt s n.val).latched = some f →
    ∃ t, exec (.bridgeParityError (.frame n)) s = .next t ∧ (linkAt t n.val).latched = none ∧ (linkAt t n.val).syncRun = 0
      ∧ linkState t n.val = linkState s n.val
      ∧ (s.run = true → rd t .axlCrcCnt n.val = counted (rd s .axlCrcCnt n.val) 1
          ∧ rd t .axlMissCnt n.val = counted (rd s .axlMissCnt n.val) 1)
      ∧ rdf t .fltBridge 0 15 0 = Nat.min (rdf s .fltBridge 0 15 0 + 1) 65535 ∧ t.bridgeStroke = s.bridgeStroke + 1)
  ∧ (∀ (n : Fin 12) (s : State), s.bridgeStroke ≠ 16 →
      (s.phase = .catch_ ∧ (linkAt s n.val).latched = none) ∨ (s.phase ≠ .catch_ ∧ (linkAt s n.val).newest = .none) →
    ∃ t, exec (.bridgeParityError (.frame n)) s = .next t
      ∧ rdf t .fltBridge 0 15 0 = Nat.min (rdf s .fltBridge 0 15 0 + 1) 65535 ∧ t.bridgeStroke = s.bridgeStroke + 1
      ∧ { t with regs := s.regs, bridgeStroke := s.bridgeStroke, bridgeClean := s.bridgeClean } = s
      ∧ regsKept s t [(.fltBridge, 0)])
  ∧ (∀ (n : Fin 12) (s : State), s.bridgeStroke = 16 → s.phase ≠ .catch_ →
    ∃ t, exec (.bridgeParityError (.frame n)) s = .next t ∧ wasRaised s t cSenseLink scDevice 0
      ∧ reported s { t with links := s.links, bridgeStroke := s.bridgeStroke, bridgeClean := s.bridgeClean }
          [(.fltBridge, 0), (.axlCrcCnt, n.val)])
  ∧ ∀ (b : Fin 4) (s : State), bankState s b.val ≠ 0 →
    ∃ t, exec (.bridgeParityError (.bank b)) s = .next t ∧ bankState t b.val = 2
      ∧ rdf t .fltBridge 0 31 16 = Nat.min (rdf s .fltBridge 0 31 16 + 1) 65535
      ∧ (bankState s b.val ≠ 2 → rdf t .rfxBankStat b.val 23 20 = 5
          ∧ rd t .fltLast 0 = lastWord cRfxSuspect scBank b.val)
      ∧ (∀ a, a ≠ b.val → bankAt t a = bankAt s a) ∧ t.insts = s.insts ∧ t.links = s.links ∧ t.staged = s.staged

/-! ## Sense inputs -/

/-- An output of an enabled channel: the staged word holds the code (for a modulator the rounded, offset and clamped density of
its filter window, for AE and VIB the code of the voltage at the channel's full scale, AE in VALUE[23:8]), the channel and the
nominal instant; it is valid only without SETTLE, OPEN and SHORT; overrange, its onset and its neighbours, and each cause of
OPEN, show. A word that is late leaves a slot with LATE and VALUE 0, and is counted when it arrives. -/
def Obligations.SampleWords : Prop :=
  (∀ (chan : Fin 64) (k : Nat) (smp : Sample) (s : State), chanOn s chan.val = true → k < outputsOf s chan.val →
      smp.late = false → s.cal = none → (chan.val < 48 → smp.bits.length = modOsr s chan.val) →
    let c := chan.val
    let x := if c < 48 then sampleBits s c smp.bits (chanAt s c) else chanAt s c
    let n := if c < 56 then 16 else 24
    let full : Int := 2 ^ (n - 1)
    let adc := adcCode s c n smp.num smp.den
    ∃ t, exec (.sampleOutput chan k smp) s = .next t ∧
      let w := Tab.get noWord t.staged (wordKey c k)
      w.toNat / 2 ^ 24 % 64 = c ∧ w.toNat % 2 ^ 24 = k * periodNs s / outputsOf s c % 2 ^ 24 ∧ w.toNat / 2 ^ 30 % 16 = 0
      ∧ w.getLsbD 34 = false
      ∧ (w.getLsbD 39 = true ↔ w.getLsbD 38 = false ∧ w.getLsbD 36 = false ∧ w.getLsbD 35 = false)
      ∧ (c < 48 → filterFull s c x = true → w.toNat / 2 ^ 40 = unsigned 24 (clampInt (-8388608) 8388607
          (roundEven ((densityOf s c x).1 * 2 ^ rdf s .snsModCfg c 21 16) (densityOf s c x).2
            - signed 24 (rdf s .snsModOfs c 23 0))))
      ∧ (48 ≤ c → w.toNat / 2 ^ 40 = unsigned 24 (clampInt (- full) (full - 1) adc * 2 ^ (24 - n)))
      ∧ ((c < 48 ∧ stuckRun s c x = true) ∨ (48 ≤ c ∧ (adc < - full ∨ full ≤ adc)) → w.getLsbD 37 = true
          ∧ ((chanAt s c).ovrPrev = false → rdb t .snsOvr (c / 32) (c % 32) = true
              ∧ ∀ d ∈ neighbours c, chanOn s d = true → (chanAt t d).disturbed = true
                  ∨ (Tab.get noWord t.staged (wordKey d k)).getLsbD 38 = true))
      ∧ (0 < (chanAt s c).settleLeft → w.getLsbD 38 = true) ∧ ((chanAt s c).disturbed = true → w.getLsbD 38 = true)
      ∧ ((chanAt s c).shortNow = true → w.getLsbD 35 = true)
      ∧ ((chanAt s c).openNow = true → w.getLsbD 36 = true) ∧ (c < 48 → 1024 ≤ x.levelRun → w.getLsbD 36 = true)
      ∧ (c < 48 → innerStrokes s < Tab.get zeroDefault s.mclkFlt (c / 12) → w.getLsbD 36 = true)
      ∧ (chanAt t c).word = w ∧ t.lateWords = s.lateWords
      ∧ (∀ j, j ≠ wordKey c k → (∀ d ∈ neighbours c, j ≠ wordKey d k) → Tab.get noWord t.staged j = Tab.get noWord s.staged j)
      ∧ { t with regs := s.regs, staged := s.staged, chans := s.chans, free := s.free } = s
      ∧ regsKept s t [(.snsOvr, c / 32)])
  ∧ (∀ (chan : Fin 64) (k : Nat) (smp : Sample) (s : State), chanOn s chan.val = true → k < outputsOf s chan.val →
      smp.late = true → (chan.val < 48 → smp.bits.length = modOsr s chan.val) →
    let c := chan.val
    ∃ t, exec (.sampleOutput chan k smp) s = .next t ∧
      let w := Tab.get noWord t.staged (wordKey c k)
      w.toNat / 2 ^ 30 = 2 ^ 4 ∧ w.toNat / 2 ^ 24 % 64 = c ∧ w.toNat % 2 ^ 24 = k * periodNs s / outputsOf s c % 2 ^ 24
      ∧ Tab.get zeroDefault t.lateWords c = Tab.get zeroDefault s.lateWords c + 1)
  ∧ (∀ (chan : Fin 64) (k : Nat) (smp : Sample) (s : State), chanOn s chan.val = false ∨ outputsOf s chan.val ≤ k
      ∨ (chan.val < 48 ∧ smp.bits.length ≠ modOsr s chan.val) →
      exec (.sampleOutput chan k smp) s = .next s)
  ∧ ∀ (chan : Fin 64) (s : State), 0 < Tab.get zeroDefault s.lateWords chan.val →
    ∃ t, exec (.lateWordArrival chan) s = .next t ∧ rdb t .snsSticky 0 1 = true
      ∧ rd t .snsLateCnt 0 = (if s.run then counted (rd s .snsLateCnt 0) 1 else rd s .snsLateCnt 0)
      ∧ Tab.get zeroDefault t.lateWords chan.val = Tab.get zeroDefault s.lateWords chan.val - 1
      ∧ { t with regs := s.regs, lateWords := s.lateWords } = s ∧ regsKept s t [(.snsLateCnt, 0), (.snsSticky, 0)]

/-- IEPE and MCLK: two readings above 22 V in a row set OPEN and two below 1 V set SHORT; ten in range clear both and settle
for 20 µs and three outputs; OPEN aborts an IEPE calibration of its channel; VIEPE low sets OPEN on every IEPE channel and shows
in PWR; an MCLK readback fault marks its group. -/
def Obligations.IepeAndMclk : Prop :=
  (∀ (v : Fin 8) (mv : Nat) (s : State), iepeOn s (56 + v.val) = true → s.cal = none →
    let c := 56 + v.val
    ∃ t, exec (.iepeBiasReading v mv) s = .next t
      ∧ (22000 < mv → 1 ≤ (chanAt s c).highRun → (chanAt t c).openNow = true ∧ rdb t .snsIepeStat 0 v.val = true
          ∧ rdb t .snsSticky 0 2 = true)
      ∧ (mv < 1000 → 1 ≤ (chanAt s c).lowRun → (chanAt t c).shortNow = true ∧ rdb t .snsIepeStat 0 (8 + v.val) = true
          ∧ rdb t .snsSticky 0 2 = true)
      ∧ (1000 ≤ mv → mv ≤ 22000 → s.viepeLow = false → 9 ≤ (chanAt s c).goodRun →
          (chanAt t c).openNow = false ∧ (chanAt t c).shortNow = false ∧ rdb t .snsIepeStat 0 v.val = false
          ∧ rdb t .snsIepeStat 0 (8 + v.val) = false
          ∧ ((chanAt s c).openNow = true ∨ (chanAt s c).shortNow = true →
              s.now + 20000 ≤ (chanAt t c).settleUntil ∧ (chanAt t c).settleAfter = 3))
      ∧ (1000 ≤ mv → mv ≤ 22000 → (chanAt s c).goodRun < 9 → (chanAt t c).openNow = (chanAt s c).openNow
          ∧ (chanAt t c).shortNow = (chanAt s c).shortNow)
      ∧ (∀ d, d ≠ c → chanAt t d = chanAt s d)
      ∧ { t with regs := s.regs, chans := s.chans } = s ∧ regsKept s t [(.snsIepeStat, 0), (.snsSticky, 0)])
  ∧ (∀ (v : Fin 8) (mv : Nat) (k : Cal) (s : State), iepeOn s (56 + v.val) = true → s.cal = some k → k.iepe = true →
      k.chan = 56 + v.val → 22000 < mv → 1 ≤ (chanAt s (56 + v.val)).highRun →
    ∃ t, exec (.iepeBiasReading v mv) s = .next t ∧ (chanAt t (56 + v.val)).openNow = true ∧ t.cal = none
      ∧ rd t .snsCalStat 0 = BitVec.ofNat 32 (k.chan * 2 ^ 16 + cWrongState) ∧ rdb t .snsSticky 0 3 = true)
  ∧ (∀ s : State, ∃ t, exec .viepeLow s = .next t ∧ rdb t .pwrRail 0 10 = false ∧ rdb t .pwrSticky 0 2 = true
      ∧ t.viepeLow = true
      ∧ (∀ v < 8, iepeOn s (56 + v) = true → (chanAt t (56 + v)).openNow = true ∧ rdb t .snsIepeStat 0 v = true)
      ∧ (∀ c, iepeOn s c = false → chanAt t c = chanAt s c)
      ∧ { t with regs := s.regs, chans := s.chans, viepeLow := s.viepeLow, cal := s.cal, calEnd := s.calEnd } = s
      ∧ regsKept s t [(.pwrRail, 0), (.pwrSticky, 0), (.snsIepeStat, 0), (.snsSticky, 0), (.snsCalStat, 0)])
  ∧ (∀ s : State, ∃ t, exec .viepeReturn s = .next t ∧ rd t .pwrRail 0 = bput (rd s .pwrRail 0) 10 true
      ∧ t.viepeLow = false ∧ onlyRegs s { t with viepeLow := s.viepeLow } [(.pwrRail, 0)])
  ∧ ∀ (g : Fin 4) (s : State), ∃ t, exec (.mclkReadbackFault g) s = .next t
      ∧ rd t .snsSticky 0 = bput (rd s .snsSticky 0) 5 true
      ∧ (∀ c, mclkBad t c = (decide (c / 12 = g.val) || mclkBad s c))
      ∧ (∀ h, h ≠ g.val → Tab.get zeroDefault t.mclkFlt h = Tab.get zeroDefault s.mclkFlt h)
      ∧ onlyRegs s { t with mclkFlt := s.mclkFlt } [(.snsSticky, 0)]

/-- Calibration requests: in Run only the stern core's is taken, any other requester's is turned away; one before Run sets CFG_REJ, one while BUSY sets CAL_BUSY,
one of a channel that cannot be calibrated leaves WRONG_STATE and CAL_ABORT at once, and any other starts. A current-offset
window ends with WRONG_STATE when its rms deviation exceeds the noise limit, with CAL_RANGE when its mean lies too far from
the loaded offset, and otherwise leaves the mean for the next catch; an IEPE calibration publishes the bias. -/
def Obligations.Calibration : Prop :=
  (∀ (rq : Requester) (chan : Fin 64) (iepe : Bool) (s : State),
    let cmd : Instr := if iepe then .calIepe rq chan else .calCurrentOffset rq chan
    let c := chan.val
    let cannot : Prop := if iepe then iepeOn s c = false ∨ (chanAt s c).openNow = true ∨ (chanAt s c).shortNow = true
      else 48 ≤ c ∨ chanOn s c = false ∨ rdf s .snsModCfg c 28 24 = 31 ∨ rd s .snsCalNoiseMax 0 = 0
        ∨ rd s .snsCalDeltaMax 0 = 0
    (rq ≠ .host → rq ≠ .stern → (rq = .cox → s.run = true) →
        ∃ t, exec cmd s = .next t ∧ wasRaised s t cAddrFault scRequester (reqId rq) ∧ reported s t [])
    ∧ (rq = .host → ∃ t, exec cmd s = .next t ∧ onlyRegs s t [(.hstSticky, 0)] ∧ rdb t .hstSticky 0 0 = true)
    ∧ (rq = .stern ∨ rq = .cox → s.run = false →
        ∃ t, exec cmd s = .next t ∧ rd t .snsSticky 0 = bput (rd s .snsSticky 0) 0 true ∧ onlyRegs s t [(.snsSticky, 0)])
    ∧ (rq = .stern → s.run = true → s.cal.isSome = true →
        ∃ t, exec cmd s = .next t ∧ rd t .snsSticky 0 = bput (rd s .snsSticky 0) 4 true ∧ onlyRegs s t [(.snsSticky, 0)])
    ∧ (rq = .stern → s.run = true → s.cal = none → cannot →
        ∃ t, exec cmd s = .next t ∧ rd t .snsCalStat 0 = BitVec.ofNat 32 (c * 2 ^ 16 + cWrongState)
          ∧ rd t .snsSticky 0 = bput (rd s .snsSticky 0) 3 true ∧ onlyRegs s t [(.snsSticky, 0), (.snsCalStat, 0)])
    ∧ (rq = .stern → s.run = true → s.cal = none → ¬ cannot →
        ∃ t, exec cmd s = .next t ∧ t.cal = some ⟨iepe, c, 0, [], s.now, false, 0⟩ ∧ rdb t .snsCalStat 0 31 = true
          ∧ rdf t .snsCalStat 0 21 16 = c ∧ onlyRegs s { t with cal := none } [(.snsCalStat, 0)]))
  ∧ (∀ (k : Cal) (s : State), s.cal = some k → k.iepe = false → 1024 ≤ k.count → k.caught = true → k.chan < 64 →
    let mean := roundEven k.codes.sum 1024
    let noise : Int := (rdf s .snsCalNoiseMax 0 23 0 : Nat)
    let delta : Int := (rdf s .snsCalDeltaMax 0 23 0 : Nat)
    let ofs := signed 24 (Tab.get (fun _ => (0 : Word)) s.ofsLoaded k.chan).toNat
    let loud : Prop := noise * noise * 1024 * 1024 < 1024 * (k.codes.map (fun x => x * x)).sum - k.codes.sum * k.codes.sum
    let off : Prop := delta < mean - ofs ∨ delta < ofs - mean
    ∃ t, exec .calOffsetWindowEnd s = .next t ∧ t.cal = none
      ∧ (loud → rd t .snsCalStat 0 = BitVec.ofNat 32 (k.chan * 2 ^ 16 + cWrongState) ∧ t.ofsPending = s.ofsPending)
      ∧ (¬ loud → off → rd t .snsCalStat 0 = BitVec.ofNat 32 (k.chan * 2 ^ 16 + cCalRange) ∧ t.ofsPending = s.ofsPending)
      ∧ (¬ loud → ¬ off → rd t .snsCalStat 0 = BitVec.ofNat 32 (k.chan * 2 ^ 16)
          ∧ t.ofsPending = some (k.chan, BitVec.ofNat 32 (unsigned 24 mean)))
      ∧ onlyRegs s { t with cal := s.cal, ofsPending := s.ofsPending, calEnd := s.calEnd } [(.snsSticky, 0), (.snsCalStat, 0)])
  ∧ ∀ (k : Cal) (mv : Nat) (s : State), s.cal = some k → k.iepe = true → k.since + 10000000 ≤ s.now → k.chan < 64 →
    ∃ t, exec (.calIepeDone mv) s = .next t ∧ t.cal = none ∧ rdf t .snsVibBias (k.chan - 56) 15 0 = mv % 2 ^ 16
      ∧ rd t .snsCalStat 0 = BitVec.ofNat 32 (k.chan * 2 ^ 16)
      ∧ onlyRegs s { t with cal := s.cal, calEnd := s.calEnd } [(.snsVibBias, k.chan - 56), (.snsCalStat, 0)]

/-! ## Axis links and stop lines -/

/-- The states of an enabled link: alignment leads from TRAIN to HELLO; a HELLO with this device's own fields from HELLO to
SYNC, one with others stays and counts; a HELLO in SYNC or RUN leads back to HELLO and counts as a loss for the stop line; every
HELLO names the active tray;
four good strokes lead from SYNC to RUN, and with the last enabled link AXL_HANDSHAKE ends; LOST_N strokes without a frame
lead to TRAIN with AXL_LOST, and set the stop line where LOST_STOP asks for it. -/
def Obligations.LinkStates : Prop :=
  (∀ (n : Fin 12) (s : State), linkOn s n.val = true → linkState s n.val = 0 →
    ∃ t, exec (.linkAligned n) s = .next t ∧ linkState t n.val = 1
      ∧ rdf t .axlStat n.val 31 2 = rdf s .axlStat n.val 31 2 ∧ onlyRegs s t [(.axlStat, n.val)])
  ∧ (∀ (n : Fin 12) (f : List Byte) (s : State), linkOn s n.val = true → frameOk n.val f = true → field f 0 1 = 2 →
      f.length = 32 → 1 ≤ linkState s n.val →
    let own : Prop := slice f 16 12 = ownHello s n.val
    let me : Prop := field f 3 1 = trayId s
    ∃ t, exec (.downstreamHello n f) s = .next t
      ∧ linkState t n.val = (if linkState s n.val = 1 ∧ slice f 16 12 = ownHello s n.val then 2 else 1)
      ∧ rdf t .axlStat n.val 15 8 = field f 3 1 ∧ (activeOn t n.val = true ↔ me)
      ∧ (¬ own → rdb t .axlSticky 0 2 = true
          ∧ rd t .axlHelloCnt n.val = (if s.run then counted (rd s .axlHelloCnt n.val) 1 else rd s .axlHelloCnt n.val))
      ∧ (own → rd t .axlHelloCnt n.val = rd s .axlHelloCnt n.val)
      ∧ (linkState s n.val = 3 → rdb t .axlSticky 0 1 = true)
      ∧ (2 ≤ linkState s n.val → rdb s .stpCfg n.val 29 = true → lineOn s n.val = true → me →
          lineSet t n.val = true ∧ rdb t .stpState 0 12 = true)
      ∧ (¬ me → s.firstFinish = true → lineSet t n.val = false)
      ∧ (linkState s n.val = 1 ∨ rdb s .stpCfg n.val 29 = false → me →
          rd t .stpState 0 = rd s .stpState 0 ∧ t.lines = s.lines)
      ∧ onlyRegs s { t with links := s.links, lines := s.lines }
          [(.axlStat, n.val), (.axlHelloCnt, n.val), (.axlSticky, 0), (.stpState, 0)])
  ∧ (∀ (n : Fin 12) (s : State), linkOn s n.val = true → linkState s n.val = 2 → 4 ≤ (linkAt s n.val).syncRun →
    ∃ t, exec (.linkToRun n) s = .next t ∧ linkState t n.val = 3
      ∧ (allLinksRun t = true → cAxlHandshake ∉ t.holding)
      ∧ (∀ k < 12, k ≠ n.val → linkState t k = linkState s k)
      ∧ (s.run = true → onlyRegs s { t with links := s.links, holding := s.holding } [(.axlStat, n.val)]))
  ∧ (∀ (n : Fin 12) (s : State), linkOn s n.val = true → linkState s n.val = 3 →
      rdf s .axlCfg n.val 27 24 ≤ (linkAt s n.val).missRun →
    ∃ t, exec (.linkLost n) s = .next t ∧ linkState t n.val = 0 ∧ rdb t .axlSticky 0 1 = true
      ∧ wasRaised s t cAxlLost scLink n.val
      ∧ (rdb s .stpCfg n.val 29 = true → lineOn s n.val = true → activeOn s n.val = true → lineSet t n.val = true)
      ∧ (rdb s .stpCfg n.val 29 = false → rd t .stpState 0 = rd s .stpState 0)
      ∧ reported s { t with links := s.links, lines := s.lines } [(.axlStat, n.val), (.axlSticky, 0), (.stpState, 0)])
  ∧ ∀ (n : Fin 12) (s : State), ∃ t, exec (.stopReadbackFault n) s = .next t ∧ wasRaised s t cStopLine scLink n.val
      ∧ rdb t .stpSticky 0 1 = true ∧ (lineAt t n.val).flt = true ∧ lineSet t n.val = lineSet s n.val
      ∧ (∀ k, k ≠ n.val → lineAt t k = lineAt s k) ∧ reported s { t with lines := s.lines } [(.stpSticky, 0)]

/-- A downstream DATA frame that arrives by 300 ns before the next catch: a valid one tagged for the next stroke is the one
that stroke latches, or counts as a second one; one tagged for this stroke is kept as late; any other tag counts in SEQ; an
invalid one, and a code error, are discarded and counted. One that arrives later waits for the window of the catch after. A
standby tray with DH_EN that has a trigger claims: three frames with HB_MISS, or three heartbeats missed of the other end of
a mirror. -/
def Obligations.DownstreamFrames : Prop :=
  (∀ (n : Fin 12) (f : List Byte) (s : State), linkOn s n.val = true → linkState s n.val ≠ 0 → s.run = true →
      strokeNs s + 300 ≤ periodNs s →
    let w := (linkAt s n.val).win
    let good : Prop := frameOk n.val f = true ∧ field f 0 1 = 1 ∧ f.length + 2 = rdf s .axlCfg n.val 9 0
    let tag := field f 4 4
    ∃ t, exec (.downstreamData n f) s = .next t
      ∧ (good → tag = (strokeNat s + 1) % 2 ^ 32 → w.onTime = none →
          (linkAt t n.val).win = { w with onTime := some f } ∧ onlyRegs s { t with links := s.links } [])
      ∧ (good → tag = (strokeNat s + 1) % 2 ^ 32 → w.onTime ≠ none →
          (linkAt t n.val).win = w ∧ rd t .axlSeqCnt n.val = counted (rd s .axlSeqCnt n.val) 1)
      ∧ (good → tag = strokeNat s % 2 ^ 32 → w.lateFrame = none → (linkAt t n.val).win = { w with lateFrame := some f })
      ∧ (good → tag ≠ (strokeNat s + 1) % 2 ^ 32 → tag ≠ strokeNat s % 2 ^ 32 →
          (linkAt t n.val).win = w ∧ rd t .axlSeqCnt n.val = counted (rd s .axlSeqCnt n.val) 1)
      ∧ (¬ good → (linkAt t n.val).win = { w with invalid := true }
          ∧ rd t .axlCrcCnt n.val = counted (rd s .axlCrcCnt n.val) 1 ∧ rd t .axlSeqCnt n.val = rd s .axlSeqCnt n.val)
      ∧ (∀ k, k ≠ n.val → linkAt t k = linkAt s k)
      ∧ onlyRegs s { t with links := s.links } [(.axlSeqCnt, n.val), (.axlCrcCnt, n.val)])
  ∧ (∀ (n : Fin 12) (f : List Byte) (s : State), linkOn s n.val = true → linkState s n.val ≠ 0 →
      periodNs s < strokeNs s + 300 → frameOk n.val f = true → field f 0 1 = 1 → f.length + 2 = rdf s .axlCfg n.val 9 0 →
    ∃ t, exec (.downstreamData n f) s = .next t ∧ (linkAt t n.val).win = (linkAt s n.val).win
      ∧ (linkAt t n.val).nextFrames = (linkAt s n.val).nextFrames ++ [f]
      ∧ (∀ k, k ≠ n.val → linkAt t k = linkAt s k) ∧ onlyRegs s { t with links := s.links } [])
  ∧ (∀ (n : Fin 12) (s : State), linkOn s n.val = true → linkState s n.val ≠ 0 → strokeNs s + 300 ≤ periodNs s →
    ∃ t, exec (.codeError n) s = .next t ∧ (linkAt t n.val).win = { (linkAt s n.val).win with invalid := true }
      ∧ rd t .axlCrcCnt n.val = (if s.run then counted (rd s .axlCrcCnt n.val) 1 else rd s .axlCrcCnt n.val)
      ∧ onlyRegs s { t with links := s.links } [(.axlCrcCnt, n.val)])
  ∧ ∀ s : State, rdb s .axlTray 0 9 = true → (∀ n < 12, linkOn s n = true → activeOn s n = false) →
      (∃ n < 12, linkOn s n = true ∧ rdb s .axlCfg n 30 = true ∧ rdf s .axlStat n 17 16 = 3)
        ∨ (∃ c ∈ (image s).chans, c.typ = 1 ∧
            ((c.dst = rdf s .oplCfg 0 2 0 ∧ 3 ≤ Tab.get zeroDefault s.misses c.src)
              ∨ (c.src = rdf s .oplCfg 0 2 0 ∧ 3 ≤ Tab.get zeroDefault s.misses c.dst))) →
    exec .claim s = .next { s with claiming := true }

/-! ## Instructions of the sequencer and the stern core -/

/-- alu, alui, li and fop write their result to rd, move past the instruction and change nothing else; the result of a shift
by 64 or more is a free value; a conversion to an integer sets SAT_CVT where it saturates and NAN_INT for a NaN. An undefined
minor opcode, a non-zero unused field and a scalar number from 32 on are ILLEGAL_OP at issue. min and max are the model's
signed ones (assumption 18), and −0 ranks below +0 (assumption 20). -/
def Obligations.ScalarArithmetic : Prop :=
  (∀ (u : Fin 17) (w : BitVec 56) (s : State) (k : Nat), ready s u k [iRa w, iRb w] [iRd w] → iMinor w < 16 → iRc w = 0 →
      iFn w = 0 →
    ∃ t v, exec (.alu u w) s = .next t ∧ wrote (ctxAt s k) (ctxAt t k) (iRd w) ⟨v, false⟩ ∧ ctxOnly s t k []
      ∧ ∀ r, aluSpec (iMinor w) (sGet (ctxAt s k) (iRa w)).val (sGet (ctxAt s k) (iRb w)).val = some r → v = r)
  ∧ (∀ (u : Fin 17) (w : BitVec 56) (s : State) (k : Nat), ready s u k [iRa w] [iRd w] → iMinor w < 16 →
    ∃ t v, exec (.alui u w) s = .next t ∧ wrote (ctxAt s k) (ctxAt t k) (iRd w) ⟨v, false⟩ ∧ ctxOnly s t k []
      ∧ ∀ r, aluSpec (iMinor w) (sGet (ctxAt s k) (iRa w)).val (BitVec.ofInt 64 (iImm w)) = some r → v = r)
  ∧ (∀ (u : Fin 17) (w : BitVec 56) (s : State) (k : Nat), ready s u k [] [iRd w] → iMinor w = 0 → iRa w = 0 →
    ∃ t, exec (.li u w) s = .next t ∧ wrote (ctxAt s k) (ctxAt t k) (iRd w) ⟨BitVec.ofInt 64 (iImm w), false⟩
      ∧ ctxOnly s t k [])
  ∧ (∀ (u : Fin 17) (w : BitVec 56) (s : State) (k : Nat), ready s u k [iRd w] [iRd w] → iMinor w = 1 → iRa w = 0 →
      iImmBits w < 2 ^ 28 →
    ∃ t v, exec (.li u w) s = .next t ∧ wrote (ctxAt s k) (ctxAt t k) (iRd w) ⟨v, false⟩ ∧ ctxOnly s t k []
      ∧ v.toNat / 2 ^ 36 = iImmBits w ∧ v.toNat % 2 ^ 36 = (sGet (ctxAt s k) (iRd w)).val.toNat % 2 ^ 36)
  ∧ (∀ (u : Fin 17) (w : BitVec 56) (s : State) (k : Nat), ready s u k (fopSources w) [iRd w] → iMinor w < 9 → iFn w = 0 →
      (iMinor w = 3 ∨ iRc w = 0) → (iMinor w < 8 ∨ iRb w = 0) →
      let a := (sGet (ctxAt s k) (iRa w)).val.toNat % 2 ^ 32
      let b := (sGet (ctxAt s k) (iRb w)).val.toNat % 2 ^ 32
      let c := (sGet (ctxAt s k) (iRc w)).val.toNat % 2 ^ 32
    ∃ t v, exec (.fop u w) s = .next t ∧ wrote (ctxAt s k) (ctxAt t k) (iRd w) ⟨v, false⟩ ∧ ctxOnly s t k []
      ∧ v.toNat < 2 ^ 32
      ∧ (iMinor w = 0 → v.toNat = rn (addNum (f32 a) (f32 b)))
      ∧ (iMinor w = 1 → isNan a = false → isNan b = false → v.toNat = rn (addNum (f32 a) (negNum (f32 b))))
      ∧ (iMinor w = 2 → v.toNat = rn (mulNum (f32 a) (f32 b)))
      ∧ (iMinor w = 3 → isNan a = false → isNan b = false → isNan c = false →
          v.toNat = rn (addNum (mulNum (f32 a) (f32 b)) (f32 c)))
      ∧ (iMinor w = 4 → isNan a = false → isNan b = false → v.toNat = if flt a b then a else if flt b a then b else a ||| b)
      ∧ (iMinor w = 5 → isNan a = false → isNan b = false → v.toNat = if flt a b then b else if flt b a then a else a &&& b)
      ∧ (iMinor w = 6 → v.toNat = if flt a b then 1 else 0)
      ∧ (iMinor w = 7 → v.toNat = if feq a b then 1 else 0)
      ∧ (iMinor w < 6 → ∀ n, firstNan (if iMinor w = 3 then [f32 a, f32 b, f32 c] else [f32 a, f32 b]) = some n →
          v.toNat = if n then 0xFFC00000 else 0x7FC00000)
      ∧ (iMinor w = 8 → v.toNat = rn (ofInt false (BitVec.ofNat 32 a).toInt 0)))
  ∧ (∀ (u : Fin 17) (w : BitVec 56) (s : State) (k : Nat), ready s u k [iRa w] [iRd w] → iMinor w = 9 →
      iFn w = 0 → iRb w = 0 → iRc w = 0 →
      let x := f32 (sGet (ctxAt s k) (iRa w)).val.toNat
    ∃ t v, exec (.fop u w) s = .next t ∧ wrote (ctxAt s k) (ctxAt t k) (iRd w) ⟨v, false⟩
      ∧ ctxOnly s t k (if u.val < 16 then [(.vecNumSticky, u.val)] else [])
      ∧ (let sets (n : Nat) : Prop := u.val < 16 → rd t .vecNumSticky u.val = bput (rd s .vecNumSticky u.val) n true
        (∀ n, x = .nan n → v = 0 ∧ sets 3) ∧ (x = .inf false → v = 0x7FFFFFFF ∧ sets 1)
        ∧ (x = .inf true → v = 0x80000000 ∧ sets 1)
        ∧ ∀ n m e, x = .fin n m e →
          let i := signedM n (scaleRound false m e)
          (-2147483648 ≤ i → i ≤ 2147483647 →
            v = (BitVec.ofInt 32 i).zeroExtend 64 ∧ rd t .vecNumSticky u.val = rd s .vecNumSticky u.val)
          ∧ (2147483647 < i → v = 0x7FFFFFFF ∧ sets 1) ∧ (i < -2147483648 → v = 0x80000000 ∧ sets 1)))
  ∧ ∀ (u : Fin 17) (w : BitVec 56) (s : State) (k : Nat), mayRun s u k →
      (16 ≤ iMinor w ∨ iRc w ≠ 0 ∨ iFn w ≠ 0 ∨ 32 ≤ iRd w ∨ 32 ≤ iRa w ∨ 32 ≤ iRb w →
        ∃ t, exec (.alu u w) s = .next t ∧ trapDue s t k 0x01 .issue [(ctxAt s k).pc, instrWord 0x00 w] none)
      ∧ (16 ≤ iMinor w ∨ 32 ≤ iRd w ∨ 32 ≤ iRa w →
        ∃ t, exec (.alui u w) s = .next t ∧ trapDue s t k 0x01 .issue [(ctxAt s k).pc, instrWord 0x01 w] none)
      ∧ (2 ≤ iMinor w ∨ iRa w ≠ 0 ∨ (iMinor w = 1 ∧ 2 ^ 28 ≤ iImmBits w) ∨ 32 ≤ iRd w →
        ∃ t, exec (.li u w) s = .next t ∧ trapDue s t k 0x01 .issue [(ctxAt s k).pc, instrWord 0x02 w] none)
      ∧ (10 ≤ iMinor w ∨ iFn w ≠ 0 ∨ 32 ≤ iRd w ∨ 32 ≤ iRa w →
        ∃ t, exec (.fop u w) s = .next t ∧ trapDue s t k 0x01 .issue [(ctxAt s k).pc, instrWord 0x05 w] none)

/-- ld and st at ra + imm: the bytes at the scratchpad offset or at the mapped HBM address, sign-extended where asked, with
their poison; a store writes exactly its bytes and their poison, and a full word replaces the poison of its word. A misaligned
address is MISALIGNED, an offset beyond the window SPAD_RANGE, and a store narrower than 64 bits into a poisoned word
POISON. -/
def Obligations.LoadsAndStores : Prop :=
  (∀ (u : Fin 17) (w : BitVec 56) (ecc : Ecc) (s : State) (k d : Nat), ready s u k [iRa w] [iRd w] → iMinor w < 16 →
      accLocal w = true → accAddr (ctxAt s k) w % accSize w = 0 →
      localAddr s u.val (k % 64) (accAddr (ctxAt s k) w) (accSize w) = some d →
      mayIssue s k [] [] (some (granules d (accSize w))) none = true →
    ∃ t v, exec (.ld u w ecc) s = .next t
      ∧ wrote (ctxAt s k) (ctxAt t k) (iRd w) ⟨v, poisonIn s d (accSize w) || ecc == .uncorrectable⟩
      ∧ v.toNat % 2 ^ (8 * accSize w) = natOf (memRead s d (accSize w))
      ∧ (iMinor w / 4 % 2 = 0 → v.toNat < 2 ^ (8 * accSize w))
      ∧ (iMinor w / 4 % 2 = 1 → v.toInt = signed (8 * accSize w) (natOf (memRead s d (accSize w))))
      ∧ t.mem = s.mem ∧ (∀ j, j ≠ k → ctxAt t j = ctxAt s j) ∧ (ecc = .clean → ctxOnly s t k [])
      ∧ (ecc ≠ .uncorrectable → t.poisoned = s.poisoned))
  ∧ (∀ (u : Fin 17) (w : BitVec 56) (s : State) (k d x : Nat), ready s u k [iRa w] [iRd w] → iMinor w < 16 →
      accLocal w = false → accAddr (ctxAt s k) w % accSize w = 0 → mapsTo s u k (accAddr (ctxAt s k) w) d x →
    ∃ t v, exec (.ld u w .clean) s = .next t ∧ ctxOnly s t k []
      ∧ wrote (ctxAt s k) (ctxAt t k) (iRd w) ⟨v, poisonIn s d (accSize w)⟩
      ∧ v.toNat % 2 ^ (8 * accSize w) = natOf (memRead s d (accSize w))
      ∧ (iMinor w / 4 % 2 = 0 → v.toNat < 2 ^ (8 * accSize w))
      ∧ (iMinor w / 4 % 2 = 1 → v.toInt = signed (8 * accSize w) (natOf (memRead s d (accSize w)))))
  ∧ (∀ (u : Fin 17) (w : BitVec 56) (s : State) (k d : Nat), ready s u k [iRa w] [] → iRd w < 32 → iMinor w < 16 →
      iMinor w / 4 % 2 = 0 → mayIssue s k [rnS (ctxAt s k) (iRd w)] [] none none = true →
      accAddr (ctxAt s k) w % accSize w = 0 → (accSize w < 8 → poisonIn s d (accSize w) = false) →
      (accLocal w = true ∧ localAddr s u.val (k % 64) (accAddr (ctxAt s k) w) (accSize w) = some d
          ∧ mayIssue s k [] [] none (some (granules d (accSize w))) = true
        ∨ accLocal w = false ∧ ∃ x, mapsTo s u k (accAddr (ctxAt s k) w) d x ∧ pteW x = true) →
    ∃ t, exec (.st u w) s = .next t ∧ wentTo (ctxAt s k) (ctxAt t k) ((ctxAt s k).pc + 8)
      ∧ ctxOnly s { t with mem := s.mem, poisoned := s.poisoned, banks := s.banks } k []
      ∧ memRead t d (accSize w) = bytesOf (accSize w) (sGet (ctxAt s k) (iRd w)).val.toNat
      ∧ (∀ a, a < d ∨ d + accSize w ≤ a → mrd t a = mrd s a)
      ∧ ((sGet (ctxAt s k) (iRd w)).poison = true → poisonIn t d (accSize w) = true)
      ∧ (accSize w = 8 → d % 8 = 0 → (sGet (ctxAt s k) (iRd w)).poison = false → poisonIn t d 8 = false)
      ∧ ∀ b, { bankAt t b with goWaiting := (bankAt s b).goWaiting } = bankAt s b)
  ∧ (∀ (u : Fin 17) (w : BitVec 56) (ecc : Ecc) (s : State) (k : Nat), ready s u k [iRa w] [iRd w] → iMinor w < 16 →
      accAddr (ctxAt s k) w % accSize w ≠ 0 →
    ∃ t, exec (.ld u w ecc) s = .next t
      ∧ trapDue s t k 0x02 .issue [(ctxAt s k).pc, instrWord 0x03 w, BitVec.ofNat 64 (accAddr (ctxAt s k) w)] none)
  ∧ (∀ (u : Fin 17) (w : BitVec 56) (ecc : Ecc) (s : State) (k : Nat), ready s u k [iRa w] [iRd w] → iMinor w < 16 →
      accLocal w = true → accAddr (ctxAt s k) w % accSize w = 0 →
      (windowOf s u.val (k % 64)).2 < accAddr (ctxAt s k) w + accSize w →
    ∃ t, exec (.ld u w ecc) s = .next t
      ∧ trapDue s t k 0x03 .issue
          [(ctxAt s k).pc, BitVec.ofNat 64 (accAddr (ctxAt s k) w), 0, 0, 0, 0, 0] none)
  ∧ ∀ (u : Fin 17) (w : BitVec 56) (s : State) (k d : Nat), ready s u k [iRa w] [] → iRd w < 32 → iMinor w < 16 →
      iMinor w / 4 % 2 = 0 → mayIssue s k [rnS (ctxAt s k) (iRd w)] [] none none = true →
      accAddr (ctxAt s k) w % accSize w = 0 → accLocal w = true → accSize w < 8 → poisonIn s d (accSize w) = true →
      localAddr s u.val (k % 64) (accAddr (ctxAt s k) w) (accSize w) = some d →
      mayIssue s k [] [] none (some (granules d (accSize w))) = true →
    ∃ t, exec (.st u w) s = .next t
      ∧ trapDue s t k 0x06 .exec
          [(ctxAt s k).pc, BitVec.ofNat 64 (accAddr (ctxAt s k) w), 64, BitVec.ofNat 64 (d / 8 * 8), 0, 0, 0] none

/-- br, jmp, call and ret: the PC; call gives a fresh frame of zeros with the return address in s15, and ret goes back to the
frame below; in a handler HD counts. A full ring is WINDOW_OVERFLOW and an empty one with spilled frames WINDOW_UNDERFLOW for
ordinary code; wspill and wfill move one frame to and from the spill area and change no other byte. -/
def Obligations.ControlTransfer : Prop :=
  (∀ (u : Fin 17) (w : BitVec 56) (s : State) (k : Nat), iMinor w < 8 → (4 ≤ iMinor w ∨ iRa w = 0) →
      ready s u k (if 4 ≤ iMinor w then [iRd w, iRa w] else [iRd w]) [] →
    ∃ t, exec (.br u w) s = .next t ∧ ctxOnly s t k []
      ∧ wentTo (ctxAt s k) (ctxAt t k)
          (if brSpec (iMinor w) (sGet (ctxAt s k) (iRd w)).val (sGet (ctxAt s k) (iRa w)).val then
            (ctxAt s k).pc + BitVec.ofInt 64 (8 * iImm w) else (ctxAt s k).pc + 8))
  ∧ (∀ (u : Fin 17) (w : BitVec 56) (s : State) (k : Nat), iMinor w = 0 → iRd w = 0 → iRa w = 0 → ready s u k [] [] →
      (ctxAt s k).pc.toNat % 8 = 0 →
    ∃ t, exec (.jmp u w) s = .next t ∧ ctxOnly s t k []
      ∧ wentTo (ctxAt s k) (ctxAt t k) ((ctxAt s k).pc + BitVec.ofInt 64 (8 * iImm w)))
  ∧ (∀ (u : Fin 17) (w : BitVec 56) (s : State) (k : Nat), iMinor w = 1 → iRd w = 0 → iImmBits w = 0 →
      ready s u k [iRa w] [] →
      ((sGet (ctxAt s k) (iRa w)).val.toNat % 8 = 0 →
        ∃ t, exec (.jmp u w) s = .next t ∧ ctxOnly s t k [] ∧ wentTo (ctxAt s k) (ctxAt t k) (sGet (ctxAt s k) (iRa w)).val)
      ∧ ((sGet (ctxAt s k) (iRa w)).val.toNat % 8 ≠ 0 →
        ∃ t, exec (.jmp u w) s = .next t
          ∧ trapDue s t k 0x02 .issue [(ctxAt s k).pc, instrWord 0x11 w, (sGet (ctxAt s k) (iRa w)).val] none))
  ∧ (∀ (u : Fin 17) (w : BitVec 56) (s : State) (k : Nat), iMinor w < 2 → iRd w = 0 → (iMinor w = 0 → iRa w = 0) →
      (iMinor w = 1 → iImmBits w = 0) → ready s u k (if iMinor w = 1 then [iRa w] else []) [] →
      ((ctxAt s k).tw = true → (ctxAt s k).hd < 255) →
      let c := ctxAt s k
      let a : DWord := if iMinor w = 1 then (sGet c (iRa w)).val else c.pc + BitVec.ofInt 64 (8 * iImm w)
      (a.toNat % 8 ≠ 0 →
        ∃ t, exec (.call u w) s = .next t ∧ trapDue s t k 0x02 .issue [c.pc, instrWord 0x12 w, a] none)
      ∧ (a.toNat % 8 = 0 → c.live < 7 →
        ∃ t, exec (.call u w) s = .next t ∧ ctxOnly s t k []
          ∧ (let d := ctxAt t k
             d.pc = a ∧ d.seqNo = c.seqNo + 1 ∧ d.cwp = (c.cwp + 1) % 7 ∧ d.live = c.live + 1
              ∧ d.hd = c.hd + (if c.tw then 1 else 0)
              ∧ (∀ n < 16, sGet d n = sGet c n) ∧ (∀ n < 31, 16 ≤ n → sGet d n = ⟨0, false⟩) ∧ sGet d 31 = ⟨c.pc + 8, false⟩
              ∧ (∀ j, j / 16 ≠ (c.cwp + 1) % 7 → Tab.get sDefault d.win j = Tab.get sDefault c.win j)
              ∧ { d with pc := c.pc, seqNo := c.seqNo, cwp := c.cwp, live := c.live, hd := c.hd, win := c.win } = c))
      ∧ (a.toNat % 8 = 0 → 7 ≤ c.live → c.tw = false →
        ∃ t, exec (.call u w) s = .next t
          ∧ trapDue s t k 0x09 .issue [c.pc, BitVec.ofNat 64 (c.cwp % 8 + c.live % 8 * 8), c.spillPtr] none))
  ∧ (∀ (u : Fin 17) (w : BitVec 56) (s : State) (k : Nat), iMinor w = 0 → ib w 47 0 = 0 → ready s u k [31] [] →
      let c := ctxAt s k
      ((sGet c 31).val.toNat % 8 = 0 → (c.tw = true ∧ c.hd = 1) ∨ (2 ≤ c.live ∧ ¬ (c.tw = true ∧ c.hd = 0)) →
        ∃ t, exec (.ret u w) s = .next t ∧ ctxOnly s t k []
          ∧ ctxAt t k = { c with pc := (sGet c 31).val, seqNo := c.seqNo + 1, cwp := (c.cwp + 6) % 7, live := c.live - 1
                                 hd := c.hd - (if c.tw then 1 else 0) })
      ∧ (c.tw = true → c.hd = 0 →
        ∃ t, exec (.ret u w) s = .next t ∧ trapDue s t k 0x01 .issue [c.pc, instrWord 0x13 w] none)
      ∧ (c.tw = false → c.live < 2 → c.spillBase.toNat < c.spillPtr.toNat →
        ∃ t, exec (.ret u w) s = .next t
          ∧ trapDue s t k 0x0A .issue [c.pc, BitVec.ofNat 64 (c.cwp % 8 + c.live % 8 * 8), c.spillPtr] none)
      ∧ (c.tw = false → c.live < 2 → c.spillPtr.toNat ≤ c.spillBase.toNat →
        ∃ t, exec (.ret u w) s = .next t ∧ trapDue s t k 0x01 .issue [c.pc, instrWord 0x13 w] none))
  ∧ (∀ (u : Fin 17) (w : BitVec 56) (s : State) (k d x : Nat), iMinor w = 0 → ib w 47 0 = 0 → ready s u k [] [] →
      let c := ctxAt s k
      c.tw = true → 1 < c.live → c.spillPtr.toNat % 128 = 0 → c.spillPtr.toNat + 128 ≤ c.spillLim.toNat →
      mapsTo s u k c.spillPtr.toNat d x → pteW x = true →
      (∀ a ∈ tableWords s (rootOf s (eightOf u.val) (spaceOf k)) c.spillPtr.toNat, a + 8 ≤ d ∨ d + 128 ≤ a) →
    ∃ t, exec (.wspill u w) s = .next t ∧ ctxOnly s { t with mem := s.mem, poisoned := s.poisoned } k []
      ∧ ctxAt t k = { c with pc := c.pc + 8, seqNo := c.seqNo + 1, spillPtr := c.spillPtr + 128, live := c.live - 1 }
      ∧ (∀ i < 16, memRead t (d + 8 * i) 8
          = bytesOf 8 (Tab.get sDefault c.win ((c.cwp + 8 - c.live) % 7 * 16 + i)).val.toNat)
      ∧ ∀ a, a < d ∨ d + 128 ≤ a → mrd t a = mrd s a)
  ∧ (∀ (u : Fin 17) (w : BitVec 56) (s : State) (k : Nat), iMinor w = 0 → ib w 47 0 = 0 → ready s u k [] [] →
      (ctxAt s k).tw = true → 1 < (ctxAt s k).live → (ctxAt s k).spillLim.toNat < (ctxAt s k).spillPtr.toNat + 128 →
    ∃ t, exec (.wspill u w) s = .next t ∧ trapDue s t k 0x0B .exec [] none)
  ∧ ∀ (u : Fin 17) (w : BitVec 56) (s : State) (k d x : Nat), iMinor w = 0 → ib w 47 0 = 0 → ready s u k [] [] →
      let c := ctxAt s k
      c.tw = true → c.live < 7 → c.spillPtr ≠ c.spillBase → c.spillPtr.toNat % 128 = 0 → 128 ≤ c.spillPtr.toNat →
      mapsTo s u k (c.spillPtr.toNat - 128) d x →
    ∃ t, exec (.wfill u w) s = .next t ∧ ctxOnly s t k []
      ∧ (let e := ctxAt t k
         e.pc = c.pc + 8 ∧ e.seqNo = c.seqNo + 1 ∧ e.spillPtr = c.spillPtr - 128 ∧ e.live = c.live + 1
          ∧ (∀ i < 16, Tab.get sDefault e.win ((c.cwp + 7 - c.live) % 7 * 16 + i)
              = ⟨BitVec.ofNat 64 (natOf (memRead s (d + 8 * i) 8)), poisonIn s (d + 8 * i) 8⟩)
          ∧ (∀ j, j / 16 ≠ (c.cwp + 7 - c.live) % 7 → Tab.get sDefault e.win j = Tab.get sDefault c.win j)
          ∧ { e with pc := c.pc, seqNo := c.seqNo, spillPtr := c.spillPtr, live := c.live, win := c.win } = c)

/-- crr and cwr by the table of control registers, trap, fence, done on a scull and on the stern core, brk, dma.wait,
dma.stat and rett, a parity error in the sequencer's registers, and the entry into a handler or the context fault that a
due trap ends in. -/
def Obligations.SystemInstructions : Prop :=
  (∀ (u : Fin 17) (w : BitVec 56) (s : State) (k : Nat), iMinor w = 0 → iRa w = 0 → ready s u k [] [iRd w] →
      let c := ctxAt s k
      let n := iImmBits w
    (n < 5 ∨ 8 ≤ n ∧ n < 16) →
    ∃ t v, exec (.crr u w) s = .next t ∧ wrote c (ctxAt t k) (iRd w) ⟨v, false⟩ ∧ ctxOnly s t k []
      ∧ (n = 0 → v = BitVec.ofNat 64 ((if c.nte then 1 else 0) + (if c.tw then 2 else 0) + c.cwp % 8 * 4 + c.live % 8 * 32
          + c.hd % 256 * 256))
      ∧ (n = 1 → v = c.tvec) ∧ (n = 2 → v = c.spillBase) ∧ (n = 3 → v = c.spillPtr) ∧ (n = 4 → v = c.spillLim)
      ∧ (n = 8 → v = c.trecH) ∧ (9 ≤ n → v = c.trecD.getD (n - 9) 0))
  ∧ (∀ (u : Fin 17) (w : BitVec 56) (s : State) (k : Nat), iMinor w = 0 → iRd w = 0 → ready s u k [iRa w] [] →
      let c := ctxAt s k
      let n := iImmBits w
      let v := (sGet c (iRa w)).val
      let d : Ctx := { c with pc := c.pc + 8, seqNo := c.seqNo + 1 }
      let sets (e : Ctx) : Prop := ∃ t, exec (.cwr u w) s = .next t ∧ ctxAt t k = e ∧ ctxOnly s t k []
      (n = 0 → sets { d with nte := v.getLsbD 0 })
      ∧ (n = 1 → v.toNat % 4096 = 0 → sets { d with tvec := v })
      ∧ (n = 2 → c.spillBase = 0 → v.toNat % 128 = 0 → sets { d with spillBase := v, spillPtr := v })
      ∧ (n = 4 → c.spillLim = 0 → v.toNat % 128 = 0 → c.spillBase.toNat < v.toNat → sets { d with spillLim := v })
      ∧ (n = 8 → c.tw = true → ∃ h, sets { d with trecH := h } ∧ h.toNat / 2 ^ 48 = c.trecH.toNat / 2 ^ 48
          ∧ h.toNat % 2 ^ 48 = v.toNat % 2 ^ 48)
      ∧ ((n = 1 ∧ v.toNat % 4096 ≠ 0) ∨ (n = 2 ∧ (c.spillBase ≠ 0 ∨ v.toNat % 128 ≠ 0)) ∨ n = 3
          ∨ (n = 4 ∧ (c.spillLim ≠ 0 ∨ v.toNat % 128 ≠ 0 ∨ v.toNat ≤ c.spillBase.toNat)) ∨ (n = 8 ∧ c.tw = false)
          ∨ (9 ≤ n ∧ n < 16) →
        ∃ t, exec (.cwr u w) s = .next t ∧ ctxAt t k = d ∧ ctxOnly s t k [(.seqSticky, u.val)]
          ∧ (u.val < 16 → rd t .seqSticky u.val = bput (rd s .seqSticky u.val) 0 true)
          ∧ (u.val = 16 → ctxOnly s t k [])))
  ∧ (∀ (u : Fin 17) (w : BitVec 56) (s : State) (k : Nat), mayRun s u k → (5 ≤ iImmBits w ∧ iImmBits w < 8 ∨ 16 ≤ iImmBits w) →
      (∃ t, exec (.crr u w) s = .next t ∧ trapDue s t k 0x01 .issue [(ctxAt s k).pc, instrWord 0x17 w] none)
      ∧ ∃ t, exec (.cwr u w) s = .next t ∧ trapDue s t k 0x01 .issue [(ctxAt s k).pc, instrWord 0x18 w] none)
  ∧ (∀ (u : Fin 17) (w : BitVec 56) (s : State) (k : Nat), iMinor w = 0 → iRd w = 0 → iRa w = 0 → ready s u k [] [] →
      let c := ctxAt s k
    ∃ t, exec (.trap u w) s = .next t
      ∧ trapDue s t k 0x0D .issue [c.pc, BitVec.ofNat 64 (iImmBits w % 2 ^ 16)] (some (c.pc + 8)))
  ∧ (∀ (u : Fin 17) (w : BitVec 56) (s : State) (k : Nat), iMinor w = 0 → iRd w = 0 → iRa w = 0 → iImmBits w < 64 →
      ready s u k [] [] →
      let named (q : QEntry) : Bool :=
        (iImmBits w).testBit (match q.engine with | .dma => 1 | .array => 2 | .schuss => 3 | .vector => 4 | .scan => 5)
      ((∀ q ∈ inFlight s k, named q = false) →
        ∃ t, exec (.fence u w) s = .next t ∧ wentTo (ctxAt s k) (ctxAt t k) ((ctxAt s k).pc + 8) ∧ ctxOnly s t k [])
      ∧ ((∃ q ∈ inFlight s k, named q = true) →
        ∃ t, exec (.fence u w) s = .next t ∧ ctxAt t k = ctxAt s k ∧ ctxOnly s t k [(.sclIssueStall, u.val)]
          ∧ (u.val < 16 → rd t .sclIssueStall u.val = counted (rd s .sclIssueStall u.val) 1)))
  ∧ (∀ (u : Fin 17) (w : BitVec 56) (stop : Bool) (outs : BitVec 12) (s : State) (k : Nat), u.val = 16 → iMinor w = 0 →
      ib w 47 0 = 0 → ready s u k [] [] → inFlight s k = [] →
    ∃ t, exec (.done u w stop outs) s = .next t ∧ ctxOnly s t k []
      ∧ ctxAt t k = { ctxAt s k with pc := (ctxAt s k).pc + 8, seqNo := (ctxAt s k).seqNo + 1, waitDone := true })
  ∧ (∀ (u : Fin 17) (w : BitVec 56) (stop : Bool) (outs : BitVec 12) (s : State) (k i : Nat) (st : StepRun) (r : Running),
      u.val < 16 → iMinor w = 0 → ib w 47 0 = 0 → ready s u k [] [] → inFlight s k = [] →
      (ctxAt s k).step = some st → st.inst = i → (instAt s i).running = some r → r.kind = st.kind →
      (st.kind = .step ∧ clsOf s i = some .stroke) ∨ st.kind = .coast → (scullAt s u.val).ready = [] →
      let left := r.left &&& ~~~ (1#16 <<< u.val)
      let x := instAt s i
    ∃ t, exec (.done u w stop outs) s = .next t
      ∧ ctxAt t k = { ctxAt s k with pc := (ctxAt s k).pc + 8, seqNo := (ctxAt s k).seqNo + 1, step := none, suspended := false }
      ∧ scullAt t u.val = { scullAt s u.val with running := none, preempting := false }
      ∧ (left ≠ 0 → instAt t i = { x with running := some { r with left := left } })
      ∧ (left = 0 → st.kind = .step → instAt t i = { x with
          running := none, complete := true, newOut := some (outBytes s i), newInputOf := r.stroke + 1
          newEpoch := x.epoch, newStop := stop })
      ∧ (left = 0 → st.kind = .coast → instAt t i = if s.phase = .cutoff then { x with running := none } else { x with
          running := none, out := outBytes s i, inputOf := x.heldInputOf, hasResult := true, stopBit := stop
          payloadEpoch := x.epoch })
      ∧ (∀ j, j ≠ i → instAt t j = instAt s j) ∧ (∀ j, j ≠ u.val → scullAt t j = scullAt s j)
      ∧ ctxOnly s { t with insts := s.insts, sculls := s.sculls } k [])
  ∧ (∀ (u : Fin 17) (w : BitVec 56) (s : State) (k : Nat), iMinor w = 0 → ib w 47 0 = 0 → ready s u k [] [] →
      let c := ctxAt s k
      let d : Ctx := { c with pc := c.pc + 8, seqNo := c.seqNo + 1 }
      let level := rdf s .coxStat 0 5 4
      let may := level = 2 ∨ (level = 1 ∧ (k / 64 = 16 ∨ ctxRank s (k % 64) = 3))
      (may → ∃ t, exec (.brk u w) s = .next t ∧ ctxAt t k = { d with halt := .debug } ∧ ctxOnly s t k [])
      ∧ (¬ may → ∃ t, exec (.brk u w) s = .next t ∧ ctxAt t k = d ∧ ctxOnly s t k [(.seqSticky, u.val), (.coxSticky, 0)]
          ∧ (u.val < 16 → rd t .seqSticky u.val = bput (rd s .seqSticky u.val) 1 true)
          ∧ (u.val = 16 → rd t .seqSticky u.val = rd s .seqSticky u.val)
          ∧ rd t .coxSticky 0 = if level = 1 then bput (rd s .coxSticky 0) 4 true else rd s .coxSticky 0))
  ∧ (∀ (u : Fin 17) (w : BitVec 56) (s : State) (k : Nat), ib w 41 0 = 0 → iMinor w < 4 → (u.val = 16 → iMinor w = 0) →
      let ch := chAt (scullAt s u.val) (iMinor w)
      (iRd w < 32 → ready s u k [] [iRd w] →
        ∃ t, exec (.dmaStat u w) s = .next t ∧ wrote (ctxAt s k) (ctxAt t k) (iRd w) ⟨ch.prog, false⟩ ∧ ctxOnly s t k [])
      ∧ (iRd w = 0 → ready s u k [] [] → ch.state = 0 →
          (∀ q ∈ (scullAt s u.val).qDma, ¬ (goChan q.w = iMinor w ∧ q.ctx = k % 64)) →
        ∃ t, exec (.dmaWait u w) s = .next t ∧ wentTo (ctxAt s k) (ctxAt t k) ((ctxAt s k).pc + 8) ∧ ctxOnly s t k [])
      ∧ (iRd w = 0 → ready s u k [] [] → ch.state ≠ 0 →
        ∃ t, exec (.dmaWait u w) s = .next t ∧ ctxAt t k = ctxAt s k ∧ ctxOnly s t k [(.sclIssueStall, u.val)]
          ∧ (u.val < 16 → rd t .sclIssueStall u.val = counted (rd s .sclIssueStall u.val) 1)))
  ∧ (∀ (u : Fin 17) (w : BitVec 56) (s : State) (k : Nat), iMinor w = 0 → ib w 47 0 = 0 → ready s u k [] [] →
      let c := ctxAt s k
      ((c.tw = false ∨ c.hd ≠ 0) →
        ∃ t, exec (.rett u w) s = .next t ∧ trapDue s t k 0x01 .issue [c.pc, instrWord 0x14 w] none)
      ∧ (c.tw = true → c.hd = 0 → c.live ≠ 0 → c.trecH.toNat % 8 = 0 → c.held = [] → c.scan = none →
          scanKey s u.val = none → (∀ n < 4, (chAt (scullAt s u.val) n).state ≠ 2) → (scullAt s u.val).qDma = [] →
        ∃ t, exec (.rett u w) s = .next t ∧ ctxOnly s t k []
          ∧ ctxAt t k = { c with tw := false, pc := BitVec.ofNat 64 (c.trecH.toNat % 2 ^ 48), seqNo := c.seqNo + 1 }))
  ∧ (∀ (u : Fin 17) (n : Fin 144) (s : State) (k : Nat), runKey s u.val = some k →
      let c := ctxAt s k
      ∃ t, exec (.trapEntry u (some (.scalar n))) s = .next t ∧ ctxOnly s t k []
        ∧ { ctxAt t k with g := c.g, win := c.win } = c
        ∧ (∀ m, Tab.get sDefault (ctxAt t k).g m
            = { Tab.get sDefault c.g m with poison := (Tab.get sDefault c.g m).poison || decide (m = n.val ∧ m < 16) })
        ∧ ∀ m, Tab.get sDefault (ctxAt t k).win m
            = { Tab.get sDefault c.win m with poison := (Tab.get sDefault c.win m).poison || decide (m + 16 = n.val) })
  ∧ (∀ (u : Fin 17) (s : State) (k : Nat), runKey s u.val = some k → (ctxAt s k).halt = .none → s.chg.active = false →
      (∀ j < 16, (scullAt s j).ready = []) → (u.val = 16 ∨ u.val ∈ unitsOf s (k % 64)) →
      ∃ t, exec (.trapEntry u (some .control)) s = .next t ∧ (ctxAt t k).halt = .fault 0x06 ∧ (ctxAt t k).held = []
        ∧ (ctxAt t k).due = [] ∧ (u.val < 16 → rd t .fltLast 0 = lastWord 0x06 scContext (idOfKey k))
        ∧ (u.val = 16 → rd t .fltLast 0
            = if t.sternRestart then lastWord 0x06 scContext 0x40 else lastWord cSternHalt scDevice 0))
  ∧ ∀ (u : Fin 17) (s : State) (k : Nat) (d : DueTrap), runKey s u.val = some k → nextTrap (ctxAt s k) = some d →
      (ctxAt s k).halt = .none → entryReady s u.val = true →
      let c := ctxAt s k
      let late (q : QEntry) : Prop := q.ctx = k % 64 ∧ q.started = false
      (c.tw = false → ¬ (d.num = 0x03 ∨ d.num = 0x05 ∨ d.num = 0x0B ∨ d.num = 0x0C ∨ d.num = 0x0E) → c.tvec ≠ 0 →
        ∃ t, exec (.trapEntry u none) s = .next t
          ∧ (let e := ctxAt t k
             e.tw = true ∧ e.hd = 0 ∧ e.pc = c.tvec + BitVec.ofNat 64 (64 * d.num) ∧ e.entrySeq = c.seqNo
              ∧ e.trecH = BitVec.ofNat 64 (d.num * 2 ^ 56 + (d.rpc.getD c.pc).toNat % 2 ^ 48) ∧ e.trecD = d.details.take 7
              ∧ (∀ q, q ∈ e.held ↔ q ∈ c.held ∨ d.again = some q ∨ (late q ∧ ∃ f, q ∈ queueOf (scullAt s u.val) f))
              ∧ (∀ x ∈ e.due, x ∈ c.due ∧ (x.kind = .channel ∨ x.seq < c.seqNo))
              ∧ { e with tw := c.tw, hd := c.hd, pc := c.pc, entrySeq := c.entrySeq, trecH := c.trecH, trecD := c.trecD, held := c.held, due := c.due } = c)
          ∧ (∀ f q, q ∈ queueOf (scullAt t u.val) f ↔ q ∈ queueOf (scullAt s u.val) f ∧ ¬ late q)
          ∧ (∀ j, j ≠ u.val → scullAt t j = scullAt s j)
          ∧ ctxOnly s { t with sculls := s.sculls } k [(.seqTraps, u.val)]
          ∧ (u.val < 16 → rd t .seqTraps u.val = if s.run then counted (rd s .seqTraps u.val) 1 else rd s .seqTraps u.val))
      ∧ ((∀ j < 16, (scullAt s j).ready = []) → s.chg.active = false → (u.val = 16 ∨ u.val ∈ unitsOf s (k % 64)) →
          let num := if c.tw ∧ d.num ≠ 0x0B ∧ d.num ≠ 0x0C then 0x0E else d.num
          (num = 0x03 ∨ num = 0x05 ∨ num = 0x0B ∨ num = 0x0C ∨ num = 0x0E ∨ c.tvec = 0) →
        ∃ t, exec (.trapEntry u none) s = .next t ∧ (ctxAt t k).halt = .fault num ∧ (ctxAt t k).held = [] ∧ (ctxAt t k).due = []
          ∧ (u.val < 16 → rd t .fltLast 0 = lastWord num scContext (idOfKey k))
          ∧ (u.val = 16 → rd t .fltLast 0
              = if t.sternRestart then lastWord num scContext 0x40 else lastWord cSternHalt scDevice 0)
          ∧ (num = 0x0E → u.val < 16 → bget (rd t .seqSticky u.val) 2 = true)
          ∧ (s.run = true → coxHalted s = false → mbState s 15 = 0 →
              mbState t 15 = 3 ∧ fget (rd t .mbRsp 240) 15 0 = (0x8000 + num) % 2 ^ 16 ∧ fget (rd t .mbRsp 242) 15 0 = idOfKey k))

/-! ## Engine instructions -/

/-- Every engine instruction of a scull is queued at its engine with the scalars read at issue, its registers and its byte
ranges; on the stern core, which has none of the engines but DMA, each is ILLEGAL_OP. -/
def Obligations.EngineIssue : Prop :=
  (∀ (x : Fin 16) (w : BitVec 56) (s : State) (k : Nat) (r : Option (Nat × Nat)),
      let u : Fin 17 := x.castSucc
      let c := ctxAt s k
      let v (n : Nat) : DWord := (sGet c n).val
      let reg (n : Nat) : List Nat := [rnS c n]
      (mmOk w = true →
          declares s u k (joinOf (mmRange w (v (tGA w))) (mmExpRange w (v (tGA w)))) r →
          (mmLocal w = false → ∀ n ∈ mmSource w (v (tGA w)).toNat, n < 64) →
        let ts := (mmDest w).map (fun a => rnT a (tTile w))
        goesTo (.arrMm u w) s u k 0x30 w .array [tGA w] [v (tGA w)]
          (rnG (tGA w) :: (if mmLocal w then [] else (mmSource w (v (tGA w)).toNat).map rnV) ++ (if tAcc w then ts else [])) ts r none)
      ∧ (wldOk w = true → declares s u k (joinOf (some ((v (wGS w)).toNat, wN w * (rowBytes (wFmt w)).getD 0))
            (wldExpRange w (v (wGS w)))) r →
        goesTo (.arrWld u w) s u k 0x31 w .array [wGS w] [v (wGS w)] [rnG (wGS w)] [] r none)
      ∧ (iMinor w = 0 → iRd w = 0 → iRa w = 0 → iImmBits w < 16 → goesTo (.arrSwp u w) s u k 0x32 w .array [] [] [] [] none none)
      ∧ (iMinor w = 0 → ib w 42 29 = 0 → ib w 24 0 = 0 → localRange s u k (v (dGS w)).toNat 16384 r →
        goesTo (.tLd u w) s u k 0x33 w .array [dGS w] [v (dGS w)] [rnG (dGS w)] [rnT (dA w) (dN w)] r none)
      ∧ (∀ r2, iMinor w = 0 → ib w 12 0 = 0 → dFmt w ≤ 10 →
          (if dSbv w then localRange s u k (sbHull (v (dGSC w)).toNat (v (dGBI w)).toNat).1
            (sbHull (v (dGSC w)).toNat (v (dGBI w)).toNat).2 r2 else r2 = none) →
          declares s u k (joinOf (some ((v (dGS w)).toNat, fmtBytes (dFmt w) 4096)) (tstExpRange w (v (dGS w)))) r →
        goesTo (.tSt u w) s u k 0x34 w .array (tstGs w) [v (dGS w), v (dGSC w), v (dGBI w), v (dGLO w)]
          (rnT (dA w) (dN w) :: (tstGs w).map rnG) (if dRel w then [rnT (dA w) (dN w)] else []) r2 r)
      ∧ (schOk w = true → (v (iRa w)).toNat % 64 = 0 → declares s u k (joinOf (some ((v (iRa w)).toNat, schBytes w))
            (joinOf (schXExps w (v (iRa w))) (schWExps w (v (iRa w))))) r →
        goesTo (.schMv u w) s u k 0x40 w .schuss (schGs w) [v (iRa w), v (iRc w)]
          ((schGs w).map (rnS c) ++ (schSrc w).map rnV) ((schDst w).map rnV) r none)
      ∧ (iMinor w < 32 → iMinor w % 16 < 12 → iRc w = 0 → iFn w = 0 →
        goesTo (.valu u w) s u k 0x50 w .vector [] [] [rnV (iRa w), rnV (iRb w)] [rnV (iRd w)] none none)
      ∧ (iMinor w = 0 → iFn w = 0 →
        goesTo (.vfma u w) s u k 0x51 w .vector [] [] [rnV (iRa w), rnV (iRb w), rnV (iRc w)] [rnV (iRd w)] none none)
      ∧ (∀ ecc, vldOk w = true → localRange s u k (vldBase c w) (vldLen (vldPitch c w)) r →
          issues s u k .vector (vldGs w) ((vldGs w).map (rnS c)) [rnV (iRd w)] r none →
        ∃ t, exec (.vld u w ecc) s = .next t ∧ (ecc ≠ .uncorrectable → t.poisoned = s.poisoned)
          ∧ queued s (if ecc = .clean then t else { t with regs := s.regs, poisoned := s.poisoned }) u k 0x52 w .vector
              [BitVec.ofNat 64 (vldBase c w), BitVec.ofNat 64 (vldPitch c w)] r none)
      ∧ (vldOk w = true → localRange s u k (vldBase c w) (vldLen (vldPitch c w)) r →
        goesTo (.vst u w) s u k 0x53 w .vector (vldGs w) [BitVec.ofNat 64 (vldBase c w), BitVec.ofNat 64 (vldPitch c w)]
          (rnV (iRd w) :: (vldGs w).map (rnS c)) [] none r)
      ∧ (∀ r2, vcvtOk w = true → declares s u k (cvtSrcExps w (v (iRb w))) r2 →
          declares s u k (joinOf (if cvtMax w then some ((v (iRb w)).toNat, 4) else none) (cvtDstExps w (v (iRb w)))) r →
        goesTo (.vcvt u w) s u k 0x54 w .vector (if cvtMax w then [iRb w] else []) [v (iRb w)]
          ((vcvtSrcs w).map rnV ++ (if cvtMax w then reg (iRb w) else [])) [rnV (iRd w)] r2 r)
      ∧ (vamaxOk w = true → localRange s u k (v (iRa w)).toNat 4 r →
        goesTo (.vamaxScale u w) s u k 0x55 w .vector [iRa w, iRb w] [v (iRa w), v (iRb w), BitVec.ofNat 64 (rnS c (iRd w))]
          [rnS c (iRa w), rnS c (iRb w)] (reg (iRd w)) r (if ib w 2 2 = 1 then r else none))
      ∧ (relOk w = true →
        goesTo (.vrel u w) s u k 0x56 w .vector [] [] []
            (((relList w).map (fun g => (List.range 8).map (fun i => rnV (8 * g + i)))).flatten) none none
          ∧ goesTo (.cRel u w) s u k 0x73 w .scan [] [] [] ((relList w).map rnC) none none)
      ∧ (sfuOk w = true → goesTo (.sfu u w) s u k 0x60 w .vector [] [] [rnV (iRa w)] [rnV (iRd w)] none none)
      ∧ (iMinor w = 0 → ib w 23 3 = 0 → statNOk w (statN c w) = true →
          (match statRange w (v (iRa w)).toNat (statN c w) (statBitmap c w) with
            | some (o, n) => localRange s u k o n r
            | none => r = none) →
        let gs := (if statLocal w then [iRa w] else []) ++ [iRb w, iRc w]
        goesTo (.vstat u w) s u k 0x61 w .vector gs [v (iRa w), v (iRb w), v (iRc w)]
          (gs.map (rnS c) ++ (statVs w (statN c w)).map rnV) [rnV (iRd w)] r none)
      ∧ (iMinor w = 0 → iRc w = 0 → ib w 23 2 = 0 → ib w 0 0 = 0 → statNOk w (statN c w) = true →
          (match statRange w (v (iRa w)).toNat (statN c w) (statBitmap c w) with
            | some (o, n) => localRange s u k o n r
            | none => r = none) →
        let gs := (if statLocal w then [iRa w] else []) ++ [iRb w]
        goesTo (.vmaxr u w) s u k 0x62 w .vector gs [v (iRa w), v (iRb w), v (iRc w)]
          (gs.map (rnS c) ++ (statVs w (statN c w)).map rnV) [rnV (iRd w)] r none)
      ∧ (∀ r2, vexpsOk w = true →
          let n := (v (iRc w)).toNat % 2 ^ 32
          0 < n → n ≤ 16384 → localRange s u k (v (iRa w)).toNat (4 * n) r → localRange s u k (v (iRb w)).toNat (4 * n) r2 →
        goesTo (.vexps u w) s u k 0x63 w .vector [iRa w, iRb w, iRc w] [v (iRa w), v (iRb w), v (iRc w)]
          [rnS c (iRa w), rnS c (iRb w), rnS c (iRc w)] [rnV (iRd w)] r r2)
      ∧ (iMinor w = 0 → iRc w = 0 → ib w 23 20 = 0 → ib w 18 0 = 0 →
        goesTo (.vcorr u w) s u k 0x64 w .vector [iRa w, iRb w] [v (iRa w), v (iRb w)] [rnS c (iRa w), rnS c (iRb w)]
          [rnV (iRd w)] none none)
      ∧ (scnLdOk w = true → localRange s u k (v (iRa w)).toNat 512 r →
        goesTo (.scnLd u w) s u k 0x71 w .scan [iRa w] [v (iRa w)] (reg (iRa w)) [rnC (iRd w)] r none
          ∧ goesTo (.scnSt u w) s u k 0x72 w .scan [iRa w] [v (iRa w)] [rnS c (iRa w), rnC (iRd w)] [] none r)
      ∧ (scnLdOk w = true → goesTo (.mvVc u w) s u k 0x80 w .scan [] [] [rnV (iRa w)] [rnC (iRd w)] none none)
      ∧ (iMinor w = 0 → iRb w = 0 → iRc w = 0 → iRa w < 8 → ib w 23 3 = 0 →
        goesTo (.mvCv u w) s u k 0x81 w .vector [] [] [rnC (iRa w)] [rnV (iRd w)] none none)
      ∧ (mvOk w (iRa w) = true → mayIssue s k (reg (iRa w)) [] none none = true →
        goesTo (.mvGv u w) s u k 0x82 w .vector [] [v (iRa w), if (sGet c (iRa w)).poison then 1 else 0] (reg (iRa w))
          [rnV (iRd w)] none none)
      ∧ (mvOk w (iRd w) = true →
        goesTo (.mvVg u w) s u k 0x83 w .vector [] [BitVec.ofNat 64 (rnS c (iRd w))] [rnV (iRa w)] (reg (iRd w)) none none)
      ∧ (iMinor w = 0 → iRd w = 0 → iRa w = 0 → iImmBits w < 2 ^ 32 →
        goesTo (.tClr u w) s u k 0x35 w .array [] [] [] ((clrTiles w).map (fun i => rnT (i / 8) (i % 8))) none none)
      ∧ (∀ r2, iMinor w = 0 → iRd w = 0 → ib w 35 0 = 0 → iRa w ≤ 12 →
          let d := iRa w
          let w0 := v d
          scanOk w0 (v (d + 3)) = true → (v (d + 1)).toNat % 64 = 0 → (scOmode w0 ≠ 0 → (v (d + 2)).toNat % 64 = 0) →
          (if scStream w0 then r = none else localRange s u k (v (d + 1)).toNat (scN w0 * scRP w0) r) →
          (if scStream w0 then localRange s u k (v (d + 3)).toNat (scStaging w0) r2
            else if scRows w0 * scOP w0 = 0 then r2 = none else localRange s u k (v (d + 2)).toNat (scRows w0 * scOP w0) r2) →
          let gs := [d, d + 1, d + 2, d + 3]
          let args := gs.map v
          issues s u k .scan gs (gs.map rnG ++ (if scReadsP w0 then [rnC (scCP w0)] else [])) [rnC (scCN w0)] r r2 →
        ((scullAt s u.val).qScan ≠ [] ∨ engineFree s u.val k .scan = false →
          ∃ t, exec (.scnRun u w) s = .next t ∧ queued s t u k 0x70 w .scan args r r2)
        ∧ ((scullAt s u.val).qScan = [] → engineFree s u.val k .scan = true →
          ∃ t q, exec (.scnRun u w) s = .next t ∧ carries s k 0x70 w .scan args r r2 q ∧ q.started = true
            ∧ ctxAt t k = { c with
                pc := c.pc + 8, seqNo := c.seqNo + 1
                scan := some ⟨w0, v (d + 1), v (d + 2), v (d + 3), q, 0, true, 0, s.now⟩ }
            ∧ (∀ j, j ≠ u.val → scullAt t j = scullAt s j) ∧ ctxOnly s { t with sculls := s.sculls } k []
            ∧ scullAt t u.val = (if scStream w0 ∧ (chAt (scullAt s u.val) 3).state = 0 then
                setCh (scullAt s u.val) 3 { Channel.idle with state := 4, ctx := k % 64 } else scullAt s u.val))))
  ∧ (∀ (u : Fin 17) (w : BitVec 56) (s : State) (k : Nat), iMinor w < 4 → (u.val = 16 → iMinor w = 0) → iRd w = 0 →
      ib w 35 0 = 0 →
      let c := ctxAt s k
      let x := scullAt s u.val
      let a := (sGet c (iRa w)).val
      let g := chainRanges s u.val k a.toNat
      ((chAt x (match x.qDma with
          | q :: _ => goChan q.w
          | [] => iMinor w)).state ≠ 0 →
        goesTo (.dmaGo u w) s u k 0x20 w .dma [iRa w] [a] [rnS c (iRa w)] [] g.1 g.2)
      ∧ ∀ d e, issues s u k .dma [iRa w] [rnS c (iRa w)] [] g.1 g.2 → x.qDma = [] → (chAt x (iMinor w)).state = 0 →
          x.preempting = false → (iMinor w = 3 → streamRuns s u.val = false) → a.toNat % 64 = 0 → mapsTo s u k a.toNat d e → pteW e = true → ptePin e = true →
          poisonIn s d 64 = false →
          descRules u.val (parseDesc (memRead s d 64)) true d = .ok (parseDesc (memRead s d 64)) d →
        ∃ t q, exec (.dmaGo u w) s = .next t ∧ wentTo c (ctxAt t k) (c.pc + 8)
          ∧ carries s k 0x20 w .dma [a] g.1 g.2 q
          ∧ scullAt t u.val = setCh x (iMinor w)
              ⟨1, k % 64, a, 0, 0, some q, BitVec.ofNat 64 (2 ^ 56), memRead s d 64⟩
          ∧ (∀ j, j ≠ u.val → scullAt t j = scullAt s j) ∧ ctxOnly s { t with sculls := s.sculls } k [])
  ∧ ∀ (u : Fin 17) (w : BitVec 56) (s : State) (k : Nat), u.val = 16 → mayRun s u k →
    ∀ p ∈ [(Instr.arrMm u w, 0x30), (.arrWld u w, 0x31), (.arrSwp u w, 0x32), (.tLd u w, 0x33), (.tSt u w, 0x34),
        (.tClr u w, 0x35), (.schMv u w, 0x40), (.valu u w, 0x50), (.vfma u w, 0x51), (.vld u w .clean, 0x52), (.vst u w, 0x53),
        (.vcvt u w, 0x54), (.vamaxScale u w, 0x55), (.vrel u w, 0x56), (.sfu u w, 0x60), (.vstat u w, 0x61), (.vmaxr u w, 0x62),
        (.vexps u w, 0x63), (.vcorr u w, 0x64), (.scnRun u w, 0x70), (.scnLd u w, 0x71), (.scnSt u w, 0x72), (.cRel u w, 0x73),
        (.mvVc u w, 0x80), (.mvCv u w, 0x81), (.mvGv u w, 0x82), (.mvVg u w, 0x83)],
      ∃ t, exec p.1 s = .next t ∧ trapDue s t k 0x01 .issue [(ctxAt s k).pc, instrWord p.2 w] none

/-- ENGINE_COMPLETE: the engine finishes the instruction at the head of its queue and starts the next. Results of valu's
integer and logical operations, vld, vst, the moves, scn.ld, scn.st and the releases; a plane swap, its WEIGHT_STATE trap, a
weight load; the end of the block fetch of a broadcast arr.mm of signed bytes, which starts it or traps, and the arr.mm itself,
whose tile elements are exact dot products. -/
def Obligations.EngineCompletion : Prop :=
  (∀ (u : Fin 16) (e : Engine) (s : State) (q : QEntry) (d : Nat),
      let k := ctxKey u.val q.ctx
      let c := ctxAt s k
      let w := q.w
      let ends (t : State) : Prop := exec (.engineComplete u e .none) s = .next t
      let dead (b : Bool) (v : Word) : Word := if b then v else bput v 0 true
      (endsAlone s u e 0x50 q → 5 ≤ iMinor w → iMinor w < 28 → iMinor w % 16 < 12 → iMinor w ≠ 10 → iMinor w ≠ 11 →
          (∀ i < 128, (vGet c (iRa w) i).poison = false ∧ (vGet c (iRb w) i).poison = false) →
        ∃ t, ends t ∧ completed s t u e k [(.sclSticky, u.val), (.sclVrfConf, u.val)]
          ∧ (∀ i < 128, ∃ v, vGet (ctxAt t k) (iRd w) i = ⟨v, false⟩
              ∧ ∀ x, valuSpec (iMinor w) (vGet c (iRa w) i).val (vGet c (iRb w) i).val = some x → v = x)
          ∧ (∀ n i, n ≠ iRd w → i < 128 → vGet (ctxAt t k) n i = vGet c n i)
          ∧ (ctxAt t k).inuseV = c.inuseV ||| (1#8 <<< (iRd w / 8))
          ∧ { ctxAt t k with v := c.v, inuseV := c.inuseV } = c
          ∧ rd t .sclSticky u.val = dead (vLive c (iRa w) && vLive c (iRb w)) (rd s .sclSticky u.val)
          ∧ rd t .sclVrfConf u.val
              = counted (rd s .sclVrfConf u.val) (if iRa w ≠ iRb w ∧ iRa w % 16 = iRb w % 16 then 1 else 0))
      ∧ (endsAlone s u e 0x52 q → localAddr s u.val (k % 64) (argOf q 0) (vldLen (argOf q 1)) = some d →
        ∃ t, ends t ∧ completed s t u e k []
          ∧ (∀ i < 128, vGet (ctxAt t k) (iRd w) i
              = ⟨BitVec.ofNat 32 (natOf (memRead s (d + argOf q 1 * i) 4)), poisonIn s (d + argOf q 1 * i) 4⟩)
          ∧ (∀ n i, n ≠ iRd w → i < 128 → vGet (ctxAt t k) n i = vGet c n i)
          ∧ { ctxAt t k with v := c.v, inuseV := c.inuseV } = c)
      ∧ (endsAlone s u e 0x53 q → vldStrided w = false → localAddr s u.val (k % 64) (argOf q 0) 512 = some d →
          poisonIn s d 512 = false →
        ∃ t, ends t ∧ completed s { t with mem := s.mem, poisoned := s.poisoned } u e k [(.sclSticky, u.val)] ∧ ctxAt t k = c
          ∧ (∀ i < 128, memRead t (d + 4 * i) 4 = bytesOf 4 (vGet c (iRd w) i).val.toNat)
          ∧ (∀ a, a < d ∨ d + 512 ≤ a → mrd t a = mrd s a)
          ∧ (∀ i < 128, (vGet c (iRd w) i).poison = true → poisonIn t (d + 4 * i) 4 = true)
          ∧ ((∀ i < 128, (vGet c (iRd w) i).poison = false) → poisonIn t d 512 = false)
          ∧ rd t .sclSticky u.val = dead (vLive c (iRd w)) (rd s .sclSticky u.val))
      ∧ (endsAlone s u e 0x56 q →
        ∃ t, ends t ∧ completed s t u e k []
          ∧ (∀ n i, n < 64 → i < 128 →
              vGet (ctxAt t k) n i = if (iImmBits w).testBit (n / 8) then ⟨0, false⟩ else vGet c n i)
          ∧ (∀ g < 8, (ctxAt t k).inuseV.getLsbD g = (c.inuseV.getLsbD g && !(iImmBits w).testBit g))
          ∧ { ctxAt t k with v := c.v, inuseV := c.inuseV } = c)
      ∧ (endsAlone s u e 0x73 q →
        ∃ t, ends t ∧ completed s t u e k []
          ∧ (∀ n i, n < 8 → i < 1024 → cGet (ctxAt t k) n i = if (iImmBits w).testBit n then ⟨0, false⟩ else cGet c n i)
          ∧ (∀ g < 8, (ctxAt t k).inuseC.getLsbD g = (c.inuseC.getLsbD g && !(iImmBits w).testBit g))
          ∧ { ctxAt t k with c := c.c, inuseC := c.inuseC } = c)
      ∧ (endsAlone s u e 0x35 q →
        ∃ t, ends t ∧ completed s t u e k []
          ∧ (∀ a n col row, a < 4 → n < 8 → col < 16 → row < 256 →
              tGet (ctxAt t k) a n col row
                = if (iImmBits w).testBit (8 * a + n) then ⟨0, false⟩ else tGet c a n col row)
          ∧ (∀ j < 32, (ctxAt t k).inuseT.getLsbD j = (c.inuseT.getLsbD j && !(iImmBits w).testBit j))
          ∧ { ctxAt t k with t := c.t, inuseT := c.inuseT } = c)
      ∧ (endsAlone s u e 0x80 q → iRd w < 8 →
        ∃ t, ends t ∧ completed s t u e k [(.sclSticky, u.val)]
          ∧ (∀ n i, n < 8 → i < 1024 → cGet (ctxAt t k) n i
              = if n = iRd w ∧ i / 128 = grpOf w then vGet c (iRa w) (i % 128) else cGet c n i)
          ∧ { ctxAt t k with c := c.c, inuseC := c.inuseC } = c
          ∧ rd t .sclSticky u.val = dead (vLive c (iRa w)) (rd s .sclSticky u.val))
      ∧ (endsAlone s u e 0x81 q →
        ∃ t, ends t ∧ completed s t u e k [(.sclSticky, u.val)]
          ∧ (∀ n i, i < 128 → vGet (ctxAt t k) n i
              = if n = iRd w then cGet c (iRa w) (grpOf w * 128 + i) else vGet c n i)
          ∧ { ctxAt t k with v := c.v, inuseV := c.inuseV } = c
          ∧ rd t .sclSticky u.val = dead (cLive c (iRa w)) (rd s .sclSticky u.val))
      ∧ (endsAlone s u e 0x82 q →
        ∃ t, ends t ∧ completed s t u e k []
          ∧ (∀ n i, i < 128 → vGet (ctxAt t k) n i
              = if n = iRd w ∧ i = laneOf w then ⟨BitVec.ofNat 32 (argOf q 0), argOf q 1 == 1⟩ else vGet c n i)
          ∧ { ctxAt t k with v := c.v, inuseV := c.inuseV } = c)
      ∧ (∀ n, endsAlone s u e 0x83 q → n < 32 → argOf q 0 = rnS c n →
        ∃ t, ends t ∧ completed s t u e k [(.sclSticky, u.val)]
          ∧ (∀ m < 32, sGet (ctxAt t k) m
              = if m = n then ⟨(vGet c (iRa w) (laneOf w)).val.zeroExtend 64, (vGet c (iRa w) (laneOf w)).poison⟩ else sGet c m)
          ∧ (∀ j, j / 16 ≠ curWin c → Tab.get sDefault (ctxAt t k).win j = Tab.get sDefault c.win j)
          ∧ { ctxAt t k with g := c.g, win := c.win } = c
          ∧ rd t .sclSticky u.val = dead (vLive c (iRa w)) (rd s .sclSticky u.val))
      ∧ (endsAlone s u e 0x71 q → iRd w < 8 → localAddr s u.val (k % 64) (argOf q 0) 512 = some d →
        ∃ t, ends t ∧ completed s t u e k []
          ∧ (∀ n i, n < 8 → i < 1024 → cGet (ctxAt t k) n i
              = if n = iRd w ∧ i / 128 = grpOf w then
                  ⟨BitVec.ofNat 32 (natOf (memRead s (d + 4 * (i % 128)) 4)), poisonIn s (d + 4 * (i % 128)) 4⟩
                else cGet c n i)
          ∧ { ctxAt t k with c := c.c, inuseC := c.inuseC } = c)
      ∧ (endsAlone s u e 0x72 q → localAddr s u.val (k % 64) (argOf q 0) 512 = some d → poisonIn s d 512 = false →
        ∃ t, ends t ∧ completed s { t with mem := s.mem, poisoned := s.poisoned } u e k [(.sclSticky, u.val)] ∧ ctxAt t k = c
          ∧ (∀ i < 128, memRead t (d + 4 * i) 4 = bytesOf 4 (cGet c (iRd w) (grpOf w * 128 + i)).val.toNat)
          ∧ (∀ a, a < d ∨ d + 512 ≤ a → mrd t a = mrd s a)))
  ∧ (∀ (u : Fin 16) (e : Engine) (s : State) (q : QEntry), endsAlone s u e 0x32 q →
      let k := ctxKey u.val q.ctx
      let x := scullAt s u.val
      let named (a : Nat) : Bool := (iImmBits q.w).testBit a
      let ready (a : Nat) : Prop := (arrAt x a).shadow = 2 ∧ (arrAt x a).shadowOwner = k % 64
      ((∀ a < 4, named a = true → ready a) →
        ∃ t, exec (.engineComplete u e .none) s = .next t ∧ completed s { t with sculls := (putScull t u.val
              { scullAt t u.val with arrays := x.arrays }).sculls } u e k []
          ∧ ctxAt t k = ctxAt s k
          ∧ ∀ a < 4, arrAt (scullAt t u.val) a = if named a = true then
              { arrAt x a with active := 1 - (arrAt x a).active, shadow := 0, activeOwner := some (k % 64), errRuns := [] }
            else arrAt x a)
      ∧ ((∃ a, a < 4 ∧ named a = true ∧ ¬ ready a) →
        ∃ t d, exec (.engineComplete u e .none) s = .next t ∧ completed s t u e k []
          ∧ (ctxAt t k).due = (ctxAt s k).due ++ [d] ∧ d.num = 0x08 ∧ d.kind = .exec ∧ d.seq = q.seq
          ∧ d.again = some { q with started := false } ∧ { ctxAt t k with due := (ctxAt s k).due } = ctxAt s k))
  ∧ (∀ (u : Fin 16) (e : Engine) (s : State) (q : QEntry) (d f : Nat), endsAlone s u e 0x31 q → wldOk q.w = true →
      let k := ctxKey u.val q.ctx
      let x := scullAt s u.val
      let w := q.w
      let n := (rowBytes (wFmt w)).getD 0
      let a := wA w
      let plane := a * 2 + (1 - (arrAt x a).active)
      let b := bxAt 0x31 w (q.args.getD 0 0) 0
      localAddr s u.val (k % 64) (argOf q 0) (wN w * n) = some d → poisonIn s d (wN w * n) = false →
      localAddr s u.val (k % 64) b (4 * wN w) = some f ∨ wFmt w ≠ 10 → wFmt w ≠ 10 ∨ poisonIn s f (4 * wN w) = false →
    ∃ t, exec (.engineComplete u e .none) s = .next t ∧ ctxAt t k = ctxAt s k
      ∧ (let y := scullAt t u.val
         (∀ i j, i < wN w → j < n →
            Tab.get memDefault y.planes ((plane * 256 + wR0 w + i) * 256 + j) = mrd s (d + i * n + j))
          ∧ (wFmt w = 10 → ∀ i j, i < wN w → j < 4 →
            Tab.get memDefault y.planes ((plane * 256 + wR0 w + i) * 256 + 128 + j) = mrd s (f + 4 * i + j))
          ∧ (∀ p, (∀ i < wN w, p / 256 ≠ plane * 256 + wR0 w + i) →
              Tab.get memDefault y.planes p = Tab.get memDefault x.planes p)
          ∧ (∀ b, arrAt y b = if b = a then { (arrAt x a).load (k % 64) with shadow := 2 } else arrAt x b)
          ∧ { y with arrays := x.arrays, planes := x.planes, planePoison := x.planePoison } = setQueue x e [])
      ∧ (∀ j, j ≠ u.val → scullAt t j = scullAt s j) ∧ ctxOnly s { t with sculls := s.sculls } k [])
  ∧ (∀ (u : Fin 16) (s : State) (q : QEntry) (qs : List QEntry) (d : Nat), (scullAt s u.val).qArray = q :: qs →
      q.major = 0x30 → q.started = false → live s u.val = true → stopping s u.val = false →
      let k := ctxKey u.val q.ctx
      let x := scullAt s u.val
      let w := q.w
      let failing (a : Nat) : Bool := (arrAt x a).activeOwner != some (k % 64)
      ((∀ a ∈ mmArrays w, failing a = false) → mmLocal w = true → tAfmt w = 6 → tAcc w = false → mmMode w = 0 →
          localAddr s u.val (k % 64) (argOf q 0 % 2 ^ 32) (tM w * tK w) = some d → poisonIn s d (tM w * tK w) = false →
        ∃ t, exec (.engineComplete u .array .none) s = .next t ∧ ctxOnly s { t with sculls := s.sculls } k [] ∧ ctxAt t k = ctxAt s k
          ∧ scullAt t u.val = { x with
              qArray := { q with started := true } :: qs
              feed := x.feed ++ [⟨q.seq, q.ctx, (List.range (tM w * tK w)).map (fun i => (mrd s (d + i)).toNat), []⟩] }
          ∧ ∀ j, j ≠ u.val → scullAt t j = scullAt s j)
      ∧ ((∃ a ∈ mmArrays w, failing a = true) →
        ∃ t z, exec (.engineComplete u .array .none) s = .next t ∧ (ctxAt t k).due = (ctxAt s k).due ++ [z] ∧ z.num = 0x08
          ∧ z.kind = .exec ∧ z.seq = q.seq ∧ z.again = some { q with started := false }
          ∧ { ctxAt t k with due := (ctxAt s k).due } = ctxAt s k ∧ scullAt t u.val = { x with qArray := qs }))
  ∧ (∀ (u : Fin 16) (e : Engine) (s : State) (q : QEntry), endsAlone s u e 0x30 q → mmOk q.w = true →
      let k := ctxKey u.val q.ctx
      let c := ctxAt s k
      let x := scullAt s u.val
      let w := q.w
      mmMode w = 0 → tAfmt w = 6 → tWfmt w = 6 → tAcc w = false → tVme w = false →
      (∀ a ∈ mmArrays w, ∀ r < 256, planeBad x a r = false) →
      let sent (m i : Nat) : Int := signed 8 ((feedOf x q).xs.getD (m * tK w + i) 0)
      let weight (a r i : Nat) : Byte := Tab.get memDefault x.planes (((a * 2 + (arrAt x a).active) * 256 + r) * 256 + i)
    ∃ t, exec (.engineComplete u e .none) s = .next t
      ∧ (∀ a m r, a ∈ mmArrays w → m < tM w → r < tN w → tGet (ctxAt t k) a (tTile w) (tC0 w + m) r
          = ⟨BitVec.ofInt 32 (((List.range (tK w)).map (fun i => sent m i * (weight a r i).toInt)).sum), false⟩)
      ∧ (∀ a n col r, a < 4 → n < 8 → col < 16 → r < 256 →
          ¬ (a ∈ mmArrays w ∧ n = tTile w ∧ tC0 w ≤ col ∧ col < tC0 w + tM w ∧ r < tN w) →
          tGet (ctxAt t k) a n col r = tGet c a n col r)
      ∧ (∀ a < 4, a ∈ mmArrays w → (ctxAt t k).inuseT.getLsbD (8 * a + tTile w) = true
          ∧ (ctxAt t k).intT.getLsbD (8 * a + tTile w) = true)
      ∧ { ctxAt t k with t := c.t, inuseT := c.inuseT, intT := c.intT } = c
      ∧ (∀ f ∈ (scullAt t u.val).feed, f ∈ x.feed ∧ ¬ (f.seq = q.seq ∧ f.ctx = q.ctx))
      ∧ rd t .arrPasses u.val = counted (rd s .arrPasses u.val) 1
      ∧ ctxOnly s { t with sculls := s.sculls } k [(.arrPasses, u.val), (.arrFeather, u.val)])
  ∧ ∀ (u : Fin 16) (s : State) (q q2 : QEntry) (rest : List QEntry) (j : Nat), q.started = true → q.major = 0x56 → q2.major ≠ 0x30 →
      live s u.val = true → queueOf (scullAt s u.val) .vector = q :: q2 :: rest → runKey s u.val = some j →
      (ctxAt s j).held = [] → nextTrap (ctxAt s j) = none → (ctxAt s j).halt = .none →
      (scullAt s u.val).preempting = false →
    ∃ t, exec (.engineComplete u .vector .none) s = .next t
      ∧ scullAt t u.val = setQueue (scullAt s u.val) .vector ({ q2 with started := true } :: rest)

/-! ## Scans, transfers and the scrubber -/

/-- A chunk of a scan ends with the state after its last step in cN (for one step, a × h + b with the form's coefficients),
counts in SCN_CHUNKS, and the scan goes on with the next chunk, stops for a pre-emption, or ends; a stream chunk waits for
its records, which the feeder brings into the staging ring. A DMA transfer between local sides moves its bytes, leaves DONE
in the descriptor and its channel idle; a granule beyond the window halts the channel with a channel trap. The scrubber
corrects, poisons and counts. -/
def Obligations.ScansAndTransfers : Prop :=
  (∀ (u : Fin 16) (loss : List BankLoss) (s : State) (key : Nat) (k : Scan), scanKey s u.val = some key →
      (ctxAt s key).scan = some k → scStream k.w0 = false → scOmode k.w0 = 0 →
      let c := ctxAt s key
      let w0 := k.w0
      let m := chunkLen w0 k.prog
      let rec_ := localBytes s u.val key (chunkAt k) (m * scRP w0)
      let coefs (i : Nat) : List (Nat × Nat) := chanCoefs w0 rec_ m (cGet c (scCP w0) i).val.toNat i
      let h (i : Nat) : Nat := (cGet c (scCN w0) i).val.toNat
      let states (i : Nat) : List Nat := scanStates (h i) (coefs i)
      0 < m → localPoison s u.val key (chunkAt k) (m * scRP w0) = none →
      (∀ i < scW w0, (cGet c (scCN w0) i).poison = false ∧ (scReadsP w0 = true → (cGet c (scCP w0) i).poison = false)) →
      (∀ i < scW w0, ∀ j < m, isNan ((states i).getD j 0) = false) →
      (scullAt s u.val).qScan = [] → (∀ j, runKey s u.val = some j → (ctxAt s j).held = []) →
    ∃ t, exec (.scanChunkComplete ⟨u, none, loss⟩) s = .next t
      ∧ (let d := ctxAt t key
         (∀ i < scW w0, cGet d (scCN w0) i = ⟨BitVec.ofNat 32 ((states i).getD (m - 1) 0), false⟩)
          ∧ (m = 1 → ∀ i < scW w0, ∀ a b, coefs i = [(a, b)] → cGet d (scCN w0) i = ⟨BitVec.ofNat 32 (ffma a (h i) b), false⟩)
          ∧ (∀ n i, n < 8 → i < 1024 → (n ≠ scCN w0 ∨ scW w0 ≤ i) → cGet d n i = cGet c n i)
          ∧ (k.prog + 1 = scChunks w0 → d.scan = none)
          ∧ (k.prog + 1 ≠ scChunks w0 →
              ((scullAt s u.val).running = some (key % 64) → (scullAt s u.val).preempting = false) →
              d.scan = some { k with prog := k.prog + 1, staged := k.staged - 1, waitSince := s.now, running := true })
          ∧ (k.prog + 1 ≠ scChunks w0 → (scullAt s u.val).running = some (key % 64) → (scullAt s u.val).preempting = true →
              d.scan = some { k with prog := k.prog + 1, staged := k.staged - 1, waitSince := s.now, running := false })
          ∧ { d with c := c.c, inuseC := c.inuseC, scan := c.scan } = c)
      ∧ rd t .scnChunks u.val = counted (rd s .scnChunks u.val) 1
      ∧ (∀ j, scullAt t j = scullAt s j)
      ∧ ctxOnly s { t with sculls := s.sculls } key ((.scnChunks, u.val) :: (.sclSticky, u.val) :: lossKeys loss))
  ∧ (∀ (u : Fin 16) (err : ScanErr) (s : State) (key : Nat) (k : Scan), scanKey s u.val = some key →
      (ctxAt s key).scan = some k → scStream k.w0 = true → k.staged = 0 → exec (.scanChunkComplete ⟨u, err⟩) s = .next s)
  ∧ (∀ (u : Fin 16) (s : State) (key a n d dst x : Nat) (k : Scan), scanKey s u.val = some key →
      (ctxAt s key).scan = some k → scStream k.w0 = true → feedNext k = some (a, n) → mayBind s u.val = true →
      feedFault s u.val key a n = none → mapsTo s u.castSucc key a d x → a % 64 = 0 → a % 65536 + 64 * n ≤ 65536 →
      localAddr s u.val (key % 64) (k.w3.toNat + (k.prog + k.staged) % 3 * (64 * scRP k.w0)) (64 * n) = some dst →
      (∀ y ∈ tableWords s (rootOf s (eightOf u.val) (spaceOf key)) a, y + 8 ≤ dst ∨ dst + 64 * n ≤ y) →
    ∃ t, exec (.scanFeedStaged u) s = .next t
      ∧ (∀ i < 64 * n, mrd t (dst + i) = mrd s (d + i)) ∧ (∀ y, y < dst ∨ dst + 64 * n ≤ y → mrd t y = mrd s y)
      ∧ ctxAt t key = { ctxAt s key with scan := some { k with staged := k.staged + 1 } }
      ∧ scullAt t u.val = setCh (scullAt s u.val) 3 { Channel.idle with state := 4, ctx := key % 64 }
      ∧ (0 < k.staged → rd t .scnFeedWait u.val = rd s .scnFeedWait u.val)
      ∧ (k.staged = 0 → rd t .scnFeedWait u.val
          = counted (rd s .scnFeedWait u.val) ((s.now - k.waitSince) * rdf s .sclClk u.val 20 10 / 1000)))
  ∧ (∀ (u : Fin 16) (ch : Fin 4) (loss : List BankLoss) (s : State) (p q a x : Nat),
      let c := chAt (scullAt s u.val) ch.val
      let k := ctxKey u.val c.ctx
      let d := parseDesc c.raw
      c.state = 1 → c.row = 0 → c.bytes = 0 → d.srcLocal = true → d.dstLocal = true → d.chain = false → d.rows = 1 →
      d.len % 64 = 0 → 0 < d.len → d.src + d.len < 2 ^ 64 → d.dst + d.len < 2 ^ 64 →
      localAddr s u.val (k % 64) d.src d.len = some p → localAddr s u.val (k % 64) d.dst d.len = some q →
      poisonIn s p d.len = false → (p + d.len ≤ q ∨ q + d.len ≤ p) →
      mapsTo s u.castSucc k c.desc.toNat a x → c.desc.toNat % 64 = 0 →
      (∀ y ∈ tableWords s (rootOf s (eightOf u.val) (spaceOf k)) c.desc.toNat, y + 8 ≤ q ∨ q + d.len ≤ y) →
      (scullAt s u.val).qDma = [] → streamRuns s u.val = false → (∀ j, runKey s u.val = some j → (ctxAt s j).held = []) →
    ∃ t, exec (.dmaComplete u.castSucc ⟨ch, loss⟩) s = .next t
      ∧ (∀ i < d.len, q + i < a + 0x28 ∨ a + 0x30 ≤ q + i → mrd t (q + i) = mrd s (p + i))
      ∧ (∀ y, (y < q ∨ q + d.len ≤ y) → (y < a + 0x28 ∨ a + 0x30 ≤ y) → mrd t y = mrd s y)
      ∧ memRead t (a + 0x28) 8 = bytesOf 8 (2 * 2 ^ 56 + 2 ^ 24)
      ∧ (chAt (scullAt t u.val) ch.val).state = 0
      ∧ (chAt (scullAt t u.val) ch.val).prog = BitVec.ofNat 64 (2 * 2 ^ 56 + 2 ^ 24)
      ∧ (∀ n, n ≠ ch.val → chAt (scullAt t u.val) n = chAt (scullAt s u.val) n) ∧ (∀ j, ctxAt t j = ctxAt s j)
      ∧ { t with regs := s.regs, sculls := s.sculls, mem := s.mem, poisoned := s.poisoned, free := s.free } = s
      ∧ regsKept s t ((.mmuMissCnt, 0) :: (.mmuMissCnt, 1) :: (.dmaGranCnt, u.val) :: lossKeys loss))
  ∧ (∀ (u : Fin 16) (ch : Fin 4) (loss : List BankLoss) (s : State),
      let c := chAt (scullAt s u.val) ch.val
      let k := ctxKey u.val c.ctx
      let d := parseDesc c.raw
      let at_ := (d.src + c.row * d.sstride + c.bytes) % 2 ^ 64
      c.state = 1 → d.srcLocal = true → 0 < granLeft d c.row c.bytes → localAddr s u.val (k % 64) at_ 64 = none →
    ∃ t e, exec (.dmaGranuleFault u.castSucc ⟨ch, loss⟩) s = .next t
      ∧ (chAt (scullAt t u.val) ch.val).state = 2 ∧ (chAt (scullAt t u.val) ch.val).row = c.row
      ∧ (chAt (scullAt t u.val) ch.val).bytes = c.bytes
      ∧ (chAt (scullAt t u.val) ch.val).prog
          = BitVec.ofNat 64 (3 * 2 ^ 56 + 3 * 2 ^ 48 + c.row % 65536 * 2 ^ 24 + c.bytes % 2 ^ 24)
      ∧ (ctxAt t k).due = (ctxAt s k).due ++ [e] ∧ e.num = 0x03 ∧ e.kind = .channel ∧ e.chan = ch.val
      ∧ e.details.getD 1 0 = BitVec.ofNat 64 at_
      ∧ { ctxAt t k with due := (ctxAt s k).due } = ctxAt s k ∧ ∀ j, j ≠ k → ctxAt t j = ctxAt s j)
  ∧ (∀ (u : Fin 17) (ch : Fin 4) (loss : List BankLoss) (s : State), (chAt (scullAt s u.val) ch.val).state ≠ 1 →
      exec (.dmaComplete u ⟨ch, loss⟩) s = .next s)
  ∧ (∀ (u : Fin 16) (c : Fin 16) (cyc : Nat) (starve : Bool) (s : State) (key : Nat) (k : Scan), scanKey s u.val = some key →
      (ctxAt s key).scan = some k → scStream k.w0 = false → k.entry.nte = true →
      (scullAt s u.val).qScan = [] → (∀ j, runKey s u.val = some j → (ctxAt s j).held = []) →
    ∃ t, exec (.scanChunkComplete ⟨u, none, [⟨c, cyc, starve⟩]⟩) s = .next t
      ∧ rd t .sclBankConf c.val = counted (rd s .sclBankConf c.val) cyc
      ∧ rdb t .sclSticky c.val 1 = (rdb s .sclSticky c.val 1 || starve))
  ∧ (∀ (a u : Nat) (s : State), placeOf s a = .spad u →
      let e := (a - spadBase) / spadPitch / 8
      exec (.patrolScrub a .clean) s = .next s
      ∧ (∃ t, exec (.patrolScrub a .corrected) s = .next t ∧ onlyRegs s t [(.memSpdCeCnt, e)]
          ∧ rd t .memSpdCeCnt e = if s.run then counted (rd s .memSpdCeCnt e) 1 else rd s .memSpdCeCnt e)
      ∧ ∃ t, exec (.patrolScrub a .uncorrectable) s = .next t ∧ poisonIn t a 1 = true
          ∧ rd t .memUeAddrLo e = BitVec.ofNat 32 (a / 8 * 8) ∧ rd t .memUeAddrHi e = BitVec.ofNat 32 (a / 8 * 8 / 2 ^ 32)
          ∧ rd t .memSpdUeCnt e = (if s.run then counted (rd s .memSpdUeCnt e) 1 else rd s .memSpdUeCnt e)
          ∧ rdb t .memSticky e 1 = true
          ∧ onlyRegs s { t with poisoned := s.poisoned }
              [(.memUeAddrLo, e), (.memUeAddrHi, e), (.memSpdUeCnt, e), (.memSticky, e)])
  ∧ (∀ (a : Nat) (s : State), a < hbmEnd →
      let e := stackOf a
      let last : Bool := a / 8 * 8 = if e = 1 then hbmEnd - 8 else hbmEnd - 4104
      let pass (t : State) : Prop := rdf t .memScrub e 15 0
        = if last then Nat.min (rdf s .memScrub e 15 0 + 1) 65535 else rdf s .memScrub e 15 0
      (∃ t, exec (.patrolScrub a .clean) s = .next t ∧ pass t ∧ onlyRegs s t [(.memScrub, e)])
      ∧ ((Tab.get (fun _ => ([] : List Nat)) s.ceTimes e).length < 1000 →
        ∃ t, exec (.patrolScrub a .corrected) s = .next t ∧ pass t
          ∧ rd t .memCeCnt e = (if s.run then counted (rd s .memCeCnt e) 1 else rd s .memCeCnt e)
          ∧ onlyRegs s { t with ceTimes := s.ceTimes } [(.memCeCnt, e), (.memScrub, e)])
      ∧ ∃ t, exec (.patrolScrub a .uncorrectable) s = .next t ∧ pass t ∧ poisonIn t a 1 = true
          ∧ rd t .memUeAddrLo e = BitVec.ofNat 32 (a / 8 * 8) ∧ rd t .memUeAddrHi e = BitVec.ofNat 32 (a / 8 * 8 / 2 ^ 32)
          ∧ rd t .memUeCnt e = (if s.run then counted (rd s .memUeCnt e) 1 else rd s .memUeCnt e)
          ∧ rdb t .memSticky e 0 = true ∧ t.mem = s.mem
          ∧ onlyRegs s { t with poisoned := s.poisoned }
              [(.memUeAddrLo, e), (.memUeAddrHi, e), (.memUeCnt, e), (.memSticky, e), (.memScrub, e)])
  ∧ ∀ (a : Nat) (ecc : Ecc) (s : State), hbmEnd ≤ a → a < spadBase ∨ spadBase + 16 * spadPitch ≤ a →
      exec (.patrolScrub a ecc) s = .next s

/-! ## The scheduler -/

/-- What a scull runs: a release of a higher class pre-empts GUARD and TREND; the switch puts the step away with its PC and its waiting
instructions; a pre-empted step resumes where it was, or its context faults when its save area holds poison. A step over
its budget is counted and, of class STROKE, suspended. -/
def Obligations.Scheduling : Prop :=
  (∀ (u : Fin 16) (s : State) (a : Nat) (r : Ready), runningRank s u.val = some a → bestReady s u.val = some r →
      (1 ≤ ctxRank s r.ctx → ctxRank s r.ctx < a → 2 ≤ a →
        ∃ t, exec (.preemption u) s = .next t ∧ scullAt t u.val = { scullAt s u.val with preempting := true }
          ∧ (∀ j, j ≠ u.val → scullAt t j = scullAt s j) ∧ { t with sculls := s.sculls } = s)
      ∧ (a < 2 ∨ a ≤ ctxRank s r.ctx ∨ ctxRank s r.ctx = 0 → exec (.preemption u) s = .next s))
  ∧ (∀ (u : Fin 16) (moved : List Nat) (bad : Bool) (s : State) (c : Nat) (st : StepRun), c < 64 →
      let x := scullAt s u.val
      let k := ctxKey u.val c
      x.running = some c → x.preempting = true → enginesStopped s u.val = true → (ctxAt s k).step = some st →
      (∀ n < 4, (chAt x n).state = 0) → x.ready = [] →
    ∃ t r, exec (.contextSwitch ⟨u, moved, bad⟩) s = .next t ∧ (scullAt t u.val).running = none ∧ (scullAt t u.val).preempting = false
      ∧ (scullAt t u.val).ready = [r] ∧ r.inst = st.inst ∧ r.ctx = c ∧ r.kind = st.kind ∧ r.stroke = st.stroke
      ∧ r.vaddr = (ctxAt s k).pc.toNat ∧ r.resume = true
      ∧ (∀ e q, q ∈ queueOf (scullAt t u.val) e ↔ q ∈ queueOf x e ∧ q.ctx ≠ c)
      ∧ (∀ q, q ∈ (ctxAt t k).saved ↔ ∃ e, q ∈ queueOf x e ∧ q.ctx = c)
      ∧ { ctxAt t k with saved := (ctxAt s k).saved } = ctxAt s k
      ∧ (∀ j, j ≠ k → ctxAt t j = ctxAt s j) ∧ (∀ j, j ≠ u.val → scullAt t j = scullAt s j)
      ∧ { t with ctxs := s.ctxs, sculls := s.sculls } = s)
  ∧ (∀ (u : Fin 16) (moved : List Nat) (bad : Bool) (s : State), (scullAt s u.val).preempting = false ∨ enginesStopped s u.val = false →
      exec (.contextSwitch ⟨u, moved, bad⟩) s = .next s)
  ∧ (∀ (u : Fin 16) (s : State) (r : Ready),
      let x := scullAt s u.val
      let k := ctxKey u.val r.ctx
      s.run = true → live s u.val = true → x.running = none → bestReady s u.val = some r →
      (r.resume = false → ∀ bad, exec (.contextResume ⟨u, bad⟩) s = .next s)
      ∧ (r.resume = true → (ctxAt s k).saved = [] → (ctxAt s k).savedCh = [] → (ctxAt s k).scan = none →
          (∀ e, queueOf x e = []) →
        ∃ t, exec (.contextResume ⟨u, false⟩) s = .next t
          ∧ (scullAt t u.val).running = some r.ctx ∧ (scullAt t u.val).preempting = false
          ∧ (scullAt t u.val).ready = x.ready.erase r
          ∧ ctxAt t k = { ctxAt s k with
              saved := [], suspended := r.spentOut, pc := BitVec.ofNat 64 r.vaddr, step := some ⟨r.inst, r.kind, r.stroke⟩ }
          ∧ (∀ j, j ≠ k → ctxAt t j = ctxAt s j) ∧ (∀ j, j ≠ u.val → scullAt t j = scullAt s j)
          ∧ { t with ctxs := s.ctxs, sculls := s.sculls } = s)
      ∧ (r.resume = true → r.ctx < 64 → u.val ∈ unitsOf s r.ctx → (ctxAt s k).released = true → (ctxAt s k).halt = .none →
        ∃ t, exec (.contextResume ⟨u, true⟩) s = .next t ∧ (ctxAt t k).halt = .fault tPoison
          ∧ (ctxAt t k).held = [] ∧ (ctxAt t k).step = none ∧ (scullAt t u.val).running ≠ some r.ctx
          ∧ (ctxAt t k).trecH = BitVec.ofNat 64 (tPoison * 2 ^ 56 + r.vaddr % 2 ^ 48)))
  ∧ (∀ (u : Fin 16) (s : State) (c : Nat) (st : StepRun), (scullAt s u.val).running = some c →
      (ctxAt s (ctxKey u.val c)).step = some st →
      let k := ctxKey u.val c
      ((ctxAt s k).suspended = true ∨ st.kind ≠ .step ∨ clsOf s st.inst = some .reflex →
        exec (.strokeBudgetExhausted u) s = .next s)
      ∧ ((ctxAt s k).suspended = false → st.kind = .step → clsOf s st.inst ≠ some .reflex →
        ∃ t, exec (.strokeBudgetExhausted u) s = .next t ∧ ctxAt t k = { ctxAt s k with suspended := true }
          ∧ rd t .svcOverCnt st.inst = (if s.run then counted (rd s .svcOverCnt st.inst) 1 else rd s .svcOverCnt st.inst)
          ∧ rd t .svcSticky 0 = bput (rd s .svcSticky 0) 6 true
          ∧ (scullAt t u.val).preempting = ((scullAt s u.val).preempting || clsOf s st.inst == some .stroke)
          ∧ (∀ j, j ≠ k → ctxAt t j = ctxAt s j) ∧ (∀ j, j ≠ u.val → scullAt t j = scullAt s j)
          ∧ onlyRegs s { t with ctxs := s.ctxs, sculls := s.sculls } [(.svcOverCnt, st.inst), (.svcSticky, 0)]))

/-- Releases: a REFLEX instance that is idle starts on every scull of its mask, one that runs counts an overrun and from the
ninth waiting release on raises REFLEX_OVERRUN; a GUARD instance takes its oldest event with the
event header in front of its input block, and past its horizon the step and its events are dropped and counted; a TREND
frame takes the blocks gathered for it and starts, is decimated while one runs, or is shed for want of valid words or at its
limit. -/
def Obligations.ReleasesByClass : Prop :=
  (∀ (inst : Fin 256) (s : State), clsOf s inst.val ≠ some .reflex ∨ mayStep s inst.val = false
      ∨ (∃ b, releaseBank s inst.val = some b ∧ (bankAt s b).toRelease = 0) →
      exec (.reflexRelease inst) s = .next s)
  ∧ (∀ (inst : Fin 256) (s : State), clsOf s inst.val = some .reflex → mayStep s inst.val = true →
      let i := inst.val
      let taken (t : State) : Prop := (∀ b, releaseBank s i = some b → (bankAt t b).toRelease = (bankAt s b).toRelease - 1
            ∧ ∀ a, a ≠ b → bankAt t a = bankAt s a) ∧ (releaseBank s i = none → t.banks = s.banks)
      (∀ b, releaseBank s i = some b → 0 < (bankAt s b).toRelease) →
      (reflexQueues s i = false →
        ∃ t r, exec (.reflexRelease inst) s = .next t ∧ (instAt t i).running = some r ∧ r.stroke = strokeNat s
          ∧ r.left = maskOf s i ∧ r.kind = .step ∧ r.since = s.now ∧ taken t
          ∧ ∀ j, j ≠ i → instAt t j = instAt s j)
      ∧ (reflexQueues s i = true → (instAt s i).queued < 8 →
        ∃ t, exec (.reflexRelease inst) s = .next t ∧ instAt t i = { instAt s i with queued := (instAt s i).queued + 1 }
          ∧ rd t .svcOverCnt i = (if s.run then counted (rd s .svcOverCnt i) 1 else rd s .svcOverCnt i)
          ∧ (∀ j, j ≠ i → instAt t j = instAt s j) ∧ taken t
          ∧ onlyRegs s { t with insts := s.insts, banks := s.banks } [(.svcOverCnt, i)])
      ∧ (reflexQueues s i = true → 8 ≤ (instAt s i).queued → (instAt s i).overrun = false →
        ∃ t, exec (.reflexRelease inst) s = .next t ∧ (instAt t i).overrun = true
          ∧ (instAt t i).queued = (instAt s i).queued + 1 ∧ taken t
          ∧ rd t .fltLast 0 = lastWord cReflexOverrun scInstance i))
  ∧ (∀ (inst : Fin 256) (s : State), (instAt s inst.val).pending = [] ∨ clsOf s inst.val ≠ some .guard →
      exec (.guardEventTaken inst) s = .next s)
  ∧ (∀ (inst : Fin 256) (s : State) (e : Event) (rest : List Event) (m : Model),
      let i := inst.val
      (instAt s i).pending = e :: rest → clsOf s i = some .guard → mayStep s i = true → (instAt s i).running = none →
      oldestEvent s i e = true → modelOf s i = some m →
      let few := fewValid s i (validIn s i [e.block])
      (few = true →
        ∃ t, exec (.guardEventTaken inst) s = .next t ∧ instAt t i = { instAt s i with pending := rest }
          ∧ rd t .svcSticky 0 = bput (bput (rd s .svcSticky 0) 3 true) 7 true
          ∧ (∀ j, j ≠ i → instAt t j = instAt s j)
          ∧ onlyRegs s { t with insts := s.insts } [(.svcShedCnt, i), (.svcSticky, 0)])
      ∧ (few = false →
        ∃ t, exec (.guardEventTaken inst) s = .next t
          ∧ instAt t i = { instAt s i with
              pending := rest, running := some ⟨e.stroke, s.now, maskOf s i, .step, e.caught⟩ }
          ∧ (∀ j, j ≠ i → instAt t j = instAt s j)
          ∧ memRead t (inAddr s i) 16 = bytesOf 4 e.val.toNat ++ bytesOf 4 0 ++ bytesOf 8 e.stroke
          ∧ (∀ a, a < inAddr s i ∨ inAddr s i + Nat.max 16 e.block.length ≤ a → mrd t a = mrd s a)))
  ∧ (∀ (inst : Fin 256) (s : State), clsOf s inst.val = some .guard →
      let i := inst.val
      let past (t : Nat) : Bool := decide (t + limitOf s i ≤ s.now)
      let gone := (instAt s i).pending.filter (fun e => past e.caught)
      ((instAt s i).running = none →
        ∃ t, exec (.guardHorizonExpiry inst) s = .next t
          ∧ (instAt t i).pending = (instAt s i).pending.filter (fun e => !past e.caught)
          ∧ { instAt t i with pending := (instAt s i).pending } = instAt s i
          ∧ rd t .svcShedCnt i = (if s.run then counted (rd s .svcShedCnt i) gone.length else rd s .svcShedCnt i)
          ∧ (gone ≠ [] → rdb t .svcSticky 0 3 = true)
          ∧ onlyRegs s { t with insts := s.insts } [(.svcShedCnt, i), (.svcSticky, 0)])
      ∧ (∀ r, (instAt s i).running = some r → past r.event = true →
        ∃ t, exec (.guardHorizonExpiry inst) s = .next t ∧ (instAt t i).running = none ∧ (instAt t i).late = true
          ∧ rd t .svcOverCnt i = (if s.run then counted (rd s .svcOverCnt i) 1 else rd s .svcOverCnt i)))
  ∧ (∀ (inst : Fin 256) (s : State), clsOf s inst.val = some .trend → 0 < (instAt s inst.val).framesDue →
      mayStep s inst.val = true →
      let i := inst.val
      let x := instAt s i
      (x.running ≠ none →
        ∃ t, exec (.trendFrameDue inst) s = .next t ∧ instAt t i = { x with framesDue := x.framesDue - 1 }
          ∧ rd t .svcDecimCnt i = (if s.run then counted (rd s .svcDecimCnt i) 1 else rd s .svcDecimCnt i)
          ∧ rd t .svcSticky 0 = bput (rd s .svcSticky 0) 4 true
          ∧ onlyRegs s { t with insts := s.insts } [(.svcDecimCnt, i), (.svcSticky, 0)])
      ∧ (x.running = none → fewValid s i (validIn s i (frameBlocks s i)) = true →
        ∃ t, exec (.trendFrameDue inst) s = .next t
          ∧ instAt t i = { x with framesDue := x.framesDue - 1, blocks := [], given := true, shed := true }
          ∧ rd t .svcShedCnt i = (if s.run then counted (rd s .svcShedCnt i) 1 else rd s .svcShedCnt i)
          ∧ rd t .svcSticky 0 = bput (bput (rd s .svcSticky 0) 7 true) 5 true ∧ ∀ j, j ≠ i → instAt t j = instAt s j)
      ∧ (x.running = none → fewValid s i (validIn s i (frameBlocks s i)) = false →
        let bs := (frameBlocks s i).flatten
        ∃ t, exec (.trendFrameDue inst) s = .next t
          ∧ instAt t i = { x with
              framesDue := x.framesDue - 1, blocks := [], given := true
              running := some ⟨strokeNat s, s.now, maskOf s i, .step, 0⟩ }
          ∧ memRead t (inAddr s i) bs.length = bs ∧ memKept s t (inAddr s i) bs.length
          ∧ (∀ j, j ≠ i → instAt t j = instAt s j)))
  ∧ (∀ (inst : Fin 256) (s : State), clsOf s inst.val ≠ some .trend ∨ (instAt s inst.val).framesDue = 0
      ∨ mayStep s inst.val = false → exec (.trendFrameDue inst) s = .next s)
  ∧ (∀ (inst : Fin 256) (s : State) (r : Running), clsOf s inst.val = some .trend →
      (instAt s inst.val).running = some r →
      let i := inst.val
      (r.since + limitOf s i ≤ s.now →
        ∃ t, exec (.trendFrameShed inst) s = .next t ∧ (instAt t i).running = none ∧ (instAt t i).shed = true
          ∧ rdb t .svcSticky 0 5 = true
          ∧ rd t .svcShedCnt i = (if s.run then counted (rd s .svcShedCnt i) 1 else rd s .svcShedCnt i))
      ∧ (s.now < r.since + limitOf s i → exec (.trendFrameShed inst) s = .next s))


/-! ## Reflex banks -/

/-- A pass in SERVICE on sample channels latches their codes, counts, writes the output granule with codes `dev` from the
exact ones (a tight successor latches them instead), and makes a shadow job due every RFX_CFG passes; a bank that is not in SERVICE leaves the pass to its serving
scull, and writes nothing; a pilot that falls below its minimum does so too and makes the bank suspect. A GO granule and a
tight layer are inputs as well. What the stop compare finds asserts the stop lines. -/
def Obligations.ReflexPasses : Prop :=
  (∀ (b : Fin 4) (dev : List Int) (s : State) (l : Layer), layerOfBank s b.val = some l → s.run = true → l.src = 0 →
      tightAfter s l = none → (∀ j ∈ (bankAt s b.val).jobs, j.fallback = false) →
      let k := b.val
      let x := bankAt s k
      let xs : List Int := l.chans.map (fun c => (sampleCode s l c).1)
      let bubble : Bool := l.chans.any (fun c => (sampleCode s l c).2)
      let n := x.shadowCnt + 1
      let check := decide (rdf s .rfxCfg 0 7 0 ≤ n)
      let a := granuleAt s l l.outOff
      let cnt := (counted (rd s .rfxPassCnt k) 1).toNat % 2 ^ 16
      let outs := (List.range 32).map (nearSpec l xs dev)
      (bankState s k = 1 → x.swap = none → orphanOf x = none → 32 ≤ l.stopRow →
        ∃ t, exec (.bankPass b dev false) s = .next t ∧ rd t .rfxPassCnt k = counted (rd s .rfxPassCnt k) 1
          ∧ granule t a (nearSpec l xs dev) (1 + bit bubble 1 + bit (overSpec l xs) 3 + cnt * 2 ^ 16) (sampleTs s l)
          ∧ memKept s t a 64
          ∧ bankAt t k = { x with
              inputs := xs, outputs := outs, bubble := bubble, tsNs := sampleTs s l, fresh := false
              shadowCnt := if check then 0 else n
              jobs := if check then x.jobs ++ [⟨xs, outs, false, bubble, sampleTs s l, cnt⟩] else x.jobs
              toRelease := x.toRelease + (if l.order = 0 then 1 else 0) }
          ∧ bankOnly s t k [(.rfxPassCnt, k)])
      ∧ (bankState s k = 1 → x.swap = none → orphanOf x = none → l.stopRow < 32 → l.stopOut < 12 → l.stopThr ≤ nearSpec l xs dev l.stopRow →
        ∃ t, exec (.bankPass b dev false) s = .next t ∧ (bankAt t k).outputs = outs
          ∧ ∀ e ∈ (image s).axis, e.kind = 3 → e.inst = l.inst → e.out = l.stopOut → e.link < 12 → lineOn s e.link = true →
              activeOn s e.link = true → rdb t .stpState 0 e.link = true)
      ∧ (∀ low, bankState s k ≠ 0 → onBank s l = false →
        ∃ t j, exec (.bankPass b dev low) s = .next t ∧ rd t .rfxPassCnt k = counted (rd s .rfxPassCnt k) 1 ∧ t.mem = s.mem
          ∧ bankAt t k = { x with inputs := xs, jobs := x.jobs ++ [j], shadowCnt := if check then 0 else n }
          ∧ j.inputs = xs ∧ j.fallback = true
          ∧ j.bubble = bubble ∧ bankOnly s t k [(.rfxPassCnt, k)])
      ∧ (bankState s k = 1 → x.swap = none → orphanOf x = none → x.heat = none →
        ∃ t j, exec (.bankPass b dev true) s = .next t ∧ bankState t k = 2 ∧ rdf t .rfxBankStat k 23 20 = 3
          ∧ (bankAt t k).jobs = x.jobs ++ [j] ∧ j.inputs = xs ∧ j.fallback = true ∧ 3 ∈ (bankAt t k).causes
          ∧ rdb t .rfxSticky 0 4 = true ∧ rdb t .rfxSticky 0 1 = true ∧ wasRaised s t cRfxSuspect scBank k
          ∧ (∀ j, j ≠ k → bankAt t j = bankAt s j)
          ∧ reported s { t with banks := s.banks }
              [(.rfxPassCnt, k), (.rfxSuspectCnt, k), (.rfxBankStat, k), (.rfxSticky, 0)]))
  ∧ (∀ (b : Fin 4) (dev : List Int) (s : State) (l m : Layer), layerOfBank s b.val = some l → s.run = true → l.src = 0 →
      tightAfter s l = some m → onBank s l = true → (∀ j ∈ (bankAt s b.val).jobs, j.fallback = false) → 32 ≤ l.stopRow →
    ∃ t, exec (.bankPass b dev false) s = .next t ∧ t.mem = s.mem ∧ (bankAt t b.val).fresh = true
      ∧ (bankAt t b.val).outputs = (List.range 32).map (nearSpec l (l.chans.map (fun c => (sampleCode s l c).1)) dev)
      ∧ bankOnly s t b.val [(.rfxPassCnt, b.val)])
  ∧ (∀ (b : Fin 4) (dev : List Int) (low : Bool) (s : State),
      s.run = false ∨ bankState s b.val = 0 ∨ layerOfBank s b.val = none ∨ (∃ j ∈ (bankAt s b.val).jobs, j.fallback = true) →
      exec (.bankPass b dev low) s = .next s)
  ∧ (∀ (b : Fin 4) (go : DWord) (s : State) (l : Layer), layerOfBank s b.val = some l →
      let a := granuleAt s l l.inOff
      (l.src ≠ 1 → exec (.goStore b go) s = .next s)
      ∧ (l.src = 1 →
        ∃ t, exec (.goStore b go) s = .next t ∧ memRead t (a + 56) 8 = bytesOf 8 go.toNat ∧ memKept s t (a + 56) 8
          ∧ bankAt t b.val = { bankAt s b.val with goWaiting := go != 0 || (bankAt s b.val).goWaiting }
          ∧ { t with mem := s.mem, poisoned := s.poisoned, banks := s.banks } = s
          ∧ ∀ j, j ≠ b.val → (∀ m ∈ (image s).layers, m.bank = j → m.src ≠ 1 ∨ granuleAt s m m.inOff ≠ a) →
              bankAt t j = bankAt s j))
  ∧ (∀ (b : Fin 4) (dev : List Int) (low : Bool) (s : State) (l : Layer), layerOfBank s b.val = some l → s.run = true →
      bankState s b.val = 2 → (∀ j ∈ (bankAt s b.val).jobs, j.fallback = false) →
      let k := b.val
      let x := bankAt s k
      let a := granuleAt s l l.inOff
      let n := x.shadowCnt + 1
      (l.src = 1 → x.goWaiting = false → exec (.bankPass b dev low) s = .next s)
      ∧ (l.src = 1 → x.goWaiting = true →
        ∃ t j, exec (.bankPass b dev low) s = .next t ∧ memRead t (a + 56) 8 = bytesOf 8 0 ∧ memKept s t (a + 56) 8
          ∧ bankAt t k = { x with
              inputs := j.inputs, jobs := x.jobs ++ [j], goWaiting := false
              shadowCnt := if rdf s .rfxCfg 0 7 0 ≤ n then 0 else n }
          ∧ j.fallback = true
          ∧ (∀ i < 32, mrd s (a + i) ≠ 0x80 → j.inputs.getD i 0 = (mrd s (a + i)).toInt)
          ∧ bankOnly s { t with free := s.free } k [(.rfxPassCnt, k)])
      ∧ (∀ p, l.src = 2 → tightBefore s l = some p → p.bank ≠ k →
        ((bankAt s p.bank).fresh = false → exec (.bankPass b dev low) s = .next s)
        ∧ ((bankAt s p.bank).fresh = true →
          ∃ t, exec (.bankPass b dev low) s = .next t
            ∧ (bankAt t k).inputs = (bankAt s p.bank).outputs.map (fun q => if q < 0 then 0 else q)
            ∧ bankAt t p.bank = { bankAt s p.bank with fresh := false }
            ∧ ∀ j, j ≠ k → j ≠ p.bank → bankAt t j = bankAt s j)))
  ∧ (∀ (b : Fin 4) (s : State) (l : Layer) (j : Job) (rest : List Job) (u : Nat), layerOfBank s b.val = some l →
      (bankAt s b.val).jobs = j :: rest → servingOf s b.val = some u →
      (∀ m < b.val, (bankAt s m).jobs = [] ∨ servingOf s m ≠ some u) →
      let k := b.val
      let x := bankAt s k
      let xs := j.inputs
      let counts (n : Nat) : Nat := if s.run then n else 0
      let wait := counts (if (scullAt s u).qSchuss.head?.any (·.started) then 7 else 0)
      let served (t : State) : Prop := (∀ v, v ≠ u → scullAt t v = scullAt s v)
        ∧ ((scullAt s u).qSchuss = [] → scullAt t u = scullAt s u) ∧ rd t .schRfxCnt u = counted (rd s .schRfxCnt u) (counts 1)
        ∧ rd t .schRfxDelay u = counted (rd s .schRfxDelay u) wait ∧ rd t .schCyc u = counted (rd s .schCyc u) wait
      let keys : List RegKey := [(.schRfxCnt, u), (.schRfxDelay, u), (.schCyc, u)]
      let miss := missSpec l xs (fun r => j.outputs.getD r 0)
      let h := (x.history ++ [miss]).drop (x.history.length + 1 - 8)
      let a := granuleAt s l l.outOff
      (j.fallback = false → j.outputs.length = 32 → h.countP (· == true) < 3 →
        ∃ t, exec (.reflexJob b) s = .next t ∧ served t ∧ bankAt t k = { x with jobs := rest, history := h } ∧ t.mem = s.mem
          ∧ rd t .rfxCheckCnt k = counted (rd s .rfxCheckCnt k) (counts 1)
          ∧ rd t .rfxMissCnt k = counted (rd s .rfxMissCnt k) (if miss then counts 1 else 0)
          ∧ bankOnly s { t with sculls := s.sculls } k (keys ++ [(.rfxCheckCnt, k), (.rfxMissCnt, k)]))
      ∧ (j.fallback = false → j.outputs.length = 32 → 3 ≤ h.countP (· == true) → bankState s k = 1 → x.heat = none →
        ∃ t, exec (.reflexJob b) s = .next t ∧ served t ∧ bankState t k = 2 ∧ rdf t .rfxBankStat k 23 20 = 1
          ∧ (bankAt t k).jobs = rest ∧ (bankAt t k).history = [] ∧ wasRaised s t cRfxSuspect scBank k)
      ∧ (j.fallback = true → tightAfter s l = none → 32 ≤ l.stopRow →
        ∃ t, exec (.reflexJob b) s = .next t ∧ served t
          ∧ rd t .rfxFallbackCnt k = counted (rd s .rfxFallbackCnt k) (counts 1)
          ∧ granule t a (codeSpec l xs) (1 + bit j.bubble 1 + 4 + bit (overSpec l xs) 3 + j.count % 2 ^ 16 * 2 ^ 16) j.ts
          ∧ memKept s t a 64
          ∧ { bankAt t k with toRelease := x.toRelease } = { x with
              jobs := rest, outputs := (List.range 32).map (codeSpec l xs), bubble := j.bubble, tsNs := j.ts, fresh := false }
          ∧ (l.src < 2 → (bankAt t k).toRelease = x.toRelease + (if l.src = 0 ∧ l.order = 0 then 1 else 0))
          ∧ bankOnly s { t with sculls := s.sculls } k (keys ++ [(.rfxFallbackCnt, k)]))
      ∧ (j.fallback = true → tightAfter s l ≠ none → 32 ≤ l.stopRow →
        ∃ t, exec (.reflexJob b) s = .next t ∧ served t ∧ t.mem = s.mem ∧ bankAt t k = { x with
            jobs := rest, outputs := (List.range 32).map (codeSpec l xs), bubble := j.bubble, tsNs := j.ts, fresh := true }))
  ∧ (∀ (b : Fin 4) (s : State), (bankAt s b.val).jobs = [] → exec (.reflexJob b) s = .next s)
  ∧ (∀ (b : Fin 4) (dev : List Int) (s : State) (l : Layer), layerOfBank s b.val = some l →
      let k := b.val
      let x := bankAt s k
      let p := probeCodes 32 x.lfsr
      let miss := missSpec l p.1 (nearSpec l p.1 dev)
      let n := rdf s .rfxBankStat k 19 18
      (bankState s k ≠ 3 → exec (.probePass b dev) s = .next s)
      ∧ (bankState s k = 3 → miss = false → x.probes + 1 < 64 →
        ∃ t, exec (.probePass b dev) s = .next t ∧ bankAt t k = { x with lfsr := p.2, probes := x.probes + 1 }
          ∧ t.mem = s.mem ∧ bankOnly s t k [])
      ∧ (bankState s k = 3 → miss = false → 64 ≤ x.probes + 1 →
        ∃ t, exec (.probePass b dev) s = .next t ∧ bankState t k = 1 ∧ rdf t .rfxBankStat k 19 18 = 0
          ∧ rdf t .rfxBankStat k 17 0 = rdf s .rfxBankStat k 17 0 ∧ rdf t .rfxBankStat k 28 20 = rdf s .rfxBankStat k 28 20
          ∧ bankAt t k = { x with lfsr := p.2, probes := x.probes + 1, history := [], shadowCnt := 0 }
          ∧ t.mem = s.mem ∧ bankOnly s t k [(.rfxBankStat, k)])
      ∧ (bankState s k = 3 → miss = true → x.heat = none → n < 2 →
        ∃ t, exec (.probePass b dev) s = .next t ∧ bankState t k = 2 ∧ rdf t .rfxBankStat k 19 18 = n + 1
          ∧ rdf t .rfxBankStat k 23 20 = 1 ∧ rdb t .rfxSticky 0 6 = true ∧ wasRaised s t cRfxSuspect scBank k
          ∧ reported s { t with banks := s.banks } [(.rfxSuspectCnt, k), (.rfxBankStat, k), (.rfxSticky, 0)])
      ∧ (bankState s k = 3 → miss = true → x.heat = none → n = 2 →
        ∃ t, exec (.probePass b dev) s = .next t ∧ bankState t k = 2 ∧ rdf t .rfxBankStat k 19 18 = 3
          ∧ rdb t .rfxSticky 0 6 = true ∧ rd t .fltLast 0 = lastWord cRfxBankFail scBank k
          ∧ rd t .fltEvtCnt 0 = counted (rd s .fltEvtCnt 0) 2))

/-- Conditions, lanes, heats and heaters of the banks: loss of LIGHT_X, a lane past its heat age, too few
working lanes, a clamped heater code, bad sensors and a heater short of its set point take a bank in use to SUSPECT with their cause; a failed lane is marked and a spare settles for it and then takes its input; a heat
blanks the oldest lane, checks its darkness, calibrates its rows and ends with new TRIM and GAIN, and HEAT_AGE with it when
no lane in service is past its heat age any more (when it clears is the model's reading, assumption 141); the row loop writes the
heater codes of R497; after 100 µs a retuned bank is on probation. -/
def Obligations.BankConditions : Prop :=
  (∀ s : State, ∃ t, exec .lightXLoss s = .next t ∧ t.lightX = false
      ∧ rd t .fltLast 0 = lastWord cLightLoss scDevice 0 ∧ t.insts = s.insts
      ∧ ∀ b < 4, (bankState s b = 0 → bankAt t b = bankAt s b ∧ bankState t b = 0)
          ∧ (bankState s b ≠ 0 → bankState t b = 2 ∧ 3 ∈ (bankAt t b).causes)
          ∧ (bankState s b = 1 → rdf t .rfxBankStat b 23 20 = 3))
  ∧ (∀ s : State, ∃ t, exec .lightXReturn s = .next t ∧ t.lightX = true
      ∧ { t with regs := s.regs, banks := s.banks, lightX := s.lightX } = s
      ∧ regsKept s t [(.rfxBankStat, 0), (.rfxBankStat, 1), (.rfxBankStat, 2), (.rfxBankStat, 3)]
      ∧ ∀ b < 4, (3 ∉ (bankAt s b).causes → bankAt t b = bankAt s b)
          ∧ (3 ∈ (bankAt s b).causes →
              bankAt t b = { bankAt s b with causes := (bankAt s b).causes.filter (· != 3), heatedSince := [] }))
  ∧ (∀ (b : Fin 4) (l : Fin 34) (s : State),
      let k := b.val
      let y := laneAt (bankAt s k) l.val
      let young := ∃ n, y.heatedAt = some n ∧ s.now < n + 10000000000
      (y.st ≠ 0 ∨ young ∨ bankState s k = 0 → exec (.heatAgeExpiry b l) s = .next s)
      ∧ (y.st = 0 → ¬ young → bankState s k = 1 → (bankAt s k).heat = none →
        ∃ t, exec (.heatAgeExpiry b l) s = .next t ∧ bankState t k = 2 ∧ rdf t .rfxBankStat k 23 20 = 2
          ∧ 2 ∈ (bankAt t k).causes ∧ (bankAt t k).lanes = (bankAt s k).lanes ∧ rdb t .rfxSticky 0 1 = true
          ∧ wasRaised s t cRfxSuspect scBank k ∧ (∀ j, j ≠ k → bankAt t j = bankAt s j)
          ∧ reported s { t with banks := s.banks } [(.rfxSuspectCnt, k), (.rfxBankStat, k), (.rfxSticky, 0)]))
  ∧ (∀ (b : Fin 4) (l : Fin 34) (s : State),
      let k := b.val
      let x := bankAt s k
      let y := laneAt x l.val
      (bankState s k = 0 ∨ y.st = 3 → exec (.heaterFault b l) s = .next s)
      ∧ (bankState s k ≠ 0 → y.st ≠ 3 → x.heat = none → x.swap = none →
        ∃ t, exec (.heaterFault b l) s = .next t
          ∧ laneAt (bankAt t k) l.val = { y with st := 3, input := if y.st = 0 then y.input else 32, failedAt := s.now }
          ∧ (∀ m, m ≠ l.val → laneAt (bankAt t k) m = laneAt x m) ∧ rdb t .rfxSticky 0 5 = true
          ∧ rdf t .rfxBankStat k 11 6 = 34 - (workingLanes (bankAt t k)).length
          ∧ ((workingLanes (bankAt t k)).length < 32 → bankState t k = 2 ∧ 7 ∈ (bankAt t k).causes)
          ∧ (32 ≤ (workingLanes (bankAt t k)).length →
              t.mem = s.mem ∧ bankOnly s t k [(.rfxBankStat, k), (.rfxSticky, 0)])
          ∧ ∀ p rest, y.st = 0 → y.input < 32 → freeSpares x = p :: rest →
              (∀ m < 34, m ≠ l.val → (laneAt x m).st = 3 → 32 ≤ (laneAt x m).input) →
              (∀ m < 34, m ≠ l.val → (laneAt x m).st = 0 → (laneAt x m).input ≠ y.input) →
              (bankAt t k).swap = some (l.val, p)))
  ∧ (∀ (b : Fin 4) (s : State), (bankAt s b.val).swap = none → exec (.laneSettleExpiry b) s = .next s)
  ∧ (∀ (b : Fin 4) (s : State) (l p : Nat), (bankAt s b.val).swap = some (l, p) → l ≠ p →
      let x := bankAt s b.val
    ∃ t, exec (.laneSettleExpiry b) s = .next t ∧ t.mem = s.mem ∧ bankOnly s t b.val [(.rfxBankStat, b.val)]
      ∧ laneAt (bankAt t b.val) p = { laneAt x p with st := 0, input := (laneAt x l).input }
      ∧ laneAt (bankAt t b.val) l = { laneAt x l with input := 32 }
      ∧ (∀ m, m ≠ l → m ≠ p → laneAt (bankAt t b.val) m = laneAt x m)
      ∧ ((∀ m < 34, m ≠ l → (laneAt x m).st = 3 → 32 ≤ (laneAt x m).input) → (bankAt t b.val).swap = none))
  ∧ (∀ (b : Fin 4) (s : State),
      let k := b.val
      (bankState s k ≠ 4 ∨ (∃ m < k, bankState s m = 4) ∨ (∃ m < 4, m ∈ s.chg.retuning ∧ bankState s m = 3) →
        exec (.retuneSettleExpiry b) s = .next s)
      ∧ (bankState s k = 4 → (∀ m < k, bankState s m ≠ 4) → (∀ m < 4, m ∈ s.chg.retuning → bankState s m ≠ 3) →
        ∃ t, exec (.retuneSettleExpiry b) s = .next t ∧ bankState t k = 3 ∧ rdf t .rfxBankStat k 23 20 = 0
          ∧ bankAt t k = { bankAt s k with lfsr := 0xACE1, probes := 0 } ∧ t.mem = s.mem
          ∧ bankOnly s t k [(.rfxBankStat, k)]))
  ∧ (∀ (b : Fin 4) (s : State) (l : Nat), s.recovery = [] → s.phase = .recovery → ticking s = true → l < 34 →
      (∀ m < 34, m ≠ l → heatRank (laneAt (bankAt s b.val) l) < heatRank (laneAt (bankAt s b.val) m)) →
      let k := b.val
      let x := bankAt s k
      let y := laneAt x l
      x.heat = none → x.swap = none → s.lightX = true → y.st ≠ 3 →
      (∀ p rest, bankState s k = 1 → y.st = 0 → freeSpares x = p :: rest →
        ∃ t, exec (.heatSlot b) s = .next t ∧ bankAt t k = { x with heat := some ⟨l, some p, 2, 0, [], 0⟩ }
          ∧ t.mem = s.mem ∧ bankOnly s t k [(.rfxBankStat, k)])
      ∧ (bankState s k = 1 → y.st = 0 → freeSpares x = [] → exec (.heatSlot b) s = .next s)
      ∧ (bankState s k = 2 ∨ (bankState s k = 1 ∧ y.st ≠ 0) →
        ∃ t, exec (.heatSlot b) s = .next t ∧ (bankAt t k).heat = some ⟨l, none, 4, 0, [], y.st⟩
          ∧ laneAt (bankAt t k) l = { y with st := 2 } ∧ (∀ m, m ≠ l → laneAt (bankAt t k) m = laneAt x m)
          ∧ rdf t .rfxBankStat k 17 12 = l ∧ t.mem = s.mem ∧ bankOnly s t k [(.rfxBankStat, k)]))
  ∧ (∀ (b : Fin 4) (obs : HeatObs) (s : State), (bankAt s b.val).heat = none →
      exec (.bankHeatTimer b obs) s = .next s)
  ∧ (∀ (b : Fin 4) (s : State) (h : Heat), (bankAt s b.val).heat = some h → h.lane < 34 →
      let k := b.val
      let x := bankAt s k
      let l := h.lane
      let y := laneAt x l
      (∀ p, h.step = 2 → h.spare = some p → p ≠ l →
        ∃ t, exec (.bankHeatTimer b .settled) s = .next t ∧ (bankAt t k).heat = some ⟨l, some p, 4, 0, [], 0⟩
          ∧ laneAt (bankAt t k) p = { laneAt x p with st := 0, input := y.input } ∧ laneAt (bankAt t k) l = { y with st := 2 }
          ∧ (∀ m, m ≠ l → m ≠ p → laneAt (bankAt t k) m = laneAt x m) ∧ t.mem = s.mem
          ∧ bankOnly s t k [(.rfxBankStat, k)])
      ∧ (∀ level, h.step = 4 → level ≤ rdf s .rfxCfg 0 31 24 →
        ∃ t, exec (.bankHeatTimer b (.dark level)) s = .next t ∧ bankAt t k = { x with heat := some { h with step := 5 } }
          ∧ t.mem = s.mem ∧ bankOnly s t k [])
      ∧ (∀ level, h.step = 4 → rdf s .rfxCfg 0 31 24 < level → h.spare = none → h.was = 1 →
        ∃ t, exec (.bankHeatTimer b (.dark level)) s = .next t ∧ (bankAt t k).heat = none
          ∧ laneAt (bankAt t k) l = { y with st := 1 } ∧ (∀ m, m ≠ l → laneAt (bankAt t k) m = laneAt x m)
          ∧ rd t .rfxHeatAbortCnt k = (if s.run then counted (rd s .rfxHeatAbortCnt k) 1 else rd s .rfxHeatAbortCnt k)
          ∧ rdb t .rfxSticky 0 2 = true ∧ t.mem = s.mem
          ∧ bankOnly s t k [(.rfxBankStat, k), (.rfxSticky, 0), (.rfxHeatAbortCnt, k)])
      ∧ (∀ offset gain, h.step = 5 → 2048 < offset.natAbs →
        ∃ t, exec (.bankHeatTimer b (.row offset gain)) s = .next t ∧ (bankAt t k).heat = none
          ∧ (laneAt (bankAt t k) l).st = 3 ∧ (laneAt (bankAt t k) l).failedAt = s.now ∧ rdb t .rfxSticky 0 5 = true
          ∧ ∀ i, rd t .rfxTrim i = rd s .rfxTrim i)
      ∧ (∀ offset gain, h.step = 5 → offset.natAbs ≤ 2048 → h.row < 31 →
        ∃ t, exec (.bankHeatTimer b (.row offset gain)) s = .next t ∧ t.mem = s.mem ∧ bankOnly s t k []
          ∧ bankAt t k = { x with heat := some { h with row := h.row + 1, trims := h.trims ++ [offset] } })
      ∧ (∀ offset gain, h.step = 5 → offset.natAbs ≤ 2048 → h.row = 31 → h.trims.length = 31 →
        ∃ t, exec (.bankHeatTimer b (.row offset gain)) s = .next t ∧ (bankAt t k).heat = none
          ∧ (let back := h.was = 0 ∧ h.spare = none
             laneAt (bankAt t k) l = ⟨if back then 0 else 1, if back then y.input else 32, some s.now, 0, gain % 65536⟩)
          ∧ (∀ m, m ≠ l → laneAt (bankAt t k) m = laneAt x m)
          ∧ (∀ i < 32, rdf t .rfxTrim (k * 1088 + l * 32 + i) 15 0 = unsigned 16 ((h.trims ++ [offset]).getD i 0)
              ∧ rdf t .rfxTrim (k * 1088 + l * 32 + i) 31 16 = rdf s .rfxTrim (k * 1088 + l * 32 + i) 31 16)
          ∧ (∀ i, i / 32 ≠ k * 34 + l → rd t .rfxTrim i = rd s .rfxTrim i)
          ∧ rd t .rfxHeatCnt k = (if s.run then counted (rd s .rfxHeatCnt k) 1 else rd s .rfxHeatCnt k)
          ∧ (bankState s k = 1 → bankState t k = 1)
          ∧ (bankState s k = 2 → x.causes = [] → rdf s .rfxBankStat k 19 18 < 3 →
              (∀ m < 34, m ≠ l → (laneAt x m).st ≠ 3 → m ∈ x.heatedSince) →
              bankState t k = 3 ∧ (bankAt t k).lfsr = 0xACE1 ∧ (bankAt t k).probes = 0)
          ∧ (bankState s k = 2 → x.causes = [] → (∃ m < 34, m ≠ l ∧ (laneAt x m).st ≠ 3 ∧ m ∉ x.heatedSince) →
              bankState t k = 2)
          ∧ ((∀ m < 34, m ≠ l → (laneAt x m).st = 0 → ∃ n, (laneAt x m).heatedAt = some n ∧ s.now < n + 10000000000) →
              2 ∉ (bankAt t k).causes)
          ∧ t.mem = s.mem))
  ∧ (∀ (b : Fin 4) (row : Fin 32) (t0 t1 t2 t3 : BitVec 16) (act : List (Fin 65537)) (low : Bool) (s : State),
      bankState s b.val = 0 ∨ layerOfBank s b.val = none ∨ (image s).waxes.find? (fun w => w.bank == b.val) = none →
      exec (.heaterLoopUpdate b row t0 t1 t2 t3 ⟨act, low⟩) s = .next s)
  ∧ ∀ (b : Fin 4) (row : Fin 32) (t0 t1 t2 t3 : BitVec 16) (act : List (Fin 65537)) (s : State) (l : Layer) (w : Wax),
      layerOfBank s b.val = some l → (image s).waxes.find? (fun w => w.bank == b.val) = some w → bankState s b.val ≠ 0 →
      let k := b.val
      let x := bankAt s k
      let raw := [t0.toInt, t1.toInt, t2.toInt, t3.toInt]
      let far (t : Int) : Bool := decide (160 < (t - medianOf raw).natAbs)
      let bad := raw.countP far
      let used := raw.map (fun t => if far t then medianOf raw else t)
      let target := feedSum s k act
      let ff := target + roundEven ((x.ff - target) * (Config.filterLeft (rdf s .thmFfTau 0 15 0) (s.now - x.ffAt) % 65537)) 65536
      let at_ (lane : Nat) : Nat := k * 1088 + lane * 32 + row.val
      let sum (lane : Nat) : Int := waxAt w lane row.val (rowTemp used (roundEven ff (2 ^ 20)) row.val)
        + signed 16 (rdf s .rfxTrim (at_ lane) 15 0)
        + roundEven (((laneAt x lane).gain : Int) * w.curve.getD (ringCode l (laneAt x lane) row.val + 128).toNat 0) 16384
      let shown (t : State) : Prop := ∀ i < 4, rdf t .thmTemp (4 * k + i) 15 0 = unsigned 16 (raw.getD i 0)
      (bad < 2 → (∀ lane < 34, (laneAt x lane).st = 0 → 0 ≤ sum lane ∧ sum lane ≤ 16383) →
        ∃ t, exec (.heaterLoopUpdate b row t0 t1 t2 t3 ⟨act, false⟩) s = .next t ∧ shown t ∧ bankState t k = bankState s k
          ∧ (∀ lane < 34, rdf t .rfxTrim (at_ lane) 31 16 = (clampInt 0 16383 (sum lane)).toNat
              ∧ rdf t .rfxTrim (at_ lane) 15 0 = rdf s .rfxTrim (at_ lane) 15 0)
          ∧ (∀ i, (∀ lane < 34, i ≠ at_ lane) → rd t .rfxTrim i = rd s .rfxTrim i)
          ∧ (bankAt t k).sensorBad = bad ∧ (bankAt t k).ff = ff ∧ (bankAt t k).ffAt = s.now ∧ row.val ∉ (bankAt t k).lowRows
          ∧ (bankAt t k).lanes = x.lanes ∧ (∀ j, j ≠ k → bankAt t j = bankAt s j)
          ∧ (∀ n, rdb t .thmSticky 0 n = (rdb s .thmSticky 0 n || (n == 2 && bad == 1)))
          ∧ { t with regs := s.regs, banks := s.banks, free := s.free } = s
          ∧ ∀ r i, r ∉ [Reg.rfxTrim, .thmTemp, .thmHtrPwr, .rfxBankStat, .thmSticky] → rd t r i = rd s r i)
      ∧ (bad < 2 → (∃ lane < 34, (laneAt x lane).st = 0 ∧ (sum lane < 0 ∨ 16383 < sum lane)) →
        ∃ t, exec (.heaterLoopUpdate b row t0 t1 t2 t3 ⟨act, false⟩) s = .next t ∧ shown t ∧ bankState t k = 2
          ∧ 8 ∈ (bankAt t k).causes ∧ rdb t .rfxSticky 0 3 = true
          ∧ ∀ lane < 34, rdf t .rfxTrim (at_ lane) 31 16 = (clampInt 0 16383 (sum lane)).toNat)
      ∧ (2 ≤ bad →
        ∃ t, exec (.heaterLoopUpdate b row t0 t1 t2 t3 ⟨act, false⟩) s = .next t ∧ shown t ∧ bankState t k = 2
          ∧ 4 ∈ (bankAt t k).causes ∧ rdb t .thmSticky 0 2 = true ∧ (bankAt t k).sensorBad = bad)
      ∧ ∃ t, exec (.heaterLoopUpdate b row t0 t1 t2 t3 ⟨act, true⟩) s = .next t ∧ shown t ∧ bankState t k = 2
          ∧ 4 ∈ (bankAt t k).causes ∧ rdb t .thmSticky 0 1 = true ∧ row.val ∈ (bankAt t k).lowRows


/-! ## The regatta -/

/-- The regatta's ports: a lane that fails leaves its map for a spare, or the direction is one lane narrower; a lane heat runs
on a lane that is or has been made a spare; HELLO brings a port UP, STROKE messages keep it there, carry acknowledgements, the
members heard and the time; a failing port goes DOWN and retrains; bundles are taken in order, waiting for their barrier or
forwarded, and sent again when not acknowledged; slip is entered and left; without LIGHT_L both ports are DARK. -/
def Obligations.RegattaPortsAndMessages : Prop :=
  (∀ (p : Fin 2) (lane : Fin 10) (s : State),
      let k := p.val
      let m := rxLanes s k
      (portState s k = 0 ∨ laneFailed s false k lane.val = true → exec (.oplLaneFailure p lane) s = .next s)
      ∧ (portState s k ≠ 0 → laneFailed s false k lane.val = false →
        ∃ t msg, exec (.oplLaneFailure p lane) s = .next t ∧ laneFailed t false k lane.val = true
          ∧ (portAt t k) = { portAt s k with outbox := msg :: (portAt s k).outbox }
          ∧ messageOk msg 3 = true ∧ field msg 1 1 = selfId s ∧ field msg 4 4 = rdf t .oplPLane k 25 16
          ∧ (∀ j, j ≠ k → portAt t j = portAt s j)
          ∧ (lane.val ∉ m → rxLanes t k = m)
          ∧ (∀ sp rest, lane.val ∈ m → spareLanes s false k = sp :: rest →
              rxLanes t k = m.map (fun x => if x = lane.val then sp else x))
          ∧ (lane.val ∈ m → spareLanes s false k = [] → rxLanes t k = m.filter (· != lane.val)
              ∧ rdf t .oplPStat k 24 21 = (rxLanes t k).length)
          ∧ onlyRegs s { t with ports := s.ports } [(.oplPLane, k), (.oplPRxmap, k), (.oplPStat, k), (.oplSticky, 0)]))
  ∧ (∀ (p : Fin 2) (msg : Message) (s : State), portState s p.val = 0 → exec (.laneMessage p msg) s = .next s)
  ∧ (∀ (p : Fin 2) (msg : Message) (i : Instr) (s : State),
      (i = .laneMessage p msg ∧ portState s p.val ≠ 0 ∧ messageOk msg 3 = false)
        ∨ (i = .helloMessage p msg ∧ (portState s p.val = 2 ∨ portState s p.val = 3) ∧ messageOk msg 1 = false)
        ∨ (i = .strokeMessage p msg ∧ portState s p.val = 3 ∧ messageOk msg 2 = false) →
    ∃ t, exec i s = .next t ∧ onlyRegs s t [(.oplCrcCnt, p.val)]
      ∧ rd t .oplCrcCnt p.val = (if s.run then counted (rd s .oplCrcCnt p.val) 1 else rd s .oplCrcCnt p.val))
  ∧ (∀ (p : Fin 2) (msg : Message) (l : Nat) (s : State), portState s p.val ≠ 0 → messageOk msg 3 = true → l < 10 →
      field msg 4 4 = 2 ^ l → laneFailed s true p.val l = false → (portAt s p.val).heat = none →
      let k := p.val
      let m := txLanes s k
      let heard (t : State) : Prop := portAt t k = { portAt s k with lastHeard := strokeNat s } ∧ ∀ j, j ≠ k → portAt t j = portAt s j
      (l ∉ m →
        ∃ t, exec (.laneMessage p msg) s = .next t ∧ heard t ∧ laneFailed t true k l = true
          ∧ onlyRegs s { t with ports := s.ports } [(.oplPLane, k)])
      ∧ (∀ sp rest, l ∈ m → spareLanes s true k = sp :: rest →
        ∃ t, exec (.laneMessage p msg) s = .next t ∧ heard t ∧ laneFailed t true k l = true
          ∧ txLanes t k = m.map (fun x => if x = l then sp else x) ∧ rdf t .oplPStat k 7 0 = (rdf s .oplPStat k 7 0 + 1) % 256
          ∧ rd t .oplSwitchCnt k = (if s.run then counted (rd s .oplSwitchCnt k) 1 else rd s .oplSwitchCnt k)
          ∧ rdb t .oplSticky 0 2 = true
          ∧ onlyRegs s { t with ports := s.ports } [(.oplPLane, k), (.oplPTxmap, k), (.oplPStat, k), (.oplSticky, 0), (.oplSwitchCnt, k)])
      ∧ (l ∈ m → spareLanes s true k = [] →
        ∃ t, exec (.laneMessage p msg) s = .next t ∧ heard t ∧ laneFailed t true k l = true ∧ txLanes t k = m.filter (· != l)
          ∧ rdf t .oplPStat k 28 25 = (txLanes t k).length ∧ rdf t .oplPStat k 7 0 = (rdf s .oplPStat k 7 0 + 1) % 256
          ∧ rdb t .oplSticky 0 3 = true ∧ wasRaised s t cOplDegraded scPort k
          ∧ reported s { t with ports := s.ports } [(.oplPLane, k), (.oplPTxmap, k), (.oplPStat, k), (.oplSticky, 0)]))
  ∧ (∀ s : State,
      (s.timerOn = false ∨ s.refLost = true ∨ strokeNs s < 1000 → exec .strokeMessageSend s = .next s)
      ∧ (s.timerOn = true → s.refLost = false → 1000 ≤ strokeNs s →
        ∃ t, exec .strokeMessageSend s = .next t ∧ { t with ports := s.ports } = s
          ∧ ∀ p < 2, let x := portAt s p
            (portState s p = 3 → ∃ m, portAt t p = { x with outbox := [m], txNs := strokeNs s } ∧ messageOk m 2 = true
              ∧ field m 1 1 = selfId s ∧ field m 2 1 = (s.heardPrev.toNat ||| 2 ^ selfId s) ∧ field m 4 4 = strokeNs s % 2 ^ 32
              ∧ field m 8 4 = x.echoTx % 2 ^ 32 ∧ field m 0x0C 4 = x.echoRx % 2 ^ 32 ∧ field m 0x10 8 = regattaStroke s
              ∧ field m 0x18 4 = x.rxSeq % 2 ^ 32)
            ∧ (portState s p = 2 → ∃ m, portAt t p = { x with outbox := [m] } ∧ messageOk m 1 = true ∧ field m 1 1 = selfId s
              ∧ field m 2 1 = membersMask s ∧ field m 4 4 = periodNs s ∧ field m 0x10 4 = (rd s .oplRid 0).toNat
              ∧ field m 0x14 4 = (rd s .oplRid 1).toNat)
            ∧ (portState s p ≠ 2 → portState s p ≠ 3 → portAt t p = x)))
  ∧ (∀ (p : Fin 2) (msg : Message) (s : State), portState s p.val ≠ 3 → exec (.strokeMessage p msg) s = .next s)
  ∧ (∀ (p : Fin 2) (msg : Message) (s : State), portState s p.val = 3 → messageOk msg 2 = true →
      let k := p.val
      let x := portAt s k
      let there : Int := (field msg 0x0C 4 : Nat) - (x.txNs : Int)
      let back : Int := (strokeNs s : Nat) - (field msg 4 4 : Int)
      let delta := (back - there) / 2
      let mine := field msg 8 4 = x.txNs ∧ x.txNs ≠ 0
      let kept := x.unacked.filter (fun b => decide (field msg 0x18 4 < b.seq))
    (s.phase = .recovery → ∃ t, exec (.strokeMessage p msg) s = .next t ∧ t.heard = s.heard ||| BitVec.ofNat 8 (field msg 2 1)
      ∧ (portAt t k).lastHeard = strokeNat s ∧ ∃ new, (portAt t k).unacked = kept ++ new)
    ∧ (s.phase ≠ .recovery → ∃ t, exec (.strokeMessage p msg) s = .next t ∧ t.heard = s.heard ||| BitVec.ofNat 8 (field msg 2 1)
      ∧ (∀ j < 8, (aliveMask t).testBit j
          = (((aliveMask s).testBit j || (field msg 2 1).testBit j) && (membersMask s).testBit j || j == selfId s))
      ∧ portAt t k = { x with
          lastHeard := strokeNat s, echoTx := field msg 4 4, echoRx := strokeNs s, peerEpoch := field msg 3 1
          unacked := kept, delta := if mine then delta else x.delta }
      ∧ (∀ j, j ≠ k → portAt t j = portAt s j)
      ∧ (mine → rdf t .oplPDelay k 19 0 = ((back + there) / 2).toNat % 2 ^ 20)
      ∧ (mine → rdf t .oplStat 0 26 24 = selfId s → rd t .oplOfs 0 = 0 ∧ t.rsOfs = s.rsOfs)
      ∧ (mine → rdf t .oplStat 0 26 24 ≠ selfId s → rdf t .oplStat 0 26 24 = neighbour s k →
          routeTo t (neighbour s k) = some k → rd t .oplOfs 0 = BitVec.ofInt 32 delta
            ∧ t.rsOfs = (field msg 0x10 8 : Nat) - roundEven delta (Nat.max 1 (periodNs s)) - (strokeNat s : Int))
      ∧ (¬ mine → rd t .oplOfs 0 = rd s .oplOfs 0 ∧ rd t .oplPDelay k = rd s .oplPDelay k ∧ t.rsOfs = s.rsOfs)
      ∧ { t with regs := s.regs, ports := s.ports, heard := s.heard, rsOfs := s.rsOfs, free := s.free } = s
      ∧ regsKept s t [(.oplStat, 0), (.oplPDelay, k), (.oplOfs, 0)]))
  ∧ (∀ (p : Fin 2) (msg : Message) (s : State),
      (portState s p.val ≠ 2 → portState s p.val ≠ 3 → exec (.helloMessage p msg) s = .next s)
      ∧ (portState s p.val = 3 → messageOk msg 1 = true →
        ∃ t, exec (.helloMessage p msg) s = .next t ∧ portAt t p.val = { portAt s p.val with lastHeard := strokeNat s }
          ∧ (∀ j, j ≠ p.val → portAt t j = portAt s j) ∧ { t with ports := s.ports } = s))
  ∧ (∀ (p : Fin 2) (msg : Message) (s : State), portState s p.val = 2 → messageOk msg 1 = true →
      let k := p.val
      let src := field msg 1 1
      let fits := field msg 0x10 4 = (rd s .oplRid 0).toNat ∧ field msg 0x14 4 = (rd s .oplRid 1).toNat
        ∧ field msg 2 1 = membersMask s ∧ field msg 4 4 = periodNs s ∧ src = neighbour s k
        ∧ ¬ (portState s (1 - k) = 3 ∧ rdf s .oplPStat (1 - k) 15 8 = src)
      (fits →
        ∃ t, exec (.helloMessage p msg) s = .next t ∧ portState t k = 3 ∧ rdf t .oplPStat k 15 8 = src
          ∧ portAt t k = { portAt s k with lastHeard := strokeNat s, peerEpoch := field msg 3 1 }
          ∧ (∀ j, j ≠ k → portAt t j = portAt s j) ∧ onlyRegs s { t with ports := s.ports } [(.oplPStat, k), (.oplStat, 0)])
      ∧ (¬ fits →
        ∃ t, exec (.helloMessage p msg) s = .next t ∧ rdb t .oplSticky 0 1 = true ∧ onlyRegs s t [(.oplSticky, 0)]))
  ∧ (∀ (j : Fin 8) (s : State),
      let gone := oplOn s = true ∧ j.val ≠ selfId s ∧ (aliveMask s).testBit j.val = true ∧ 3 ≤ Tab.get zeroDefault s.misses j.val
      (¬ gone → exec (.heartbeatMiss j) s = .next s)
      ∧ (gone → ∃ t, exec (.heartbeatMiss j) s = .next t ∧ (aliveMask t).testBit j.val = false
          ∧ (∀ i < 8, i ≠ j.val → i ≠ selfId s → (membersMask s).testBit i = true →
              (aliveMask t).testBit i = (aliveMask s).testBit i)
          ∧ onlyRegs s t [(.oplStat, 0)]))
  ∧ (∀ (p : Fin 2) (b : List Byte) (s : State), portState s p.val ≠ 3 → exec (.bundle p b) s = .next s)
  ∧ (∀ (p : Fin 2) (b : List Byte) (s : State), portState s p.val = 3 → bundleData b = none →
    ∃ t, exec (.bundle p b) s = .next t ∧ portAt t p.val = { portAt s p.val with discarding := true }
      ∧ (∀ j, j ≠ p.val → portAt t j = portAt s j)
      ∧ rd t .oplCrcCnt p.val = (if s.run then counted (rd s .oplCrcCnt p.val) 1 else rd s .oplCrcCnt p.val)
      ∧ onlyRegs s { t with ports := s.ports } [(.oplCrcCnt, p.val)])
  ∧ (∀ (p : Fin 2) (b data : List Byte) (s : State), portState s p.val = 3 → bundleData b = some data →
      let k := p.val
      let x := portAt s k
      let seq := field b 4 4
      let c := field b 0 1
      let got := { x with rxSeq := seq, discarding := false }
      let next := seq = (x.rxSeq + 1) % 2 ^ 32 ∧ s.phase ≠ .recovery
      let counts (t : State) : Prop := rd t .oplRxCnt k = (if s.run then counted (rd s .oplRxCnt k) 1 else rd s .oplRxCnt k)
      (seq ≠ (x.rxSeq + 1) % 2 ^ 32 →
        ∃ t, exec (.bundle p b) s = .next t ∧ portAt t k = { x with discarding := x.discarding || decide (x.rxSeq < seq) }
          ∧ (∀ j, j ≠ k → portAt t j = portAt s j) ∧ { t with ports := s.ports } = s)
      ∧ (seq = (x.rxSeq + 1) % 2 ^ 32 → s.phase = .recovery →
        ∃ t, exec (.bundle p b) s = .next t ∧ counts t ∧ (portAt t k).rxSeq = seq ∧ (portAt t k).discarding = false)
      ∧ (∀ e, next → field b 2 1 = selfId s → channelOf s c = some e → e.typ ≠ 1 →
        ∃ t, exec (.bundle p b) s = .next t ∧ portAt t k = got ∧ counts t
          ∧ rchanAt t c = { rchanAt s c with arrived := (rchanAt s c).arrived ++ [(strokeNat s, slice b 0 64 ++ data)] }
          ∧ (∀ j, j ≠ k → portAt t j = portAt s j) ∧ (∀ j, j ≠ c → rchanAt t j = rchanAt s j)
          ∧ onlyRegs s { t with ports := s.ports, rchans := s.rchans } [(.oplRxCnt, k)])
      ∧ (next → field b 2 1 ≠ selfId s → portState s (1 - k) = 3 →
        ∃ t, exec (.bundle p b) s = .next t ∧ portAt t k = got ∧ counts t
          ∧ portAt t (1 - k) = { portAt s (1 - k) with fwd := (portAt s (1 - k)).fwd ++ [b] }
          ∧ onlyRegs s { t with ports := s.ports } [(.oplRxCnt, k)])
      ∧ (next → field b 2 1 ≠ selfId s → portState s (1 - k) ≠ 3 →
        ∃ t, exec (.bundle p b) s = .next t ∧ portAt t k = got ∧ counts t
          ∧ rd t .oplChDrop (c % 64)
              = (if s.run then counted (rd s .oplChDrop (c % 64)) 1 else rd s .oplChDrop (c % 64))
          ∧ onlyRegs s { t with ports := s.ports } [(.oplRxCnt, k), (.oplChDrop, c % 64)])
      ∧ (∀ e i other d, next → field b 2 1 = selfId s → channelOf s c = some e → e.typ = 1 →
          mirrorEnd s e = some (i, other) → (modelOf s i).bind (fun m => m.slots[field b 0x20 1]?) = some d →
          field b 0x1C 4 = 0 → d.len + 64 ≤ data.length → field (slice data d.len 64) 16 4 = d.len →
          field (slice data d.len 64) 20 4 = (crc32 (data.take d.len)).toNat →
          let key := mirrorKey i (field b 0x20 1)
          let copy : Copy := ⟨slice data d.len 64, data.take d.len⟩
          let m := mirrorAt s key
          let intoA := m.a = none ∨ ∃ x y, m.a = some x ∧ m.b = some y ∧ x.stroke < y.stroke
        ∃ t, exec (.bundle p b) s = .next t ∧ portAt t k = got ∧ counts t
          ∧ (intoA → mirrorAt t key = { m with a := some copy, part := [] })
          ∧ (¬ intoA → mirrorAt t key = { m with b := some copy, part := [] })
          ∧ ∀ j, j ≠ key → mirrorAt t j = mirrorAt s j))
  ∧ (∀ (p : Fin 2) (s : State),
      let k := p.val
      let x := portAt s k
      let due := ∃ b rest, x.unacked = b :: rest ∧ b.sentAt + 2 ≤ strokeNat s
      let n := Nat.min (4 - x.started) (Nat.min 4 x.unacked.length)
      (s.phase ≠ .recovery ∨ portState s k ≠ 3 ∨ inSlip s = true ∨ ¬ due ∨ 4 ≤ x.started → exec (.bundleResend p) s = .next s)
      ∧ (s.phase = .recovery → portState s k = 3 → inSlip s = false → due → x.started < 4 →
        ∃ t, exec (.bundleResend p) s = .next t
          ∧ portAt t k = { x with
              unacked := (x.unacked.take n).map (fun b => { b with tries := b.tries + 1, sentAt := strokeNat s }) ++ x.unacked.drop n
              started := x.started + n }
          ∧ (∀ j, j ≠ k → portAt t j = portAt s j)
          ∧ rd t .oplRetxCnt k = (if s.run then counted (rd s .oplRetxCnt k) n else rd s .oplRetxCnt k)
          ∧ rdb t .oplSticky 0 5 = true ∧ onlyRegs s { t with ports := s.ports } [(.oplRetxCnt, k), (.oplSticky, 0)]))
  ∧ (∀ (p : Fin 2) (lane : Fin 10) (s : State),
      let k := p.val
      let l := lane.val
      let m := txLanes s k
      let free := portState s k ≠ 0 ∧ (portAt s k).heat = none ∧ laneFailed s true k l = false ∧ excluded s k l = false
      let heated : Port := { portAt s k with heat := some ⟨l, none, 2, 0, [], 1⟩ }
      (¬ free ∨ (l ∈ m ∧ spareLanes s true k = []) → exec (.oplLaneHeat p lane) s = .next s)
      ∧ (free → l ∉ m →
        ∃ t, exec (.oplLaneHeat p lane) s = .next t ∧ portAt t k = heated ∧ { t with ports := s.ports } = s)
      ∧ (∀ sp rest, free → l ∈ m → spareLanes s true k = sp :: rest →
        ∃ t, exec (.oplLaneHeat p lane) s = .next t ∧ portAt t k = heated
          ∧ txLanes t k = m.map (fun x => if x = l then sp else x) ∧ rdf t .oplPStat k 7 0 = (rdf s .oplPStat k 7 0 + 1) % 256
          ∧ onlyRegs s { t with ports := s.ports } [(.oplPTxmap, k), (.oplPStat, k), (.oplSticky, 0)]))
  ∧ (∀ (p : Fin 2) (obs : HeatObs) (s : State), (portAt s p.val).heat = none → exec (.oplHeatTimer p obs) s = .next s)
  ∧ (∀ (p : Fin 2) (h : Heat) (s : State), (portAt s p.val).heat = some h →
      let k := p.val
      let x := portAt s k
      (h.step = 2 → ∃ t, exec (.oplHeatTimer p .settled) s = .next t
        ∧ portAt t k = { x with heat := some { h with step := 3 } } ∧ { t with ports := s.ports } = s)
      ∧ (h.step = 3 → ∃ t, exec (.oplHeatTimer p (.dark 0)) s = .next t
        ∧ portAt t k = { x with heat := some { h with step := 4 } } ∧ { t with ports := s.ports } = s)
      ∧ (∀ level, h.step = 3 → level ≠ 0 → ∃ t, exec (.oplHeatTimer p (.dark level)) s = .next t
        ∧ portAt t k = { x with heat := none } ∧ rdb t .oplSticky 0 8 = true
        ∧ onlyRegs s { t with ports := s.ports } [(.oplSticky, 0)])
      ∧ (∀ offset gain, h.step = 4 → ∃ t, exec (.oplHeatTimer p (.row offset gain)) s = .next t
        ∧ (portAt t k).heat = none ∧ Tab.get zeroDefault (portAt t k).heatedAt h.lane = s.now
        ∧ { portAt t k with heat := x.heat, heatedAt := x.heatedAt } = x
        ∧ rd t .oplHeatCnt k = (if s.run then counted (rd s .oplHeatCnt k) 1 else rd s .oplHeatCnt k)
        ∧ onlyRegs s { t with ports := s.ports } [(.oplHeatCnt, k)]))
  ∧ (∀ (p : Fin 2) (s : State),
      let k := p.val
      let x := portAt s k
      let fails := (portState s k = 2 ∨ portState s k = 3) ∧ ((txLanes s k).length < 4 ∨ (rxLanes s k).length < 4
        ∨ (∃ b ∈ x.unacked, 4 ≤ b.tries) ∨ (portState s k = 3 ∧ x.lastHeard + 8 ≤ strokeNat s))
      (¬ fails → exec (.portDown p) s = .next s)
      ∧ (fails → ∃ t, exec (.portDown p) s = .next t ∧ portState t k = 4 ∧ rdf t .oplPStat k 15 8 = 0xFF
          ∧ (portAt t k).unacked = [] ∧ (portAt t k).fwd = [] ∧ (portAt t k).heat = none ∧ (portAt t k).downAt = s.now
          ∧ (∀ j, j ≠ k → portAt t j = portAt s j) ∧ wasRaised s t cOplDown scPort k
          ∧ reported s { t with ports := s.ports }
              ((.oplStat, 0) :: (.oplPStat, k) :: (List.range 64).map (fun c => (Reg.oplChDrop, c)))))
  ∧ (∀ (p : Fin 2) (s : State),
      let k := p.val
      let due := portState s k = 4 ∧ (portAt s k).downAt + 100000000 ≤ s.now
      (¬ due → exec (.portRetrain p) s = .next s)
      ∧ (due → ∃ t, exec (.portRetrain p) s = .next t ∧ portState t k = 1
          ∧ portAt t k = { portAt s k with downAt := s.now } ∧ onlyRegs s { t with ports := s.ports } [(.oplPStat, k)])
      ∧ (portState s k ≠ 1 → exec (.oplLanesLocked p) s = .next s)
      ∧ (portState s k = 1 → ∃ t, exec (.oplLanesLocked p) s = .next t ∧ portState t k = 2
          ∧ txLanes t k = ((List.range 10).filter (fun l => !laneFailed s true k l && !excluded s k l)).take 8
          ∧ rxLanes t k = ((List.range 10).filter (fun l => !laneFailed s false k l && !excluded s k l)).take 8
          ∧ rdf t .oplPStat k 28 25 = (txLanes t k).length ∧ rdf t .oplPStat k 24 21 = (rxLanes t k).length
          ∧ onlyRegs s t [(.oplPStat, k), (.oplPTxmap, k), (.oplPRxmap, k), (.oplSticky, 0)]))
  ∧ (∀ s : State, ∃ t, exec .lightLLoss s = .next t ∧ t.lightL = false ∧ rd t .fltLast 0 = lastWord cLightLoss scDevice 0
      ∧ (∀ p < 2, portState t p = 0 ∧ rdf t .oplPStat p 15 8 = 0xFF ∧ (portAt t p).unacked = [])
      ∧ (oplOn s = true → aliveMask t = 2 ^ selfId s ∧ rdf t .oplStat 0 31 30 = 1) ∧ t.insts = s.insts)
  ∧ (∀ s : State, ∃ t, exec .lightLReturn s = .next t
      ∧ (∀ p < 2, portState t p = if oplOn s = true ∧ portState s p = 0 then 1 else portState s p)
      ∧ { t with regs := s.regs, lightL := s.lightL } = s ∧ t.lightL = true ∧ regsKept s t [(.oplPStat, 0), (.oplPStat, 1)])
  ∧ ∀ s : State,
      let enters := oplOn s = true ∧ inSlip s = false ∧ 16 ≤ s.slipRun
      (¬ enters → exec .slipEntry s = .next s)
      ∧ (enters → ∃ t, exec .slipEntry s = .next t ∧ inSlip t = true ∧ rdb t .oplSticky 0 4 = true
          ∧ wasRaised s t cRegattaSlip scDevice 0 ∧ reported s t [(.oplStat, 0), (.oplSticky, 0)])
      ∧ (inSlip s = false ∨ s.okRun < 64 → exec .slipExit s = .next s)
      ∧ (inSlip s = true → 64 ≤ s.okRun →
        ∃ t, exec .slipExit s = .next t ∧ inSlip t = false ∧ onlyRegs s t [(.oplStat, 0)])

/-! ## Changeover and re-admission -/

/-- A changeover from its request by the pin through verification, comparison, staging and its switch edges to its commit, its
timeout and its rollback; and the end of a re-admission, after which every instance of the fenced sculls has a mask of live
sculls or is unplaced. -/
def Obligations.ChangeoverAndReadmission : Prop :=
  (∀ s : State,
      (s.run = false → ∃ t, exec .chgReqPin s = .next t ∧ rdb t .pwrSticky 0 4 = true ∧ onlyRegs s t [(.pwrSticky, 0)])
      ∧ (s.run = true → rdb s .chgCfg 0 0 = false ∨ s.chg.active = true ∨ coxHalted s = true →
        ∃ t, exec .chgReqPin s = .next t ∧ rdb t .chgSticky 0 0 = true ∧ onlyRegs s t [(.chgSticky, 0)])
      ∧ (s.run = true → rdb s .chgCfg 0 0 = true → s.chg.active = false → coxHalted s = false →
        ∃ t, exec .chgReqPin s = .next t ∧ t.chg.active = true ∧ t.chg.slot = 1 - slotInForce s ∧ t.chg.checkOnly = false
          ∧ t.chg.mailbox = none ∧ t.chg.since = s.now ∧ t.chg.staged = false ∧ chgPhase t = 1
          ∧ rdf t .chgStat 0 28 28 = 1 - slotInForce s ∧ onlyRegs s { t with chg := s.chg } [(.chgStat, 0), (.chgBound, 0)]))
  ∧ (∀ s : State, coxHalted s = false → s.chg.active = true →
      s.long = none ∨ (∃ l, s.long = some l ∧ l.service = svChgStart) →
      (∀ f ok, chgPhase s = 1 → verifyTarget s = .inl f → f.code < 65536 →
        ∃ t, exec (.longServiceComplete ok) s = .next t ∧ t.chg.active = false ∧ chgPhase t = 0
          ∧ rdf t .chgStat 0 15 0 = f.code ∧ t.img = s.img ∧ t.insts = s.insts ∧ t.targetKey = none
          ∧ (f.code = cChgCox → rd t .fltLast 0 = lastWord cChgCox scChangeover s.chg.slot)
          ∧ (f.code ≠ cChgCox → rd t .imgFail s.chg.slot = failWord f
              ∧ rd t .fltLast 0 = lastWord f.code scSlot s.chg.slot))
      ∧ (∀ ok, chgPhase s = 1 → ∃ t, exec (.longServiceComplete ok) s = .next t ∧ ∀ g, verifyTarget s = .inr g →
          chgPhase t = 2 ∧ t.chg = { s.chg with target := some g } ∧ t.targetKey = contentKeyOf (kekOf s) g
          ∧ onlyRegs s { t with chg := s.chg, targetKey := s.targetKey } [(.chgStat, 0)])
      ∧ (∀ g c ok, chgPhase s = 2 → s.chg.target = some g → crossRefusal s g = some c →
        ∃ t, exec (.longServiceComplete ok) s = .next t ∧ t.chg.active = false ∧ chgPhase t = 0
          ∧ rdf t .chgStat 0 15 0 = c ∧ rd t .fltLast 0 = lastWord c scChangeover s.chg.slot
          ∧ t.img = s.img ∧ t.insts = s.insts)
      ∧ (∀ g ok, chgPhase s = 2 → s.chg.target = some g → crossRefusal s g = none → s.chg.checkOnly = true →
        ∃ t, exec (.longServiceComplete ok) s = .next t ∧ t.chg.active = false ∧ chgPhase t = 0
          ∧ t.img = s.img ∧ t.insts = s.insts ∧ rd t .fltLast 0 = rd s .fltLast 0)
      ∧ (∀ g ok, chgPhase s = 2 → s.chg.target = some g → crossRefusal s g = none → s.chg.checkOnly = false →
        ∃ t, exec (.longServiceComplete ok) s = .next t ∧ chgPhase t = 3 ∧ t.chg.active = true
          ∧ t.chg.groups.map (·.insts) = chgGroups s g ∧ t.chg.old = s.img
          ∧ t.chg.bound = chgBoundNs s g (chgGroups s g).length
          ∧ t.long = s.long.map (fun l => { l with since := s.chg.since, bound := t.chg.bound })
          ∧ onlyRegs s { t with chg := s.chg, long := s.long } [(.chgStat, 0), (.chgBound, 0)]))
  ∧ (∀ s : State,
      (s.chg.active = false ∨ chgPhase s ≠ 3 → exec .changeoverStaged s = .next s)
      ∧ (∀ g, s.chg.active = true → chgPhase s = 3 → s.chg.target = some g → s.phase ≠ .recovery →
        ∃ t, exec .changeoverStaged s = .next t ∧ t.chg.staged = true ∧ chgPhase t = 4
          ∧ t.chg.firstEdge = strokeNat s + 1
          ∧ (∀ (i : Nat) (grp : Group), s.chg.groups[i]? = some grp → t.chg.groups[i]? = some { grp with edge := strokeNat s + 1 + i })
          ∧ t.img = s.img ∧ t.insts = s.insts ∧ t.ctxs = s.ctxs ∧ regsKept s t [(.chgStat, 0)]))
  ∧ (∀ (n : Fin 256) (s : State),
      s.chg.active = false ∨ s.chg.staged = false ∨ s.chg.paused = true ∨ s.chg.rollbackAt ≠ none
        ∨ (s.phase ≠ .catch_ ∧ ∃ grp, s.chg.groups[n.val]? = some grp ∧ reflexGroup s grp = false) ∨ s.chg.groups[n.val]? = none ∨ (∃ grp, s.chg.groups[n.val]? = some grp ∧ (grp.switched = true ∨ strokeNat s < grp.edge)) →
      exec (.groupSwitch n) s = .next s)
  ∧ (∀ (n : Fin 256) (s : State) (grp : Group) (g o : Image), s.chg.active = true → s.chg.staged = true →
      s.chg.paused = false → s.chg.rollbackAt = none → s.phase = .catch_ ∨ reflexGroup s grp = true → s.chg.target = some g → s.chg.old = some o →
      s.chg.groups[n.val]? = some grp → grp.switched = false → grp.edge ≤ strokeNat s →
      (grp.prepared = true → grp.insts.Nodup → (∀ i ∈ grp.insts, (instAt s i).closing = none) →
        ∃ t, exec (.groupSwitch n) s = .next t
          ∧ (∀ i ∈ grp.insts, instAt t i = { instAt s i with epoch := ((instAt s i).epoch + 1) % 256 }
              ∧ rdb t .chgStatus (i / 32) (i % 32) = true)
          ∧ (∀ i, i ∉ grp.insts → instAt t i = instAt s i)
          ∧ (∃ h, t.chg.groups[n.val]? = some h ∧ h.switched = true ∧ h.insts = grp.insts)
          ∧ rdf t .chgStat 0 24 16 = (s.chg.groups.countP (·.switched) + 1) % 512
          ∧ ((∀ (m : Nat) (h : Group), m ≠ n.val → s.chg.groups[m]? = some h → h.switched = true) → chgPhase t = 5)
          ∧ t.mem = s.mem ∧ t.img = s.img ∧ t.ctxs = s.ctxs ∧ t.sculls = s.sculls)
      ∧ (grp.prepared = false → groupIdle s grp = true →
        ∃ t, exec (.groupSwitch n) s = .next t ∧ ∃ h, t.chg.groups[n.val]? = some h ∧ h.switched = true ∧ h.insts = grp.insts)
      ∧ (grp.prepared = false → groupIdle s grp = false → exec (.groupSwitch n) s = .next s))
  ∧ (∀ s : State,
      (s.chg.active = false ∨ s.chg.staged = false ∨ s.chg.rollbackAt ≠ none ∨ allSwitched s = false ∨ retuneDone s = false →
        exec .changeoverCommit s = .next s)
      ∧ (∀ g, s.chg.target = some g → s.chg.active = true → s.chg.staged = true → s.chg.rollbackAt = none →
          allSwitched s = true → retuneDone s = true → coxHalted s = false →
        ∃ t, exec .changeoverCommit s = .next t ∧ t.chg.active = false ∧ chgPhase t = 0 ∧ t.img = some g
          ∧ slotInForce t = g.slot % 2 ∧ rd t .imgBuild 0 = BitVec.ofNat 32 g.buildId
          ∧ t.contentKey = s.targetKey ∧ t.targetKey = none ∧ (∀ i < 8, rd t .chgStatus i = 0) ∧ t.insts = s.insts))
  ∧ (∀ s : State,
      let late := s.chg.active = true ∧ s.chg.paused = false ∧ s.chg.rollbackAt = none
        ∧ s.chg.since + s.chg.bound + s.chg.pausedNs < s.now
      (¬ late → exec .changeoverTimeout s = .next s)
      ∧ (late → s.chg.staged = true → (∀ grp ∈ s.chg.groups, ∀ i ∈ grp.insts, (instAt s i).closing = none) →
        ∃ t, exec .changeoverTimeout s = .next t ∧ t.chg = { s.chg with cause := cChgTimeout, rollbackAt := some (strokeNat s + 2) }
          ∧ chgPhase t = 6 ∧ wasRaised s t cChgTimeout scChangeover s.chg.slot
          ∧ reported s { t with chg := s.chg } [(.chgStat, 0)])
      ∧ (late → s.chg.staged = false →
        ∃ t, exec .changeoverTimeout s = .next t ∧ t.chg.active = false ∧ chgPhase t = 0
          ∧ rdf t .chgStat 0 15 0 = cChgTimeout ∧ rdb t .chgSticky 0 2 = true ∧ t.img = s.img ∧ t.insts = s.insts))
  ∧ (∀ (r : Nat) (o g : Image) (s : State), s.chg.rollbackAt = some r → s.chg.old = some o → s.chg.target = some g →
      (s.chg.active = false ∨ s.phase ≠ .catch_ ∨ strokeNat s < r → exec .changeoverRollback s = .next s)
      ∧ (s.chg.active = true → s.phase = .catch_ → r ≤ strokeNat s →
          (∀ grp ∈ s.chg.groups, grp.prepared = false ∧ grp.switched = false) →
        ∃ t, exec .changeoverRollback s = .next t ∧ t.chg.active = false ∧ chgPhase t = 0
          ∧ rdf t .chgStat 0 15 0 = s.chg.cause % 65536 ∧ rdb t .chgSticky 0 2 = true ∧ t.img = s.img ∧ t.insts = s.insts)
      ∧ (∀ grp, s.chg.active = true → s.phase = .catch_ → r ≤ strokeNat s → s.chg.groups = [grp] → grp.prepared = true →
          grp.switched = true → grp.insts.Nodup → (∀ i ∈ grp.insts, (instAt s i).running = none) →
        ∃ t, exec .changeoverRollback s = .next t ∧ t.chg.active = false ∧ chgPhase t = 0
          ∧ rdf t .chgStat 0 15 0 = s.chg.cause % 65536 ∧ rdb t .chgSticky 0 2 = true
          ∧ ∀ i ∈ grp.insts, (instAt t i).epoch = ((instAt s i).epoch + 255) % 256
              ∧ (instAt t i).staleLeft = Nat.max 1 (Nat.min 8191 (strokeNat s - backStroke s grp i))))
  ∧ (∀ s : State, s.readmit = none ∨ s.run = false ∨ coxHalted s = true → exec .readmissionComplete s = .next s)
  ∧ ∀ (s : State) (r : Readmission), s.readmit = some r → s.run = true → coxHalted s = false → (∀ i, (instAt s i).closing = none) →
      let hit (i : Nat) : Prop := i ∈ instances s ∧ (instAt s i).placed = true ∧ (instAt s i).mask &&& r.sculls ≠ 0
    ∃ t, exec .readmissionComplete s = .next t ∧ t.readmit = none
      ∧ (∀ i, hit i →
          ((instAt t i).placed = true ∧ (instAt t i).restoreDue = true
            ∧ ((instAt t i).mask, (instAt t i).alt) ∈ masksOf s i ∧ (instAt t i).mask &&& liveMask s = (instAt t i).mask)
          ∨ ((instAt t i).placed = false ∧ (instAt t i).fenced = true ∧ rdb t .fltUnplaced (i / 32) (i % 32) = true
            ∧ rdb t .fltSticky 0 3 = true))
      ∧ ∀ i, ¬ hit i → instAt t i = instAt s i
end

