-- ==== Sys2Proof/Laws/Bytes.lean ====
section
/-! SUPPORT. Bytes and numbers: what bytesOf, natOf, slice and field do to each other, and that a bundle as it is built is
one that is received whole (R528). -/

namespace Sys2Proof.Machine

@[simp] theorem length_bytesOf (n v : Nat) : (bytesOf n v).length = n := by
  induction n generalizing v with
  | zero => rfl
  | succ n ih => simp [bytesOf, ih]

@[simp] theorem length_slice (bs : List Byte) (o n : Nat) : (slice bs o n).length = n := by
  rw [slice, List.length_append, List.length_replicate, List.length_take, List.length_drop]
  omega

/-- A number of `n` bytes comes back as it was. -/
theorem natOf_bytesOf (n v : Nat) : natOf (bytesOf n v) = v % 256 ^ n := by
  induction n generalizing v with
  | zero => simp [bytesOf, natOf, Nat.mod_one]
  | succ n ih => simp [bytesOf, natOf, ih, Nat.pow_succ, Nat.mul_comm _ 256, Nat.mod_mul]

theorem slice_within (a b : List Byte) (o n : Nat) (h : o + n ≤ a.length) : slice (a ++ b) o n = slice a o n := by
  have e : n - (a.length - o) = 0 := by omega
  have e2 : o - a.length = 0 := by omega
  simp [slice, List.drop_append, List.take_append, e, e2]

theorem field_within (a b : List Byte) (o n : Nat) (h : o + n ≤ a.length) : field (a ++ b) o n = field a o n := by
  rw [field, field, slice_within a b o n h]

/-- The number that stands behind the first `o` bytes. -/
theorem field_at (a b : List Byte) (o n v : Nat) (h : a.length = o) : field (a ++ (bytesOf n v ++ b)) o n = v % 256 ^ n := by
  subst h
  have e : slice (a ++ (bytesOf n v ++ b)) a.length n = bytesOf n v := by simp [slice]
  rw [field, e, natOf_bytesOf]

theorem slice_self (b : List Byte) (n : Nat) (h : b.length = n) : slice b 0 n = b := by
  subst h; simp [slice]

theorem toNat_crc (l : List Byte) : (crc32 l).toNat % 256 ^ 4 = (crc32 l).toNat :=
  Nat.mod_eq_of_lt (by have := (crc32 l).isLt; omega)

/-- Blocks with their trailers are taken whole. -/
theorem takeBlocks_withTrailers (n : Nat) (b : List Byte) (h : b.length = 4096 * n) :
    takeBlocks n (withTrailers n b) = some b := by
  induction n generalizing b with
  | zero => simp [withTrailers, takeBlocks]; exact List.eq_nil_of_length_eq_zero (by omega)
  | succ n ih =>
    have hb : (b.drop 4096).length = 4096 * n := by simp; omega
    have hs : slice b 0 4096 = b.take 4096 := by
      have e : 4096 - Nat.min 4096 b.length = 0 := by
        have : Nat.min 4096 b.length = 4096 := Nat.min_eq_left (by omega)
        omega
      simp [slice, List.length_take]
      omega
    have hl : (b.take 4096).length = 4096 := by simp; omega
    have h1 : field (b.take 4096 ++ (bytesOf 4 (crc32 (b.take 4096)).toNat ++ (bytesOf 4 0 ++ withTrailers n (b.drop 4096)))) 4096 4
        = (crc32 (b.take 4096)).toNat := by rw [field_at _ _ _ _ _ hl, toNat_crc]
    have h2 : field (b.take 4096 ++ (bytesOf 4 (crc32 (b.take 4096)).toNat ++ (bytesOf 4 0 ++ withTrailers n (b.drop 4096)))) 4100 4 = 0 := by
      rw [← List.append_assoc]
      exact (field_at _ _ _ _ _ (by rw [List.length_append, hl, length_bytesOf])).trans (Nat.zero_mod _)
    simp only [withTrailers, takeBlocks, hs, List.append_assoc]
    have h3 : (b.take 4096 ++ (bytesOf 4 (crc32 (b.take 4096)).toNat ++ (bytesOf 4 0 ++ withTrailers n (b.drop 4096)))).take 4096
        = b.take 4096 := by
      rw [List.take_append_of_le_length (by omega), List.take_of_length_le (by omega)]
    have h4 : (b.take 4096 ++ (bytesOf 4 (crc32 (b.take 4096)).toNat ++ (bytesOf 4 0 ++ withTrailers n (b.drop 4096)))).drop 4104
        = withTrailers n (b.drop 4096) := by
      rw [← List.append_assoc, ← List.append_assoc]
      exact List.drop_left' (by simp only [List.length_append, length_bytesOf, hl])
    rw [h1, h2, h3, h4, ih _ hb]
    have h5 : 4104 ≤ (b.take 4096 ++ (bytesOf 4 (crc32 (b.take 4096)).toNat ++ (bytesOf 4 0 ++ withTrailers n (b.drop 4096)))).length := by
      simp only [List.length_append, length_bytesOf, hl]; omega
    simp only [decide_eq_true h5, beq_self_eq_true, Bool.and_self, ↓reduceIte, Option.map_some, List.take_append_drop]

/-- A bundle as it is built is received whole. -/
theorem bundleData_bundleBytes (chan src dst seq n : Nat) (o : Outgoing) (hn : 1 ≤ n) (hm : n ≤ 256)
    (h : o.bytes.length = 4096 * n) : bundleData (bundleBytes chan src dst seq o) = some o.bytes := by
  let x : List Byte := slice (bytesOf 1 chan ++ bytesOf 1 src ++ bytesOf 1 dst ++ bytesOf 1 o.epoch ++ bytesOf 4 seq ++ bytesOf 8 o.rs
    ++ bytesOf 8 o.due ++ bytesOf 4 o.bytes.length ++ bytesOf 4 o.part ++ bytesOf 1 o.slot) 0 0x3C
  have hx : x.length = 60 := length_slice _ _ _
  have e : bundleBytes chan src dst seq o = x ++ (bytesOf 4 (crc32 x).toNat ++ withTrailers n o.bytes) := by
    simp only [bundleBytes, h, Nat.mul_div_cancel_left n (show 0 < 4096 by omega), List.append_assoc, x]
  have hlen : field (bundleBytes chan src dst seq o) 0x18 4 = 4096 * n := by
    rw [e, field_within _ _ _ _ (by omega)]
    have : field x 0x18 4 = o.bytes.length % 256 ^ 4 := by
      let a : List Byte := bytesOf 1 chan ++ bytesOf 1 src ++ bytesOf 1 dst ++ bytesOf 1 o.epoch ++ bytesOf 4 seq ++ bytesOf 8 o.rs
        ++ bytesOf 8 o.due
      let c : List Byte := bytesOf 4 o.part ++ bytesOf 1 o.slot
      have ha : a.length = 24 := by simp [a]
      have xe : x = a ++ (bytesOf 4 o.bytes.length ++ (c ++ List.replicate 27 0)) := by
        simp [x, a, c, slice, List.take_of_length_le]
      rw [xe, field_at _ _ _ _ _ ha]
    rw [this, h]
    omega
  have hcrc : field (bundleBytes chan src dst seq o) 0x3C 4 = (crc32 x).toNat := by rw [e, field_at _ _ _ _ _ hx, toNat_crc]
  have ht : (bundleBytes chan src dst seq o).take 0x3C = x := by rw [e]; exact List.take_left' hx
  have hd : (bundleBytes chan src dst seq o).drop 64 = withTrailers n o.bytes := by
    rw [e, ← List.append_assoc]; exact List.drop_left' (by simp [hx])
  have hl : 64 ≤ (bundleBytes chan src dst seq o).length := by
    rw [e]; simp only [List.length_append, length_bytesOf, hx]; omega
  have h1 : 4096 * n % 4096 = 0 := Nat.mul_mod_right _ _
  have h2 : 4096 ≤ 4096 * n := by omega
  have h3 : 4096 * n ≤ 1048576 := by omega
  simp only [bundleData, hlen, hcrc, ht, hd, hl, h1, h2, h3, Nat.mul_div_cancel_left n (show 0 < 4096 by omega),
    takeBlocks_withTrailers n _ h, beq_self_eq_true, decide_true, Bool.and_self, ↓reduceIte]

end Sys2Proof.Machine
end

