-- ==== Sys2Proof/Laws/Table.lean ====
section
/-! SUPPORT. The laws of sparse tables: a read after a write, and that every operation keeps the canonical form. -/

namespace Sys2Proof.Machine.Tab

variable {κ α : Type} [DecidableEq κ]

theorem get_erase_self (d : κ → α) (k : κ) (t : List (κ × α)) : get d (erase k t) k = d k := by
  induction t with
  | nil => rfl
  | cons e t ih =>
    obtain ⟨k', v⟩ := e
    by_cases h : k' = k <;> simp [erase, get, h, ih]

theorem get_erase_of_ne (d : κ → α) {k j : κ} (hj : j ≠ k) (t : List (κ × α)) :
    get d (erase k t) j = get d t j := by
  induction t with
  | nil => rfl
  | cons e t ih =>
    obtain ⟨k', v⟩ := e
    by_cases h : k' = k
    · subst h; simp [erase, get, ih, Ne.symm hj]
    · simp [erase, get, h, ih]

theorem get_place_of_ne (d : κ → α) (ord : κ → Nat) {k j : κ} (hj : j ≠ k) (v : α) (t : List (κ × α)) :
    get d (place ord k v t) j = get d t j := by
  induction t with
  | nil => simp [place, get, Ne.symm hj]
  | cons e t ih =>
    obtain ⟨k', v'⟩ := e
    by_cases h : ord k' < ord k <;> simp [place, get, h, ih, Ne.symm hj]

theorem get_place_self (d : κ → α) (ord : κ → Nat) (k : κ) (v : α) (t : List (κ × α)) :
    get d (place ord k v (erase k t)) k = v := by
  induction t with
  | nil => simp [erase, place, get]
  | cons e t ih =>
    obtain ⟨k', v'⟩ := e
    by_cases h : k' = k
    · simp [erase, h, ih]
    · by_cases h2 : ord k' < ord k <;> simp [erase, place, get, h, h2, ih]

variable [DecidableEq α]

/-- A read after a write of the same key. -/
@[simp] theorem get_set_self (ord : κ → Nat) (d : κ → α) (k : κ) (v : α) (t : List (κ × α)) :
    get d (set ord d k v t) k = v := by
  unfold set
  split
  · rename_i h; rw [get_erase_self, h]
  · exact get_place_self d ord k v t

/-- A write leaves every other key alone. -/
theorem get_set_of_ne (ord : κ → Nat) (d : κ → α) {k j : κ} (hj : j ≠ k) (v : α) (t : List (κ × α)) :
    get d (set ord d k v t) j = get d t j := by
  unfold set
  split
  · exact get_erase_of_ne d hj t
  · rw [get_place_of_ne d ord hj, get_erase_of_ne d hj]

theorem get_set (ord : κ → Nat) (d : κ → α) (k j : κ) (v : α) (t : List (κ × α)) :
    get d (set ord d k v t) j = if j = k then v else get d t j := by
  split
  · rename_i h; subst h; simp
  · rename_i h; exact get_set_of_ne ord d h v t

/-! ## The canonical form -/

omit [DecidableEq κ] in
/-- The canonical form, said by membership. -/
theorem wf_iff (ord : κ → Nat) (d : κ → α) (t : List (κ × α)) :
    wf ord d t = true ↔ (∀ e ∈ t, e.2 ≠ d e.1) ∧ t.Pairwise (fun a b => ord a.1 < ord b.1) := by
  induction t with
  | nil => simp [wf]
  | cons e t ih =>
    cases t with
    | nil => simp [wf]
    | cons e' t =>
      obtain ⟨k, v⟩ := e
      obtain ⟨k', v'⟩ := e'
      simp only [wf, Bool.and_eq_true, decide_eq_true_eq, ih, List.forall_mem_cons, List.pairwise_cons]
      constructor
      · rintro ⟨⟨h1, h2⟩, ⟨h3, h4⟩, h5, h6⟩
        exact ⟨⟨h1, h3, h4⟩, ⟨h2, fun a ha => Nat.lt_trans h2 (h5 a ha)⟩, h5, h6⟩
      · rintro ⟨⟨h1, h3, h4⟩, ⟨h2, _⟩, h5, h6⟩
        exact ⟨⟨h1, h2⟩, ⟨h3, h4⟩, h5, h6⟩

omit [DecidableEq κ] in
theorem wf_filter (ord : κ → Nat) (d : κ → α) (p : κ × α → Bool) {t : List (κ × α)} (h : wf ord d t = true) :
    wf ord d (t.filter p) = true := by
  rw [wf_iff] at *
  exact ⟨fun e he => h.1 e (List.mem_of_mem_filter he), h.2.filter _⟩

omit [DecidableEq α] in
theorem erase_eq_filter (k : κ) (t : List (κ × α)) : erase k t = t.filter (fun e => !decide (e.1 = k)) := by
  induction t with
  | nil => rfl
  | cons e t ih => obtain ⟨k', v⟩ := e; by_cases h : k' = k <;> simp [erase, h, ih]

omit [DecidableEq κ] [DecidableEq α] in
theorem mem_place {ord : κ → Nat} {k : κ} {v : α} {t : List (κ × α)} {e : κ × α} (h : e ∈ place ord k v t) :
    e = (k, v) ∨ e ∈ t := by
  induction t with
  | nil => simpa [place] using h
  | cons e' t ih =>
    obtain ⟨k', v'⟩ := e'
    unfold place at h
    split at h
    · rcases List.mem_cons.mp h with h | h
      · right; simp [h]
      · rcases ih h with h | h
        · exact .inl h
        · exact .inr (List.mem_cons_of_mem _ h)
    · rcases List.mem_cons.mp h with h | h
      · exact .inl h
      · exact .inr h

omit [DecidableEq κ] in
theorem wf_place (ord : κ → Nat) (d : κ → α) {k : κ} {v : α} {t : List (κ × α)} (h : wf ord d t = true)
    (hv : v ≠ d k) (hk : ∀ e ∈ t, ord e.1 ≠ ord k) : wf ord d (place ord k v t) = true := by
  rw [wf_iff] at *
  refine ⟨fun e he => ?_, ?_⟩
  · rcases mem_place he with rfl | he
    · exact hv
    · exact h.1 e he
  · replace h := h.2
    induction t with
    | nil => simp [place]
    | cons e t ih =>
      obtain ⟨k', v'⟩ := e
      unfold place
      have hp := List.pairwise_cons.mp h
      split
      · rename_i hlt
        refine List.pairwise_cons.mpr ⟨fun a ha => ?_, ih (fun e he => hk e (List.mem_cons_of_mem _ he)) hp.2⟩
        rcases mem_place ha with rfl | ha
        · exact hlt
        · exact hp.1 a ha
      · rename_i hlt
        have h0 : ord k < ord k' := by
          have := hk (k', v') (List.mem_cons_self ..)
          simp only [] at this
          omega
        refine List.pairwise_cons.mpr ⟨fun a ha => ?_, h⟩
        rcases List.mem_cons.mp ha with rfl | ha
        · exact h0
        · exact Nat.lt_trans h0 (hp.1 a ha)

/-- A write keeps the canonical form. -/
theorem wf_set (ord : κ → Nat) (d : κ → α) (k : κ) (v : α) {t : List (κ × α)}
    (hinj : ∀ a b, ord a = ord b → a = b) (h : wf ord d t = true) : wf ord d (set ord d k v t) = true := by
  unfold set
  have he : wf ord d (erase k t) = true := by rw [erase_eq_filter]; exact wf_filter ord d _ h
  split
  · exact he
  · rename_i hv
    refine wf_place ord d he hv (fun e hm hc => ?_)
    rw [erase_eq_filter, List.mem_filter] at hm
    simp [hinj _ _ hc] at hm

/-! ## Runs of keys -/

theorem get_setMany (d : Nat → α) (vs : List α) (a x : Nat) (t : List (Nat × α)) :
    get d (setMany d a vs t) x =
      if h : a ≤ x ∧ x < a + vs.length then vs[x - a]'(by omega) else get d t x := by
  induction vs generalizing a t with
  | nil => simp only [setMany, List.length_nil]; rw [dif_neg (by omega)]
  | cons v vs ih =>
    simp only [setMany, ih, List.length_cons, get_set]
    by_cases h0 : x = a
    · subst h0; simp
    · by_cases h1 : a + 1 ≤ x ∧ x < a + 1 + vs.length
      · rw [dif_pos h1, dif_pos (by omega)]
        obtain ⟨m, rfl⟩ : ∃ m, x = a + 1 + m := ⟨x - (a + 1), by omega⟩
        have e1 : a + 1 + m - (a + 1) = m := by omega
        have e2 : a + 1 + m - a = m + 1 := by omega
        simp only [e1, e2, List.getElem_cons_succ]
      · rw [dif_neg h1, dif_neg (by omega), if_neg h0]

/-- Outside the keys written, a run of writes changes nothing. -/
theorem get_setMany_outside (d : Nat → α) (vs : List α) {a x : Nat} (t : List (Nat × α))
    (h : x < a ∨ a + vs.length ≤ x) : get d (setMany d a vs t) x = get d t x := by
  rw [get_setMany, dif_neg (by omega)]

theorem wf_setMany (d : Nat → α) (vs : List α) (a : Nat) {t : List (Nat × α)} (h : wf id d t = true) :
    wf id d (setMany d a vs t) = true := by
  induction vs generalizing a t with
  | nil => exact h
  | cons v vs ih => exact ih (a + 1) (wf_set id d a v (fun _ _ h => h) h)

omit [DecidableEq α] in
@[simp] theorem getMany_length (d : Nat → α) (t : List (Nat × α)) (k n : Nat) : (getMany d t k n).length = n := by
  induction n generalizing k with
  | zero => rfl
  | succ n ih => simp [getMany, ih]

theorem getMany_setMany_self (d : Nat → α) (vs : List α) (a : Nat) (t : List (Nat × α)) :
    getMany d (setMany d a vs t) a vs.length = vs := by
  apply List.ext_getElem (by simp)
  intro i h1 h2
  have key : ∀ (n b : Nat) (u : List (Nat × α)) (h : i < (getMany d u b n).length),
      (getMany d u b n)[i] = get d u (b + i) := by
    clear h1 h2
    induction i with
    | zero =>
      intro n b u h
      cases n with
      | zero => simp at h
      | succ n => simp [getMany]
    | succ i ih =>
      intro n b u h
      cases n with
      | zero => simp at h
      | succ n => simp only [getMany, List.getElem_cons_succ]; rw [ih]; congr 1; omega
  rw [key, get_setMany, dif_pos (by simp at h1; omega)]
  simp

end Sys2Proof.Machine.Tab
end

