-- ==== Sys2Proof/Laws/State.lean ====
section
/-! SUPPORT. What each named update of the state leaves alone: one lemma per field per update. -/

namespace Sys2Proof.Machine

@[simp] theorem wr_pending (s : State) (r : Reg) (i : Nat) (v : Word) : (wr s r i v).pending = s.pending := (rfl)
@[simp] theorem wr_now (s : State) (r : Reg) (i : Nat) (v : Word) : (wr s r i v).now = s.now := (rfl)
@[simp] theorem wr_free (s : State) (r : Reg) (i : Nat) (v : Word) : (wr s r i v).free = s.free := (rfl)
@[simp] theorem wr_rdData (s : State) (r : Reg) (i : Nat) (v : Word) : (wr s r i v).rdData = s.rdData := (rfl)
@[simp] theorem wr_mem (s : State) (r : Reg) (i : Nat) (v : Word) : (wr s r i v).mem = s.mem := (rfl)
@[simp] theorem wr_poisoned (s : State) (r : Reg) (i : Nat) (v : Word) : (wr s r i v).poisoned = s.poisoned := (rfl)
@[simp] theorem wr_everInRange (s : State) (r : Reg) (i : Nat) (v : Word) : (wr s r i v).everInRange = s.everInRange := (rfl)
@[simp] theorem wr_inReset (s : State) (r : Reg) (i : Nat) (v : Word) : (wr s r i v).inReset = s.inReset := (rfl)
@[simp] theorem wr_railReset (s : State) (r : Reg) (i : Nat) (v : Word) : (wr s r i v).railReset = s.railReset := (rfl)
@[simp] theorem wr_resetAt (s : State) (r : Reg) (i : Nat) (v : Word) : (wr s r i v).resetAt = s.resetAt := (rfl)
@[simp] theorem wr_stageAt (s : State) (r : Reg) (i : Nat) (v : Word) : (wr s r i v).stageAt = s.stageAt := (rfl)
@[simp] theorem wr_bootSlot (s : State) (r : Reg) (i : Nat) (v : Word) : (wr s r i v).bootSlot = s.bootSlot := (rfl)
@[simp] theorem wr_stuck (s : State) (r : Reg) (i : Nat) (v : Word) : (wr s r i v).stuck = s.stuck := (rfl)
@[simp] theorem wr_linksUp (s : State) (r : Reg) (i : Nat) (v : Word) : (wr s r i v).linksUp = s.linksUp := (rfl)
@[simp] theorem wr_driven (s : State) (r : Reg) (i : Nat) (v : Word) : (wr s r i v).driven = s.driven := (rfl)
@[simp] theorem wr_imgShown (s : State) (r : Reg) (i : Nat) (v : Word) : (wr s r i v).imgShown = s.imgShown := (rfl)
@[simp] theorem wr_run (s : State) (r : Reg) (i : Nat) (v : Word) : (wr s r i v).run = s.run := (rfl)
@[simp] theorem wr_firstFinish (s : State) (r : Reg) (i : Nat) (v : Word) : (wr s r i v).firstFinish = s.firstFinish := (rfl)
@[simp] theorem wr_hbmTrained (s : State) (r : Reg) (i : Nat) (v : Word) : (wr s r i v).hbmTrained = s.hbmTrained := (rfl)
@[simp] theorem wr_debugHold (s : State) (r : Reg) (i : Nat) (v : Word) : (wr s r i v).debugHold = s.debugHold := (rfl)
@[simp] theorem wr_avsFails (s : State) (r : Reg) (i : Nat) (v : Word) : (wr s r i v).avsFails = s.avsFails := (rfl)
@[simp] theorem wr_avsDead (s : State) (r : Reg) (i : Nat) (v : Word) : (wr s r i v).avsDead = s.avsDead := (rfl)
@[simp] theorem wr_vddMv (s : State) (r : Reg) (i : Nat) (v : Word) : (wr s r i v).vddMv = s.vddMv := (rfl)
@[simp] theorem wr_avsChange (s : State) (r : Reg) (i : Nat) (v : Word) : (wr s r i v).avsChange = s.avsChange := (rfl)
@[simp] theorem wr_avsRaise (s : State) (r : Reg) (i : Nat) (v : Word) : (wr s r i v).avsRaise = s.avsRaise := (rfl)
@[simp] theorem wr_sternMhz (s : State) (r : Reg) (i : Nat) (v : Word) : (wr s r i v).sternMhz = s.sternMhz := (rfl)
@[simp] theorem wr_fuses (s : State) (r : Reg) (i : Nat) (v : Word) : (wr s r i v).fuses = s.fuses := (rfl)
@[simp] theorem wr_flash (s : State) (r : Reg) (i : Nat) (v : Word) : (wr s r i v).flash = s.flash := (rfl)
@[simp] theorem wr_img (s : State) (r : Reg) (i : Nat) (v : Word) : (wr s r i v).img = s.img := (rfl)
@[simp] theorem wr_contentKey (s : State) (r : Reg) (i : Nat) (v : Word) : (wr s r i v).contentKey = s.contentKey := (rfl)
@[simp] theorem wr_targetKey (s : State) (r : Reg) (i : Nat) (v : Word) : (wr s r i v).targetKey = s.targetKey := (rfl)
@[simp] theorem wr_admitted (s : State) (r : Reg) (i : Nat) (v : Word) : (wr s r i v).admitted = s.admitted := (rfl)
@[simp] theorem wr_lightX (s : State) (r : Reg) (i : Nat) (v : Word) : (wr s r i v).lightX = s.lightX := (rfl)
@[simp] theorem wr_lightL (s : State) (r : Reg) (i : Nat) (v : Word) : (wr s r i v).lightL = s.lightL := (rfl)
@[simp] theorem wr_uart (s : State) (r : Reg) (i : Nat) (v : Word) : (wr s r i v).uart = s.uart := (rfl)
@[simp] theorem wr_uartTx (s : State) (r : Reg) (i : Nat) (v : Word) : (wr s r i v).uartTx = s.uartTx := (rfl)
@[simp] theorem wr_timerOn (s : State) (r : Reg) (i : Nat) (v : Word) : (wr s r i v).timerOn = s.timerOn := (rfl)
@[simp] theorem wr_refLost (s : State) (r : Reg) (i : Nat) (v : Word) : (wr s r i v).refLost = s.refLost := (rfl)
@[simp] theorem wr_lossNs (s : State) (r : Reg) (i : Nat) (v : Word) : (wr s r i v).lossNs = s.lossNs := (rfl)
@[simp] theorem wr_floorAt (s : State) (r : Reg) (i : Nat) (v : Word) : (wr s r i v).floorAt = s.floorAt := (rfl)
@[simp] theorem wr_rdEp (s : State) (r : Reg) (i : Nat) (v : Word) : (wr s r i v).rdEp = s.rdEp := (rfl)
@[simp] theorem wr_strokeNo (s : State) (r : Reg) (i : Nat) (v : Word) : (wr s r i v).strokeNo = s.strokeNo := (rfl)
@[simp] theorem wr_catchAt (s : State) (r : Reg) (i : Nat) (v : Word) : (wr s r i v).catchAt = s.catchAt := (rfl)
@[simp] theorem wr_lockNs (s : State) (r : Reg) (i : Nat) (v : Word) : (wr s r i v).lockNs = s.lockNs := (rfl)
@[simp] theorem wr_edges (s : State) (r : Reg) (i : Nat) (v : Word) : (wr s r i v).edges = s.edges := (rfl)
@[simp] theorem wr_edgeAt (s : State) (r : Reg) (i : Nat) (v : Word) : (wr s r i v).edgeAt = s.edgeAt := (rfl)
@[simp] theorem wr_phase (s : State) (r : Reg) (i : Nat) (v : Word) : (wr s r i v).phase = s.phase := (rfl)
@[simp] theorem wr_syncOut (s : State) (r : Reg) (i : Nat) (v : Word) : (wr s r i v).syncOut = s.syncOut := (rfl)
@[simp] theorem wr_acqRun (s : State) (r : Reg) (i : Nat) (v : Word) : (wr s r i v).acqRun = s.acqRun := (rfl)
@[simp] theorem wr_everLocked (s : State) (r : Reg) (i : Nat) (v : Word) : (wr s r i v).everLocked = s.everLocked := (rfl)
@[simp] theorem wr_earlyEdge (s : State) (r : Reg) (i : Nat) (v : Word) : (wr s r i v).earlyEdge = s.earlyEdge := (rfl)
@[simp] theorem wr_lateEdge (s : State) (r : Reg) (i : Nat) (v : Word) : (wr s r i v).lateEdge = s.lateEdge := (rfl)
@[simp] theorem wr_fsRun (s : State) (r : Reg) (i : Nat) (v : Word) : (wr s r i v).fsRun = s.fsRun := (rfl)
@[simp] theorem wr_fsLast (s : State) (r : Reg) (i : Nat) (v : Word) : (wr s r i v).fsLast = s.fsLast := (rfl)
@[simp] theorem wr_recovery (s : State) (r : Reg) (i : Nat) (v : Word) : (wr s r i v).recovery = s.recovery := (rfl)
@[simp] theorem wr_ckptWait (s : State) (r : Reg) (i : Nat) (v : Word) : (wr s r i v).ckptWait = s.ckptWait := (rfl)
@[simp] theorem wr_chans (s : State) (r : Reg) (i : Nat) (v : Word) : (wr s r i v).chans = s.chans := (rfl)
@[simp] theorem wr_staged (s : State) (r : Reg) (i : Nat) (v : Word) : (wr s r i v).staged = s.staged := (rfl)
@[simp] theorem wr_words (s : State) (r : Reg) (i : Nat) (v : Word) : (wr s r i v).words = s.words := (rfl)
@[simp] theorem wr_lateWords (s : State) (r : Reg) (i : Nat) (v : Word) : (wr s r i v).lateWords = s.lateWords := (rfl)
@[simp] theorem wr_mclkFlt (s : State) (r : Reg) (i : Nat) (v : Word) : (wr s r i v).mclkFlt = s.mclkFlt := (rfl)
@[simp] theorem wr_cal (s : State) (r : Reg) (i : Nat) (v : Word) : (wr s r i v).cal = s.cal := (rfl)
@[simp] theorem wr_calEnd (s : State) (r : Reg) (i : Nat) (v : Word) : (wr s r i v).calEnd = s.calEnd := (rfl)
@[simp] theorem wr_viepeLow (s : State) (r : Reg) (i : Nat) (v : Word) : (wr s r i v).viepeLow = s.viepeLow := (rfl)
@[simp] theorem wr_ofsLoaded (s : State) (r : Reg) (i : Nat) (v : Word) : (wr s r i v).ofsLoaded = s.ofsLoaded := (rfl)
@[simp] theorem wr_ofsPending (s : State) (r : Reg) (i : Nat) (v : Word) : (wr s r i v).ofsPending = s.ofsPending := (rfl)
@[simp] theorem wr_bridgeStroke (s : State) (r : Reg) (i : Nat) (v : Word) : (wr s r i v).bridgeStroke = s.bridgeStroke := (rfl)
@[simp] theorem wr_bridgeClean (s : State) (r : Reg) (i : Nat) (v : Word) : (wr s r i v).bridgeClean = s.bridgeClean := (rfl)
@[simp] theorem wr_links (s : State) (r : Reg) (i : Nat) (v : Word) : (wr s r i v).links = s.links := (rfl)
@[simp] theorem wr_claiming (s : State) (r : Reg) (i : Nat) (v : Word) : (wr s r i v).claiming = s.claiming := (rfl)
@[simp] theorem wr_lines (s : State) (r : Reg) (i : Nat) (v : Word) : (wr s r i v).lines = s.lines := (rfl)
@[simp] theorem wr_pinFaultN (s : State) (r : Reg) (i : Nat) (v : Word) : (wr s r i v).pinFaultN = s.pinFaultN := (rfl)
@[simp] theorem wr_mbox (s : State) (r : Reg) (i : Nat) (v : Word) : (wr s r i v).mbox = s.mbox := (rfl)
@[simp] theorem wr_taken (s : State) (r : Reg) (i : Nat) (v : Word) : (wr s r i v).taken = s.taken := (rfl)
@[simp] theorem wr_long (s : State) (r : Reg) (i : Nat) (v : Word) : (wr s r i v).long = s.long := (rfl)
@[simp] theorem wr_notices (s : State) (r : Reg) (i : Nat) (v : Word) : (wr s r i v).notices = s.notices := (rfl)
@[simp] theorem wr_challenge (s : State) (r : Reg) (i : Nat) (v : Word) : (wr s r i v).challenge = s.challenge := (rfl)
@[simp] theorem wr_authFails (s : State) (r : Reg) (i : Nat) (v : Word) : (wr s r i v).authFails = s.authFails := (rfl)
@[simp] theorem wr_hostRing (s : State) (r : Reg) (i : Nat) (v : Word) : (wr s r i v).hostRing = s.hostRing := (rfl)
@[simp] theorem wr_debugAt (s : State) (r : Reg) (i : Nat) (v : Word) : (wr s r i v).debugAt = s.debugAt := (rfl)
@[simp] theorem wr_debugDue (s : State) (r : Reg) (i : Nat) (v : Word) : (wr s r i v).debugDue = s.debugDue := (rfl)
@[simp] theorem wr_aliveAt (s : State) (r : Reg) (i : Nat) (v : Word) : (wr s r i v).aliveAt = s.aliveAt := (rfl)
@[simp] theorem wr_sternFaults (s : State) (r : Reg) (i : Nat) (v : Word) : (wr s r i v).sternFaults = s.sternFaults := (rfl)
@[simp] theorem wr_sternRestart (s : State) (r : Reg) (i : Nat) (v : Word) : (wr s r i v).sternRestart = s.sternRestart := (rfl)
@[simp] theorem wr_restarts (s : State) (r : Reg) (i : Nat) (v : Word) : (wr s r i v).restarts = s.restarts := (rfl)
@[simp] theorem wr_ctxs (s : State) (r : Reg) (i : Nat) (v : Word) : (wr s r i v).ctxs = s.ctxs := (rfl)
@[simp] theorem wr_sculls (s : State) (r : Reg) (i : Nat) (v : Word) : (wr s r i v).sculls = s.sculls := (rfl)
@[simp] theorem wr_allot (s : State) (r : Reg) (i : Nat) (v : Word) : (wr s r i v).allot = s.allot := (rfl)
@[simp] theorem wr_ceTimes (s : State) (r : Reg) (i : Nat) (v : Word) : (wr s r i v).ceTimes = s.ceTimes := (rfl)
@[simp] theorem wr_insts (s : State) (r : Reg) (i : Nat) (v : Word) : (wr s r i v).insts = s.insts := (rfl)
@[simp] theorem wr_readmit (s : State) (r : Reg) (i : Nat) (v : Word) : (wr s r i v).readmit = s.readmit := (rfl)
@[simp] theorem wr_banks (s : State) (r : Reg) (i : Nat) (v : Word) : (wr s r i v).banks = s.banks := (rfl)
@[simp] theorem wr_ports (s : State) (r : Reg) (i : Nat) (v : Word) : (wr s r i v).ports = s.ports := (rfl)
@[simp] theorem wr_rchans (s : State) (r : Reg) (i : Nat) (v : Word) : (wr s r i v).rchans = s.rchans := (rfl)
@[simp] theorem wr_heard (s : State) (r : Reg) (i : Nat) (v : Word) : (wr s r i v).heard = s.heard := (rfl)
@[simp] theorem wr_heardPrev (s : State) (r : Reg) (i : Nat) (v : Word) : (wr s r i v).heardPrev = s.heardPrev := (rfl)
@[simp] theorem wr_misses (s : State) (r : Reg) (i : Nat) (v : Word) : (wr s r i v).misses = s.misses := (rfl)
@[simp] theorem wr_aliveFor (s : State) (r : Reg) (i : Nat) (v : Word) : (wr s r i v).aliveFor = s.aliveFor := (rfl)
@[simp] theorem wr_slipRun (s : State) (r : Reg) (i : Nat) (v : Word) : (wr s r i v).slipRun = s.slipRun := (rfl)
@[simp] theorem wr_okRun (s : State) (r : Reg) (i : Nat) (v : Word) : (wr s r i v).okRun = s.okRun := (rfl)
@[simp] theorem wr_rsOfs (s : State) (r : Reg) (i : Nat) (v : Word) : (wr s r i v).rsOfs = s.rsOfs := (rfl)
@[simp] theorem wr_mirrors (s : State) (r : Reg) (i : Nat) (v : Word) : (wr s r i v).mirrors = s.mirrors := (rfl)
@[simp] theorem wr_chg (s : State) (r : Reg) (i : Nat) (v : Word) : (wr s r i v).chg = s.chg := (rfl)
@[simp] theorem wr_staging (s : State) (r : Reg) (i : Nat) (v : Word) : (wr s r i v).staging = s.staging := (rfl)
@[simp] theorem wr_msixTable (s : State) (r : Reg) (i : Nat) (v : Word) : (wr s r i v).msixTable = s.msixTable := (rfl)
@[simp] theorem wr_pba (s : State) (r : Reg) (i : Nat) (v : Word) : (wr s r i v).pba = s.pba := (rfl)
@[simp] theorem wr_msgAt (s : State) (r : Reg) (i : Nat) (v : Word) : (wr s r i v).msgAt = s.msgAt := (rfl)
@[simp] theorem wr_msgWaiting (s : State) (r : Reg) (i : Nat) (v : Word) : (wr s r i v).msgWaiting = s.msgWaiting := (rfl)
@[simp] theorem wr_sentCount (s : State) (r : Reg) (i : Nat) (v : Word) : (wr s r i v).sentCount = s.sentCount := (rfl)
@[simp] theorem wr_ringSeq (s : State) (r : Reg) (i : Nat) (v : Word) : (wr s r i v).ringSeq = s.ringSeq := (rfl)
@[simp] theorem wr_ringSince (s : State) (r : Reg) (i : Nat) (v : Word) : (wr s r i v).ringSince = s.ringSince := (rfl)
@[simp] theorem wr_winOpen (s : State) (r : Reg) (i : Nat) (v : Word) : (wr s r i v).winOpen = s.winOpen := (rfl)
@[simp] theorem wr_winCount (s : State) (r : Reg) (i : Nat) (v : Word) : (wr s r i v).winCount = s.winCount := (rfl)
@[simp] theorem wr_perst (s : State) (r : Reg) (i : Nat) (v : Word) : (wr s r i v).perst = s.perst := (rfl)
@[simp] theorem wr_jtagIr (s : State) (r : Reg) (i : Nat) (v : Word) : (wr s r i v).jtagIr = s.jtagIr := (rfl)
@[simp] theorem wr_holding (s : State) (r : Reg) (i : Nat) (v : Word) : (wr s r i v).holding = s.holding := (rfl)

@[simp] theorem memWrite_pending (s : State) (a : Nat) (bs : List Byte) : (memWrite s a bs).pending = s.pending := (rfl)
@[simp] theorem memWrite_now (s : State) (a : Nat) (bs : List Byte) : (memWrite s a bs).now = s.now := (rfl)
@[simp] theorem memWrite_free (s : State) (a : Nat) (bs : List Byte) : (memWrite s a bs).free = s.free := (rfl)
@[simp] theorem memWrite_regs (s : State) (a : Nat) (bs : List Byte) : (memWrite s a bs).regs = s.regs := (rfl)
@[simp] theorem memWrite_rdData (s : State) (a : Nat) (bs : List Byte) : (memWrite s a bs).rdData = s.rdData := (rfl)
@[simp] theorem memWrite_everInRange (s : State) (a : Nat) (bs : List Byte) : (memWrite s a bs).everInRange = s.everInRange := (rfl)
@[simp] theorem memWrite_inReset (s : State) (a : Nat) (bs : List Byte) : (memWrite s a bs).inReset = s.inReset := (rfl)
@[simp] theorem memWrite_railReset (s : State) (a : Nat) (bs : List Byte) : (memWrite s a bs).railReset = s.railReset := (rfl)
@[simp] theorem memWrite_resetAt (s : State) (a : Nat) (bs : List Byte) : (memWrite s a bs).resetAt = s.resetAt := (rfl)
@[simp] theorem memWrite_stageAt (s : State) (a : Nat) (bs : List Byte) : (memWrite s a bs).stageAt = s.stageAt := (rfl)
@[simp] theorem memWrite_bootSlot (s : State) (a : Nat) (bs : List Byte) : (memWrite s a bs).bootSlot = s.bootSlot := (rfl)
@[simp] theorem memWrite_stuck (s : State) (a : Nat) (bs : List Byte) : (memWrite s a bs).stuck = s.stuck := (rfl)
@[simp] theorem memWrite_linksUp (s : State) (a : Nat) (bs : List Byte) : (memWrite s a bs).linksUp = s.linksUp := (rfl)
@[simp] theorem memWrite_driven (s : State) (a : Nat) (bs : List Byte) : (memWrite s a bs).driven = s.driven := (rfl)
@[simp] theorem memWrite_imgShown (s : State) (a : Nat) (bs : List Byte) : (memWrite s a bs).imgShown = s.imgShown := (rfl)
@[simp] theorem memWrite_run (s : State) (a : Nat) (bs : List Byte) : (memWrite s a bs).run = s.run := (rfl)
@[simp] theorem memWrite_firstFinish (s : State) (a : Nat) (bs : List Byte) : (memWrite s a bs).firstFinish = s.firstFinish := (rfl)
@[simp] theorem memWrite_hbmTrained (s : State) (a : Nat) (bs : List Byte) : (memWrite s a bs).hbmTrained = s.hbmTrained := (rfl)
@[simp] theorem memWrite_debugHold (s : State) (a : Nat) (bs : List Byte) : (memWrite s a bs).debugHold = s.debugHold := (rfl)
@[simp] theorem memWrite_avsFails (s : State) (a : Nat) (bs : List Byte) : (memWrite s a bs).avsFails = s.avsFails := (rfl)
@[simp] theorem memWrite_avsDead (s : State) (a : Nat) (bs : List Byte) : (memWrite s a bs).avsDead = s.avsDead := (rfl)
@[simp] theorem memWrite_vddMv (s : State) (a : Nat) (bs : List Byte) : (memWrite s a bs).vddMv = s.vddMv := (rfl)
@[simp] theorem memWrite_avsChange (s : State) (a : Nat) (bs : List Byte) : (memWrite s a bs).avsChange = s.avsChange := (rfl)
@[simp] theorem memWrite_avsRaise (s : State) (a : Nat) (bs : List Byte) : (memWrite s a bs).avsRaise = s.avsRaise := (rfl)
@[simp] theorem memWrite_sternMhz (s : State) (a : Nat) (bs : List Byte) : (memWrite s a bs).sternMhz = s.sternMhz := (rfl)
@[simp] theorem memWrite_fuses (s : State) (a : Nat) (bs : List Byte) : (memWrite s a bs).fuses = s.fuses := (rfl)
@[simp] theorem memWrite_flash (s : State) (a : Nat) (bs : List Byte) : (memWrite s a bs).flash = s.flash := (rfl)
@[simp] theorem memWrite_img (s : State) (a : Nat) (bs : List Byte) : (memWrite s a bs).img = s.img := (rfl)
@[simp] theorem memWrite_contentKey (s : State) (a : Nat) (bs : List Byte) : (memWrite s a bs).contentKey = s.contentKey := (rfl)
@[simp] theorem memWrite_targetKey (s : State) (a : Nat) (bs : List Byte) : (memWrite s a bs).targetKey = s.targetKey := (rfl)
@[simp] theorem memWrite_admitted (s : State) (a : Nat) (bs : List Byte) : (memWrite s a bs).admitted = s.admitted := (rfl)
@[simp] theorem memWrite_lightX (s : State) (a : Nat) (bs : List Byte) : (memWrite s a bs).lightX = s.lightX := (rfl)
@[simp] theorem memWrite_lightL (s : State) (a : Nat) (bs : List Byte) : (memWrite s a bs).lightL = s.lightL := (rfl)
@[simp] theorem memWrite_uart (s : State) (a : Nat) (bs : List Byte) : (memWrite s a bs).uart = s.uart := (rfl)
@[simp] theorem memWrite_uartTx (s : State) (a : Nat) (bs : List Byte) : (memWrite s a bs).uartTx = s.uartTx := (rfl)
@[simp] theorem memWrite_timerOn (s : State) (a : Nat) (bs : List Byte) : (memWrite s a bs).timerOn = s.timerOn := (rfl)
@[simp] theorem memWrite_refLost (s : State) (a : Nat) (bs : List Byte) : (memWrite s a bs).refLost = s.refLost := (rfl)
@[simp] theorem memWrite_lossNs (s : State) (a : Nat) (bs : List Byte) : (memWrite s a bs).lossNs = s.lossNs := (rfl)
@[simp] theorem memWrite_floorAt (s : State) (a : Nat) (bs : List Byte) : (memWrite s a bs).floorAt = s.floorAt := (rfl)
@[simp] theorem memWrite_rdEp (s : State) (a : Nat) (bs : List Byte) : (memWrite s a bs).rdEp = s.rdEp := (rfl)
@[simp] theorem memWrite_strokeNo (s : State) (a : Nat) (bs : List Byte) : (memWrite s a bs).strokeNo = s.strokeNo := (rfl)
@[simp] theorem memWrite_catchAt (s : State) (a : Nat) (bs : List Byte) : (memWrite s a bs).catchAt = s.catchAt := (rfl)
@[simp] theorem memWrite_lockNs (s : State) (a : Nat) (bs : List Byte) : (memWrite s a bs).lockNs = s.lockNs := (rfl)
@[simp] theorem memWrite_edges (s : State) (a : Nat) (bs : List Byte) : (memWrite s a bs).edges = s.edges := (rfl)
@[simp] theorem memWrite_edgeAt (s : State) (a : Nat) (bs : List Byte) : (memWrite s a bs).edgeAt = s.edgeAt := (rfl)
@[simp] theorem memWrite_phase (s : State) (a : Nat) (bs : List Byte) : (memWrite s a bs).phase = s.phase := (rfl)
@[simp] theorem memWrite_syncOut (s : State) (a : Nat) (bs : List Byte) : (memWrite s a bs).syncOut = s.syncOut := (rfl)
@[simp] theorem memWrite_acqRun (s : State) (a : Nat) (bs : List Byte) : (memWrite s a bs).acqRun = s.acqRun := (rfl)
@[simp] theorem memWrite_everLocked (s : State) (a : Nat) (bs : List Byte) : (memWrite s a bs).everLocked = s.everLocked := (rfl)
@[simp] theorem memWrite_earlyEdge (s : State) (a : Nat) (bs : List Byte) : (memWrite s a bs).earlyEdge = s.earlyEdge := (rfl)
@[simp] theorem memWrite_lateEdge (s : State) (a : Nat) (bs : List Byte) : (memWrite s a bs).lateEdge = s.lateEdge := (rfl)
@[simp] theorem memWrite_fsRun (s : State) (a : Nat) (bs : List Byte) : (memWrite s a bs).fsRun = s.fsRun := (rfl)
@[simp] theorem memWrite_fsLast (s : State) (a : Nat) (bs : List Byte) : (memWrite s a bs).fsLast = s.fsLast := (rfl)
@[simp] theorem memWrite_recovery (s : State) (a : Nat) (bs : List Byte) : (memWrite s a bs).recovery = s.recovery := (rfl)
@[simp] theorem memWrite_ckptWait (s : State) (a : Nat) (bs : List Byte) : (memWrite s a bs).ckptWait = s.ckptWait := (rfl)
@[simp] theorem memWrite_chans (s : State) (a : Nat) (bs : List Byte) : (memWrite s a bs).chans = s.chans := (rfl)
@[simp] theorem memWrite_staged (s : State) (a : Nat) (bs : List Byte) : (memWrite s a bs).staged = s.staged := (rfl)
@[simp] theorem memWrite_words (s : State) (a : Nat) (bs : List Byte) : (memWrite s a bs).words = s.words := (rfl)
@[simp] theorem memWrite_lateWords (s : State) (a : Nat) (bs : List Byte) : (memWrite s a bs).lateWords = s.lateWords := (rfl)
@[simp] theorem memWrite_mclkFlt (s : State) (a : Nat) (bs : List Byte) : (memWrite s a bs).mclkFlt = s.mclkFlt := (rfl)
@[simp] theorem memWrite_cal (s : State) (a : Nat) (bs : List Byte) : (memWrite s a bs).cal = s.cal := (rfl)
@[simp] theorem memWrite_calEnd (s : State) (a : Nat) (bs : List Byte) : (memWrite s a bs).calEnd = s.calEnd := (rfl)
@[simp] theorem memWrite_viepeLow (s : State) (a : Nat) (bs : List Byte) : (memWrite s a bs).viepeLow = s.viepeLow := (rfl)
@[simp] theorem memWrite_ofsLoaded (s : State) (a : Nat) (bs : List Byte) : (memWrite s a bs).ofsLoaded = s.ofsLoaded := (rfl)
@[simp] theorem memWrite_ofsPending (s : State) (a : Nat) (bs : List Byte) : (memWrite s a bs).ofsPending = s.ofsPending := (rfl)
@[simp] theorem memWrite_bridgeStroke (s : State) (a : Nat) (bs : List Byte) : (memWrite s a bs).bridgeStroke = s.bridgeStroke := (rfl)
@[simp] theorem memWrite_bridgeClean (s : State) (a : Nat) (bs : List Byte) : (memWrite s a bs).bridgeClean = s.bridgeClean := (rfl)
@[simp] theorem memWrite_links (s : State) (a : Nat) (bs : List Byte) : (memWrite s a bs).links = s.links := (rfl)
@[simp] theorem memWrite_claiming (s : State) (a : Nat) (bs : List Byte) : (memWrite s a bs).claiming = s.claiming := (rfl)
@[simp] theorem memWrite_lines (s : State) (a : Nat) (bs : List Byte) : (memWrite s a bs).lines = s.lines := (rfl)
@[simp] theorem memWrite_pinFaultN (s : State) (a : Nat) (bs : List Byte) : (memWrite s a bs).pinFaultN = s.pinFaultN := (rfl)
@[simp] theorem memWrite_mbox (s : State) (a : Nat) (bs : List Byte) : (memWrite s a bs).mbox = s.mbox := (rfl)
@[simp] theorem memWrite_taken (s : State) (a : Nat) (bs : List Byte) : (memWrite s a bs).taken = s.taken := (rfl)
@[simp] theorem memWrite_long (s : State) (a : Nat) (bs : List Byte) : (memWrite s a bs).long = s.long := (rfl)
@[simp] theorem memWrite_notices (s : State) (a : Nat) (bs : List Byte) : (memWrite s a bs).notices = s.notices := (rfl)
@[simp] theorem memWrite_challenge (s : State) (a : Nat) (bs : List Byte) : (memWrite s a bs).challenge = s.challenge := (rfl)
@[simp] theorem memWrite_authFails (s : State) (a : Nat) (bs : List Byte) : (memWrite s a bs).authFails = s.authFails := (rfl)
@[simp] theorem memWrite_hostRing (s : State) (a : Nat) (bs : List Byte) : (memWrite s a bs).hostRing = s.hostRing := (rfl)
@[simp] theorem memWrite_debugAt (s : State) (a : Nat) (bs : List Byte) : (memWrite s a bs).debugAt = s.debugAt := (rfl)
@[simp] theorem memWrite_debugDue (s : State) (a : Nat) (bs : List Byte) : (memWrite s a bs).debugDue = s.debugDue := (rfl)
@[simp] theorem memWrite_aliveAt (s : State) (a : Nat) (bs : List Byte) : (memWrite s a bs).aliveAt = s.aliveAt := (rfl)
@[simp] theorem memWrite_sternFaults (s : State) (a : Nat) (bs : List Byte) : (memWrite s a bs).sternFaults = s.sternFaults := (rfl)
@[simp] theorem memWrite_sternRestart (s : State) (a : Nat) (bs : List Byte) : (memWrite s a bs).sternRestart = s.sternRestart := (rfl)
@[simp] theorem memWrite_restarts (s : State) (a : Nat) (bs : List Byte) : (memWrite s a bs).restarts = s.restarts := (rfl)
@[simp] theorem memWrite_ctxs (s : State) (a : Nat) (bs : List Byte) : (memWrite s a bs).ctxs = s.ctxs := (rfl)
@[simp] theorem memWrite_sculls (s : State) (a : Nat) (bs : List Byte) : (memWrite s a bs).sculls = s.sculls := (rfl)
@[simp] theorem memWrite_allot (s : State) (a : Nat) (bs : List Byte) : (memWrite s a bs).allot = s.allot := (rfl)
@[simp] theorem memWrite_ceTimes (s : State) (a : Nat) (bs : List Byte) : (memWrite s a bs).ceTimes = s.ceTimes := (rfl)
@[simp] theorem memWrite_insts (s : State) (a : Nat) (bs : List Byte) : (memWrite s a bs).insts = s.insts := (rfl)
@[simp] theorem memWrite_readmit (s : State) (a : Nat) (bs : List Byte) : (memWrite s a bs).readmit = s.readmit := (rfl)
@[simp] theorem memWrite_banks (s : State) (a : Nat) (bs : List Byte) : (memWrite s a bs).banks = s.banks := (rfl)
@[simp] theorem memWrite_ports (s : State) (a : Nat) (bs : List Byte) : (memWrite s a bs).ports = s.ports := (rfl)
@[simp] theorem memWrite_rchans (s : State) (a : Nat) (bs : List Byte) : (memWrite s a bs).rchans = s.rchans := (rfl)
@[simp] theorem memWrite_heard (s : State) (a : Nat) (bs : List Byte) : (memWrite s a bs).heard = s.heard := (rfl)
@[simp] theorem memWrite_heardPrev (s : State) (a : Nat) (bs : List Byte) : (memWrite s a bs).heardPrev = s.heardPrev := (rfl)
@[simp] theorem memWrite_misses (s : State) (a : Nat) (bs : List Byte) : (memWrite s a bs).misses = s.misses := (rfl)
@[simp] theorem memWrite_aliveFor (s : State) (a : Nat) (bs : List Byte) : (memWrite s a bs).aliveFor = s.aliveFor := (rfl)
@[simp] theorem memWrite_slipRun (s : State) (a : Nat) (bs : List Byte) : (memWrite s a bs).slipRun = s.slipRun := (rfl)
@[simp] theorem memWrite_okRun (s : State) (a : Nat) (bs : List Byte) : (memWrite s a bs).okRun = s.okRun := (rfl)
@[simp] theorem memWrite_rsOfs (s : State) (a : Nat) (bs : List Byte) : (memWrite s a bs).rsOfs = s.rsOfs := (rfl)
@[simp] theorem memWrite_mirrors (s : State) (a : Nat) (bs : List Byte) : (memWrite s a bs).mirrors = s.mirrors := (rfl)
@[simp] theorem memWrite_chg (s : State) (a : Nat) (bs : List Byte) : (memWrite s a bs).chg = s.chg := (rfl)
@[simp] theorem memWrite_staging (s : State) (a : Nat) (bs : List Byte) : (memWrite s a bs).staging = s.staging := (rfl)
@[simp] theorem memWrite_msixTable (s : State) (a : Nat) (bs : List Byte) : (memWrite s a bs).msixTable = s.msixTable := (rfl)
@[simp] theorem memWrite_pba (s : State) (a : Nat) (bs : List Byte) : (memWrite s a bs).pba = s.pba := (rfl)
@[simp] theorem memWrite_msgAt (s : State) (a : Nat) (bs : List Byte) : (memWrite s a bs).msgAt = s.msgAt := (rfl)
@[simp] theorem memWrite_msgWaiting (s : State) (a : Nat) (bs : List Byte) : (memWrite s a bs).msgWaiting = s.msgWaiting := (rfl)
@[simp] theorem memWrite_sentCount (s : State) (a : Nat) (bs : List Byte) : (memWrite s a bs).sentCount = s.sentCount := (rfl)
@[simp] theorem memWrite_ringSeq (s : State) (a : Nat) (bs : List Byte) : (memWrite s a bs).ringSeq = s.ringSeq := (rfl)
@[simp] theorem memWrite_ringSince (s : State) (a : Nat) (bs : List Byte) : (memWrite s a bs).ringSince = s.ringSince := (rfl)
@[simp] theorem memWrite_winOpen (s : State) (a : Nat) (bs : List Byte) : (memWrite s a bs).winOpen = s.winOpen := (rfl)
@[simp] theorem memWrite_winCount (s : State) (a : Nat) (bs : List Byte) : (memWrite s a bs).winCount = s.winCount := (rfl)
@[simp] theorem memWrite_perst (s : State) (a : Nat) (bs : List Byte) : (memWrite s a bs).perst = s.perst := (rfl)
@[simp] theorem memWrite_jtagIr (s : State) (a : Nat) (bs : List Byte) : (memWrite s a bs).jtagIr = s.jtagIr := (rfl)
@[simp] theorem memWrite_holding (s : State) (a : Nat) (bs : List Byte) : (memWrite s a bs).holding = s.holding := (rfl)

@[simp] theorem memClear_pending (s : State) (a n : Nat) : (memClear s a n).pending = s.pending := (rfl)
@[simp] theorem memClear_now (s : State) (a n : Nat) : (memClear s a n).now = s.now := (rfl)
@[simp] theorem memClear_free (s : State) (a n : Nat) : (memClear s a n).free = s.free := (rfl)
@[simp] theorem memClear_regs (s : State) (a n : Nat) : (memClear s a n).regs = s.regs := (rfl)
@[simp] theorem memClear_rdData (s : State) (a n : Nat) : (memClear s a n).rdData = s.rdData := (rfl)
@[simp] theorem memClear_everInRange (s : State) (a n : Nat) : (memClear s a n).everInRange = s.everInRange := (rfl)
@[simp] theorem memClear_inReset (s : State) (a n : Nat) : (memClear s a n).inReset = s.inReset := (rfl)
@[simp] theorem memClear_railReset (s : State) (a n : Nat) : (memClear s a n).railReset = s.railReset := (rfl)
@[simp] theorem memClear_resetAt (s : State) (a n : Nat) : (memClear s a n).resetAt = s.resetAt := (rfl)
@[simp] theorem memClear_stageAt (s : State) (a n : Nat) : (memClear s a n).stageAt = s.stageAt := (rfl)
@[simp] theorem memClear_bootSlot (s : State) (a n : Nat) : (memClear s a n).bootSlot = s.bootSlot := (rfl)
@[simp] theorem memClear_stuck (s : State) (a n : Nat) : (memClear s a n).stuck = s.stuck := (rfl)
@[simp] theorem memClear_linksUp (s : State) (a n : Nat) : (memClear s a n).linksUp = s.linksUp := (rfl)
@[simp] theorem memClear_driven (s : State) (a n : Nat) : (memClear s a n).driven = s.driven := (rfl)
@[simp] theorem memClear_imgShown (s : State) (a n : Nat) : (memClear s a n).imgShown = s.imgShown := (rfl)
@[simp] theorem memClear_run (s : State) (a n : Nat) : (memClear s a n).run = s.run := (rfl)
@[simp] theorem memClear_firstFinish (s : State) (a n : Nat) : (memClear s a n).firstFinish = s.firstFinish := (rfl)
@[simp] theorem memClear_hbmTrained (s : State) (a n : Nat) : (memClear s a n).hbmTrained = s.hbmTrained := (rfl)
@[simp] theorem memClear_debugHold (s : State) (a n : Nat) : (memClear s a n).debugHold = s.debugHold := (rfl)
@[simp] theorem memClear_avsFails (s : State) (a n : Nat) : (memClear s a n).avsFails = s.avsFails := (rfl)
@[simp] theorem memClear_avsDead (s : State) (a n : Nat) : (memClear s a n).avsDead = s.avsDead := (rfl)
@[simp] theorem memClear_vddMv (s : State) (a n : Nat) : (memClear s a n).vddMv = s.vddMv := (rfl)
@[simp] theorem memClear_avsChange (s : State) (a n : Nat) : (memClear s a n).avsChange = s.avsChange := (rfl)
@[simp] theorem memClear_avsRaise (s : State) (a n : Nat) : (memClear s a n).avsRaise = s.avsRaise := (rfl)
@[simp] theorem memClear_sternMhz (s : State) (a n : Nat) : (memClear s a n).sternMhz = s.sternMhz := (rfl)
@[simp] theorem memClear_fuses (s : State) (a n : Nat) : (memClear s a n).fuses = s.fuses := (rfl)
@[simp] theorem memClear_flash (s : State) (a n : Nat) : (memClear s a n).flash = s.flash := (rfl)
@[simp] theorem memClear_img (s : State) (a n : Nat) : (memClear s a n).img = s.img := (rfl)
@[simp] theorem memClear_contentKey (s : State) (a n : Nat) : (memClear s a n).contentKey = s.contentKey := (rfl)
@[simp] theorem memClear_targetKey (s : State) (a n : Nat) : (memClear s a n).targetKey = s.targetKey := (rfl)
@[simp] theorem memClear_admitted (s : State) (a n : Nat) : (memClear s a n).admitted = s.admitted := (rfl)
@[simp] theorem memClear_lightX (s : State) (a n : Nat) : (memClear s a n).lightX = s.lightX := (rfl)
@[simp] theorem memClear_lightL (s : State) (a n : Nat) : (memClear s a n).lightL = s.lightL := (rfl)
@[simp] theorem memClear_uart (s : State) (a n : Nat) : (memClear s a n).uart = s.uart := (rfl)
@[simp] theorem memClear_uartTx (s : State) (a n : Nat) : (memClear s a n).uartTx = s.uartTx := (rfl)
@[simp] theorem memClear_timerOn (s : State) (a n : Nat) : (memClear s a n).timerOn = s.timerOn := (rfl)
@[simp] theorem memClear_refLost (s : State) (a n : Nat) : (memClear s a n).refLost = s.refLost := (rfl)
@[simp] theorem memClear_lossNs (s : State) (a n : Nat) : (memClear s a n).lossNs = s.lossNs := (rfl)
@[simp] theorem memClear_floorAt (s : State) (a n : Nat) : (memClear s a n).floorAt = s.floorAt := (rfl)
@[simp] theorem memClear_rdEp (s : State) (a n : Nat) : (memClear s a n).rdEp = s.rdEp := (rfl)
@[simp] theorem memClear_strokeNo (s : State) (a n : Nat) : (memClear s a n).strokeNo = s.strokeNo := (rfl)
@[simp] theorem memClear_catchAt (s : State) (a n : Nat) : (memClear s a n).catchAt = s.catchAt := (rfl)
@[simp] theorem memClear_lockNs (s : State) (a n : Nat) : (memClear s a n).lockNs = s.lockNs := (rfl)
@[simp] theorem memClear_edges (s : State) (a n : Nat) : (memClear s a n).edges = s.edges := (rfl)
@[simp] theorem memClear_edgeAt (s : State) (a n : Nat) : (memClear s a n).edgeAt = s.edgeAt := (rfl)
@[simp] theorem memClear_phase (s : State) (a n : Nat) : (memClear s a n).phase = s.phase := (rfl)
@[simp] theorem memClear_syncOut (s : State) (a n : Nat) : (memClear s a n).syncOut = s.syncOut := (rfl)
@[simp] theorem memClear_acqRun (s : State) (a n : Nat) : (memClear s a n).acqRun = s.acqRun := (rfl)
@[simp] theorem memClear_everLocked (s : State) (a n : Nat) : (memClear s a n).everLocked = s.everLocked := (rfl)
@[simp] theorem memClear_earlyEdge (s : State) (a n : Nat) : (memClear s a n).earlyEdge = s.earlyEdge := (rfl)
@[simp] theorem memClear_lateEdge (s : State) (a n : Nat) : (memClear s a n).lateEdge = s.lateEdge := (rfl)
@[simp] theorem memClear_fsRun (s : State) (a n : Nat) : (memClear s a n).fsRun = s.fsRun := (rfl)
@[simp] theorem memClear_fsLast (s : State) (a n : Nat) : (memClear s a n).fsLast = s.fsLast := (rfl)
@[simp] theorem memClear_recovery (s : State) (a n : Nat) : (memClear s a n).recovery = s.recovery := (rfl)
@[simp] theorem memClear_ckptWait (s : State) (a n : Nat) : (memClear s a n).ckptWait = s.ckptWait := (rfl)
@[simp] theorem memClear_chans (s : State) (a n : Nat) : (memClear s a n).chans = s.chans := (rfl)
@[simp] theorem memClear_staged (s : State) (a n : Nat) : (memClear s a n).staged = s.staged := (rfl)
@[simp] theorem memClear_words (s : State) (a n : Nat) : (memClear s a n).words = s.words := (rfl)
@[simp] theorem memClear_lateWords (s : State) (a n : Nat) : (memClear s a n).lateWords = s.lateWords := (rfl)
@[simp] theorem memClear_mclkFlt (s : State) (a n : Nat) : (memClear s a n).mclkFlt = s.mclkFlt := (rfl)
@[simp] theorem memClear_cal (s : State) (a n : Nat) : (memClear s a n).cal = s.cal := (rfl)
@[simp] theorem memClear_calEnd (s : State) (a n : Nat) : (memClear s a n).calEnd = s.calEnd := (rfl)
@[simp] theorem memClear_viepeLow (s : State) (a n : Nat) : (memClear s a n).viepeLow = s.viepeLow := (rfl)
@[simp] theorem memClear_ofsLoaded (s : State) (a n : Nat) : (memClear s a n).ofsLoaded = s.ofsLoaded := (rfl)
@[simp] theorem memClear_ofsPending (s : State) (a n : Nat) : (memClear s a n).ofsPending = s.ofsPending := (rfl)
@[simp] theorem memClear_bridgeStroke (s : State) (a n : Nat) : (memClear s a n).bridgeStroke = s.bridgeStroke := (rfl)
@[simp] theorem memClear_bridgeClean (s : State) (a n : Nat) : (memClear s a n).bridgeClean = s.bridgeClean := (rfl)
@[simp] theorem memClear_links (s : State) (a n : Nat) : (memClear s a n).links = s.links := (rfl)
@[simp] theorem memClear_claiming (s : State) (a n : Nat) : (memClear s a n).claiming = s.claiming := (rfl)
@[simp] theorem memClear_lines (s : State) (a n : Nat) : (memClear s a n).lines = s.lines := (rfl)
@[simp] theorem memClear_pinFaultN (s : State) (a n : Nat) : (memClear s a n).pinFaultN = s.pinFaultN := (rfl)
@[simp] theorem memClear_mbox (s : State) (a n : Nat) : (memClear s a n).mbox = s.mbox := (rfl)
@[simp] theorem memClear_taken (s : State) (a n : Nat) : (memClear s a n).taken = s.taken := (rfl)
@[simp] theorem memClear_long (s : State) (a n : Nat) : (memClear s a n).long = s.long := (rfl)
@[simp] theorem memClear_notices (s : State) (a n : Nat) : (memClear s a n).notices = s.notices := (rfl)
@[simp] theorem memClear_challenge (s : State) (a n : Nat) : (memClear s a n).challenge = s.challenge := (rfl)
@[simp] theorem memClear_authFails (s : State) (a n : Nat) : (memClear s a n).authFails = s.authFails := (rfl)
@[simp] theorem memClear_hostRing (s : State) (a n : Nat) : (memClear s a n).hostRing = s.hostRing := (rfl)
@[simp] theorem memClear_debugAt (s : State) (a n : Nat) : (memClear s a n).debugAt = s.debugAt := (rfl)
@[simp] theorem memClear_debugDue (s : State) (a n : Nat) : (memClear s a n).debugDue = s.debugDue := (rfl)
@[simp] theorem memClear_aliveAt (s : State) (a n : Nat) : (memClear s a n).aliveAt = s.aliveAt := (rfl)
@[simp] theorem memClear_sternFaults (s : State) (a n : Nat) : (memClear s a n).sternFaults = s.sternFaults := (rfl)
@[simp] theorem memClear_sternRestart (s : State) (a n : Nat) : (memClear s a n).sternRestart = s.sternRestart := (rfl)
@[simp] theorem memClear_restarts (s : State) (a n : Nat) : (memClear s a n).restarts = s.restarts := (rfl)
@[simp] theorem memClear_ctxs (s : State) (a n : Nat) : (memClear s a n).ctxs = s.ctxs := (rfl)
@[simp] theorem memClear_sculls (s : State) (a n : Nat) : (memClear s a n).sculls = s.sculls := (rfl)
@[simp] theorem memClear_allot (s : State) (a n : Nat) : (memClear s a n).allot = s.allot := (rfl)
@[simp] theorem memClear_ceTimes (s : State) (a n : Nat) : (memClear s a n).ceTimes = s.ceTimes := (rfl)
@[simp] theorem memClear_insts (s : State) (a n : Nat) : (memClear s a n).insts = s.insts := (rfl)
@[simp] theorem memClear_readmit (s : State) (a n : Nat) : (memClear s a n).readmit = s.readmit := (rfl)
@[simp] theorem memClear_banks (s : State) (a n : Nat) : (memClear s a n).banks = s.banks := (rfl)
@[simp] theorem memClear_ports (s : State) (a n : Nat) : (memClear s a n).ports = s.ports := (rfl)
@[simp] theorem memClear_rchans (s : State) (a n : Nat) : (memClear s a n).rchans = s.rchans := (rfl)
@[simp] theorem memClear_heard (s : State) (a n : Nat) : (memClear s a n).heard = s.heard := (rfl)
@[simp] theorem memClear_heardPrev (s : State) (a n : Nat) : (memClear s a n).heardPrev = s.heardPrev := (rfl)
@[simp] theorem memClear_misses (s : State) (a n : Nat) : (memClear s a n).misses = s.misses := (rfl)
@[simp] theorem memClear_aliveFor (s : State) (a n : Nat) : (memClear s a n).aliveFor = s.aliveFor := (rfl)
@[simp] theorem memClear_slipRun (s : State) (a n : Nat) : (memClear s a n).slipRun = s.slipRun := (rfl)
@[simp] theorem memClear_okRun (s : State) (a n : Nat) : (memClear s a n).okRun = s.okRun := (rfl)
@[simp] theorem memClear_rsOfs (s : State) (a n : Nat) : (memClear s a n).rsOfs = s.rsOfs := (rfl)
@[simp] theorem memClear_mirrors (s : State) (a n : Nat) : (memClear s a n).mirrors = s.mirrors := (rfl)
@[simp] theorem memClear_chg (s : State) (a n : Nat) : (memClear s a n).chg = s.chg := (rfl)
@[simp] theorem memClear_staging (s : State) (a n : Nat) : (memClear s a n).staging = s.staging := (rfl)
@[simp] theorem memClear_msixTable (s : State) (a n : Nat) : (memClear s a n).msixTable = s.msixTable := (rfl)
@[simp] theorem memClear_pba (s : State) (a n : Nat) : (memClear s a n).pba = s.pba := (rfl)
@[simp] theorem memClear_msgAt (s : State) (a n : Nat) : (memClear s a n).msgAt = s.msgAt := (rfl)
@[simp] theorem memClear_msgWaiting (s : State) (a n : Nat) : (memClear s a n).msgWaiting = s.msgWaiting := (rfl)
@[simp] theorem memClear_sentCount (s : State) (a n : Nat) : (memClear s a n).sentCount = s.sentCount := (rfl)
@[simp] theorem memClear_ringSeq (s : State) (a n : Nat) : (memClear s a n).ringSeq = s.ringSeq := (rfl)
@[simp] theorem memClear_ringSince (s : State) (a n : Nat) : (memClear s a n).ringSince = s.ringSince := (rfl)
@[simp] theorem memClear_winOpen (s : State) (a n : Nat) : (memClear s a n).winOpen = s.winOpen := (rfl)
@[simp] theorem memClear_winCount (s : State) (a n : Nat) : (memClear s a n).winCount = s.winCount := (rfl)
@[simp] theorem memClear_perst (s : State) (a n : Nat) : (memClear s a n).perst = s.perst := (rfl)
@[simp] theorem memClear_jtagIr (s : State) (a n : Nat) : (memClear s a n).jtagIr = s.jtagIr := (rfl)
@[simp] theorem memClear_holding (s : State) (a n : Nat) : (memClear s a n).holding = s.holding := (rfl)

@[simp] theorem poisonWord_pending (s : State) (a : Nat) : (poisonWord s a).pending = s.pending := (rfl)
@[simp] theorem poisonWord_now (s : State) (a : Nat) : (poisonWord s a).now = s.now := (rfl)
@[simp] theorem poisonWord_free (s : State) (a : Nat) : (poisonWord s a).free = s.free := (rfl)
@[simp] theorem poisonWord_regs (s : State) (a : Nat) : (poisonWord s a).regs = s.regs := (rfl)
@[simp] theorem poisonWord_rdData (s : State) (a : Nat) : (poisonWord s a).rdData = s.rdData := (rfl)
@[simp] theorem poisonWord_mem (s : State) (a : Nat) : (poisonWord s a).mem = s.mem := (rfl)
@[simp] theorem poisonWord_everInRange (s : State) (a : Nat) : (poisonWord s a).everInRange = s.everInRange := (rfl)
@[simp] theorem poisonWord_inReset (s : State) (a : Nat) : (poisonWord s a).inReset = s.inReset := (rfl)
@[simp] theorem poisonWord_railReset (s : State) (a : Nat) : (poisonWord s a).railReset = s.railReset := (rfl)
@[simp] theorem poisonWord_resetAt (s : State) (a : Nat) : (poisonWord s a).resetAt = s.resetAt := (rfl)
@[simp] theorem poisonWord_stageAt (s : State) (a : Nat) : (poisonWord s a).stageAt = s.stageAt := (rfl)
@[simp] theorem poisonWord_bootSlot (s : State) (a : Nat) : (poisonWord s a).bootSlot = s.bootSlot := (rfl)
@[simp] theorem poisonWord_stuck (s : State) (a : Nat) : (poisonWord s a).stuck = s.stuck := (rfl)
@[simp] theorem poisonWord_linksUp (s : State) (a : Nat) : (poisonWord s a).linksUp = s.linksUp := (rfl)
@[simp] theorem poisonWord_driven (s : State) (a : Nat) : (poisonWord s a).driven = s.driven := (rfl)
@[simp] theorem poisonWord_imgShown (s : State) (a : Nat) : (poisonWord s a).imgShown = s.imgShown := (rfl)
@[simp] theorem poisonWord_run (s : State) (a : Nat) : (poisonWord s a).run = s.run := (rfl)
@[simp] theorem poisonWord_firstFinish (s : State) (a : Nat) : (poisonWord s a).firstFinish = s.firstFinish := (rfl)
@[simp] theorem poisonWord_hbmTrained (s : State) (a : Nat) : (poisonWord s a).hbmTrained = s.hbmTrained := (rfl)
@[simp] theorem poisonWord_debugHold (s : State) (a : Nat) : (poisonWord s a).debugHold = s.debugHold := (rfl)
@[simp] theorem poisonWord_avsFails (s : State) (a : Nat) : (poisonWord s a).avsFails = s.avsFails := (rfl)
@[simp] theorem poisonWord_avsDead (s : State) (a : Nat) : (poisonWord s a).avsDead = s.avsDead := (rfl)
@[simp] theorem poisonWord_vddMv (s : State) (a : Nat) : (poisonWord s a).vddMv = s.vddMv := (rfl)
@[simp] theorem poisonWord_avsChange (s : State) (a : Nat) : (poisonWord s a).avsChange = s.avsChange := (rfl)
@[simp] theorem poisonWord_avsRaise (s : State) (a : Nat) : (poisonWord s a).avsRaise = s.avsRaise := (rfl)
@[simp] theorem poisonWord_sternMhz (s : State) (a : Nat) : (poisonWord s a).sternMhz = s.sternMhz := (rfl)
@[simp] theorem poisonWord_fuses (s : State) (a : Nat) : (poisonWord s a).fuses = s.fuses := (rfl)
@[simp] theorem poisonWord_flash (s : State) (a : Nat) : (poisonWord s a).flash = s.flash := (rfl)
@[simp] theorem poisonWord_img (s : State) (a : Nat) : (poisonWord s a).img = s.img := (rfl)
@[simp] theorem poisonWord_contentKey (s : State) (a : Nat) : (poisonWord s a).contentKey = s.contentKey := (rfl)
@[simp] theorem poisonWord_targetKey (s : State) (a : Nat) : (poisonWord s a).targetKey = s.targetKey := (rfl)
@[simp] theorem poisonWord_admitted (s : State) (a : Nat) : (poisonWord s a).admitted = s.admitted := (rfl)
@[simp] theorem poisonWord_lightX (s : State) (a : Nat) : (poisonWord s a).lightX = s.lightX := (rfl)
@[simp] theorem poisonWord_lightL (s : State) (a : Nat) : (poisonWord s a).lightL = s.lightL := (rfl)
@[simp] theorem poisonWord_uart (s : State) (a : Nat) : (poisonWord s a).uart = s.uart := (rfl)
@[simp] theorem poisonWord_uartTx (s : State) (a : Nat) : (poisonWord s a).uartTx = s.uartTx := (rfl)
@[simp] theorem poisonWord_timerOn (s : State) (a : Nat) : (poisonWord s a).timerOn = s.timerOn := (rfl)
@[simp] theorem poisonWord_refLost (s : State) (a : Nat) : (poisonWord s a).refLost = s.refLost := (rfl)
@[simp] theorem poisonWord_lossNs (s : State) (a : Nat) : (poisonWord s a).lossNs = s.lossNs := (rfl)
@[simp] theorem poisonWord_floorAt (s : State) (a : Nat) : (poisonWord s a).floorAt = s.floorAt := (rfl)
@[simp] theorem poisonWord_rdEp (s : State) (a : Nat) : (poisonWord s a).rdEp = s.rdEp := (rfl)
@[simp] theorem poisonWord_strokeNo (s : State) (a : Nat) : (poisonWord s a).strokeNo = s.strokeNo := (rfl)
@[simp] theorem poisonWord_catchAt (s : State) (a : Nat) : (poisonWord s a).catchAt = s.catchAt := (rfl)
@[simp] theorem poisonWord_lockNs (s : State) (a : Nat) : (poisonWord s a).lockNs = s.lockNs := (rfl)
@[simp] theorem poisonWord_edges (s : State) (a : Nat) : (poisonWord s a).edges = s.edges := (rfl)
@[simp] theorem poisonWord_edgeAt (s : State) (a : Nat) : (poisonWord s a).edgeAt = s.edgeAt := (rfl)
@[simp] theorem poisonWord_phase (s : State) (a : Nat) : (poisonWord s a).phase = s.phase := (rfl)
@[simp] theorem poisonWord_syncOut (s : State) (a : Nat) : (poisonWord s a).syncOut = s.syncOut := (rfl)
@[simp] theorem poisonWord_acqRun (s : State) (a : Nat) : (poisonWord s a).acqRun = s.acqRun := (rfl)
@[simp] theorem poisonWord_everLocked (s : State) (a : Nat) : (poisonWord s a).everLocked = s.everLocked := (rfl)
@[simp] theorem poisonWord_earlyEdge (s : State) (a : Nat) : (poisonWord s a).earlyEdge = s.earlyEdge := (rfl)
@[simp] theorem poisonWord_lateEdge (s : State) (a : Nat) : (poisonWord s a).lateEdge = s.lateEdge := (rfl)
@[simp] theorem poisonWord_fsRun (s : State) (a : Nat) : (poisonWord s a).fsRun = s.fsRun := (rfl)
@[simp] theorem poisonWord_fsLast (s : State) (a : Nat) : (poisonWord s a).fsLast = s.fsLast := (rfl)
@[simp] theorem poisonWord_recovery (s : State) (a : Nat) : (poisonWord s a).recovery = s.recovery := (rfl)
@[simp] theorem poisonWord_ckptWait (s : State) (a : Nat) : (poisonWord s a).ckptWait = s.ckptWait := (rfl)
@[simp] theorem poisonWord_chans (s : State) (a : Nat) : (poisonWord s a).chans = s.chans := (rfl)
@[simp] theorem poisonWord_staged (s : State) (a : Nat) : (poisonWord s a).staged = s.staged := (rfl)
@[simp] theorem poisonWord_words (s : State) (a : Nat) : (poisonWord s a).words = s.words := (rfl)
@[simp] theorem poisonWord_lateWords (s : State) (a : Nat) : (poisonWord s a).lateWords = s.lateWords := (rfl)
@[simp] theorem poisonWord_mclkFlt (s : State) (a : Nat) : (poisonWord s a).mclkFlt = s.mclkFlt := (rfl)
@[simp] theorem poisonWord_cal (s : State) (a : Nat) : (poisonWord s a).cal = s.cal := (rfl)
@[simp] theorem poisonWord_calEnd (s : State) (a : Nat) : (poisonWord s a).calEnd = s.calEnd := (rfl)
@[simp] theorem poisonWord_viepeLow (s : State) (a : Nat) : (poisonWord s a).viepeLow = s.viepeLow := (rfl)
@[simp] theorem poisonWord_ofsLoaded (s : State) (a : Nat) : (poisonWord s a).ofsLoaded = s.ofsLoaded := (rfl)
@[simp] theorem poisonWord_ofsPending (s : State) (a : Nat) : (poisonWord s a).ofsPending = s.ofsPending := (rfl)
@[simp] theorem poisonWord_bridgeStroke (s : State) (a : Nat) : (poisonWord s a).bridgeStroke = s.bridgeStroke := (rfl)
@[simp] theorem poisonWord_bridgeClean (s : State) (a : Nat) : (poisonWord s a).bridgeClean = s.bridgeClean := (rfl)
@[simp] theorem poisonWord_links (s : State) (a : Nat) : (poisonWord s a).links = s.links := (rfl)
@[simp] theorem poisonWord_claiming (s : State) (a : Nat) : (poisonWord s a).claiming = s.claiming := (rfl)
@[simp] theorem poisonWord_lines (s : State) (a : Nat) : (poisonWord s a).lines = s.lines := (rfl)
@[simp] theorem poisonWord_pinFaultN (s : State) (a : Nat) : (poisonWord s a).pinFaultN = s.pinFaultN := (rfl)
@[simp] theorem poisonWord_mbox (s : State) (a : Nat) : (poisonWord s a).mbox = s.mbox := (rfl)
@[simp] theorem poisonWord_taken (s : State) (a : Nat) : (poisonWord s a).taken = s.taken := (rfl)
@[simp] theorem poisonWord_long (s : State) (a : Nat) : (poisonWord s a).long = s.long := (rfl)
@[simp] theorem poisonWord_notices (s : State) (a : Nat) : (poisonWord s a).notices = s.notices := (rfl)
@[simp] theorem poisonWord_challenge (s : State) (a : Nat) : (poisonWord s a).challenge = s.challenge := (rfl)
@[simp] theorem poisonWord_authFails (s : State) (a : Nat) : (poisonWord s a).authFails = s.authFails := (rfl)
@[simp] theorem poisonWord_hostRing (s : State) (a : Nat) : (poisonWord s a).hostRing = s.hostRing := (rfl)
@[simp] theorem poisonWord_debugAt (s : State) (a : Nat) : (poisonWord s a).debugAt = s.debugAt := (rfl)
@[simp] theorem poisonWord_debugDue (s : State) (a : Nat) : (poisonWord s a).debugDue = s.debugDue := (rfl)
@[simp] theorem poisonWord_aliveAt (s : State) (a : Nat) : (poisonWord s a).aliveAt = s.aliveAt := (rfl)
@[simp] theorem poisonWord_sternFaults (s : State) (a : Nat) : (poisonWord s a).sternFaults = s.sternFaults := (rfl)
@[simp] theorem poisonWord_sternRestart (s : State) (a : Nat) : (poisonWord s a).sternRestart = s.sternRestart := (rfl)
@[simp] theorem poisonWord_restarts (s : State) (a : Nat) : (poisonWord s a).restarts = s.restarts := (rfl)
@[simp] theorem poisonWord_ctxs (s : State) (a : Nat) : (poisonWord s a).ctxs = s.ctxs := (rfl)
@[simp] theorem poisonWord_sculls (s : State) (a : Nat) : (poisonWord s a).sculls = s.sculls := (rfl)
@[simp] theorem poisonWord_allot (s : State) (a : Nat) : (poisonWord s a).allot = s.allot := (rfl)
@[simp] theorem poisonWord_ceTimes (s : State) (a : Nat) : (poisonWord s a).ceTimes = s.ceTimes := (rfl)
@[simp] theorem poisonWord_insts (s : State) (a : Nat) : (poisonWord s a).insts = s.insts := (rfl)
@[simp] theorem poisonWord_readmit (s : State) (a : Nat) : (poisonWord s a).readmit = s.readmit := (rfl)
@[simp] theorem poisonWord_banks (s : State) (a : Nat) : (poisonWord s a).banks = s.banks := (rfl)
@[simp] theorem poisonWord_ports (s : State) (a : Nat) : (poisonWord s a).ports = s.ports := (rfl)
@[simp] theorem poisonWord_rchans (s : State) (a : Nat) : (poisonWord s a).rchans = s.rchans := (rfl)
@[simp] theorem poisonWord_heard (s : State) (a : Nat) : (poisonWord s a).heard = s.heard := (rfl)
@[simp] theorem poisonWord_heardPrev (s : State) (a : Nat) : (poisonWord s a).heardPrev = s.heardPrev := (rfl)
@[simp] theorem poisonWord_misses (s : State) (a : Nat) : (poisonWord s a).misses = s.misses := (rfl)
@[simp] theorem poisonWord_aliveFor (s : State) (a : Nat) : (poisonWord s a).aliveFor = s.aliveFor := (rfl)
@[simp] theorem poisonWord_slipRun (s : State) (a : Nat) : (poisonWord s a).slipRun = s.slipRun := (rfl)
@[simp] theorem poisonWord_okRun (s : State) (a : Nat) : (poisonWord s a).okRun = s.okRun := (rfl)
@[simp] theorem poisonWord_rsOfs (s : State) (a : Nat) : (poisonWord s a).rsOfs = s.rsOfs := (rfl)
@[simp] theorem poisonWord_mirrors (s : State) (a : Nat) : (poisonWord s a).mirrors = s.mirrors := (rfl)
@[simp] theorem poisonWord_chg (s : State) (a : Nat) : (poisonWord s a).chg = s.chg := (rfl)
@[simp] theorem poisonWord_staging (s : State) (a : Nat) : (poisonWord s a).staging = s.staging := (rfl)
@[simp] theorem poisonWord_msixTable (s : State) (a : Nat) : (poisonWord s a).msixTable = s.msixTable := (rfl)
@[simp] theorem poisonWord_pba (s : State) (a : Nat) : (poisonWord s a).pba = s.pba := (rfl)
@[simp] theorem poisonWord_msgAt (s : State) (a : Nat) : (poisonWord s a).msgAt = s.msgAt := (rfl)
@[simp] theorem poisonWord_msgWaiting (s : State) (a : Nat) : (poisonWord s a).msgWaiting = s.msgWaiting := (rfl)
@[simp] theorem poisonWord_sentCount (s : State) (a : Nat) : (poisonWord s a).sentCount = s.sentCount := (rfl)
@[simp] theorem poisonWord_ringSeq (s : State) (a : Nat) : (poisonWord s a).ringSeq = s.ringSeq := (rfl)
@[simp] theorem poisonWord_ringSince (s : State) (a : Nat) : (poisonWord s a).ringSince = s.ringSince := (rfl)
@[simp] theorem poisonWord_winOpen (s : State) (a : Nat) : (poisonWord s a).winOpen = s.winOpen := (rfl)
@[simp] theorem poisonWord_winCount (s : State) (a : Nat) : (poisonWord s a).winCount = s.winCount := (rfl)
@[simp] theorem poisonWord_perst (s : State) (a : Nat) : (poisonWord s a).perst = s.perst := (rfl)
@[simp] theorem poisonWord_jtagIr (s : State) (a : Nat) : (poisonWord s a).jtagIr = s.jtagIr := (rfl)
@[simp] theorem poisonWord_holding (s : State) (a : Nat) : (poisonWord s a).holding = s.holding := (rfl)

@[simp] theorem putCtx_pending (s : State) (k : Nat) (c : Ctx) : (putCtx s k c).pending = s.pending := (rfl)
@[simp] theorem putCtx_now (s : State) (k : Nat) (c : Ctx) : (putCtx s k c).now = s.now := (rfl)
@[simp] theorem putCtx_free (s : State) (k : Nat) (c : Ctx) : (putCtx s k c).free = s.free := (rfl)
@[simp] theorem putCtx_regs (s : State) (k : Nat) (c : Ctx) : (putCtx s k c).regs = s.regs := (rfl)
@[simp] theorem putCtx_rdData (s : State) (k : Nat) (c : Ctx) : (putCtx s k c).rdData = s.rdData := (rfl)
@[simp] theorem putCtx_mem (s : State) (k : Nat) (c : Ctx) : (putCtx s k c).mem = s.mem := (rfl)
@[simp] theorem putCtx_poisoned (s : State) (k : Nat) (c : Ctx) : (putCtx s k c).poisoned = s.poisoned := (rfl)
@[simp] theorem putCtx_everInRange (s : State) (k : Nat) (c : Ctx) : (putCtx s k c).everInRange = s.everInRange := (rfl)
@[simp] theorem putCtx_inReset (s : State) (k : Nat) (c : Ctx) : (putCtx s k c).inReset = s.inReset := (rfl)
@[simp] theorem putCtx_railReset (s : State) (k : Nat) (c : Ctx) : (putCtx s k c).railReset = s.railReset := (rfl)
@[simp] theorem putCtx_resetAt (s : State) (k : Nat) (c : Ctx) : (putCtx s k c).resetAt = s.resetAt := (rfl)
@[simp] theorem putCtx_stageAt (s : State) (k : Nat) (c : Ctx) : (putCtx s k c).stageAt = s.stageAt := (rfl)
@[simp] theorem putCtx_bootSlot (s : State) (k : Nat) (c : Ctx) : (putCtx s k c).bootSlot = s.bootSlot := (rfl)
@[simp] theorem putCtx_stuck (s : State) (k : Nat) (c : Ctx) : (putCtx s k c).stuck = s.stuck := (rfl)
@[simp] theorem putCtx_linksUp (s : State) (k : Nat) (c : Ctx) : (putCtx s k c).linksUp = s.linksUp := (rfl)
@[simp] theorem putCtx_driven (s : State) (k : Nat) (c : Ctx) : (putCtx s k c).driven = s.driven := (rfl)
@[simp] theorem putCtx_imgShown (s : State) (k : Nat) (c : Ctx) : (putCtx s k c).imgShown = s.imgShown := (rfl)
@[simp] theorem putCtx_run (s : State) (k : Nat) (c : Ctx) : (putCtx s k c).run = s.run := (rfl)
@[simp] theorem putCtx_firstFinish (s : State) (k : Nat) (c : Ctx) : (putCtx s k c).firstFinish = s.firstFinish := (rfl)
@[simp] theorem putCtx_hbmTrained (s : State) (k : Nat) (c : Ctx) : (putCtx s k c).hbmTrained = s.hbmTrained := (rfl)
@[simp] theorem putCtx_debugHold (s : State) (k : Nat) (c : Ctx) : (putCtx s k c).debugHold = s.debugHold := (rfl)
@[simp] theorem putCtx_avsFails (s : State) (k : Nat) (c : Ctx) : (putCtx s k c).avsFails = s.avsFails := (rfl)
@[simp] theorem putCtx_avsDead (s : State) (k : Nat) (c : Ctx) : (putCtx s k c).avsDead = s.avsDead := (rfl)
@[simp] theorem putCtx_vddMv (s : State) (k : Nat) (c : Ctx) : (putCtx s k c).vddMv = s.vddMv := (rfl)
@[simp] theorem putCtx_avsChange (s : State) (k : Nat) (c : Ctx) : (putCtx s k c).avsChange = s.avsChange := (rfl)
@[simp] theorem putCtx_avsRaise (s : State) (k : Nat) (c : Ctx) : (putCtx s k c).avsRaise = s.avsRaise := (rfl)
@[simp] theorem putCtx_sternMhz (s : State) (k : Nat) (c : Ctx) : (putCtx s k c).sternMhz = s.sternMhz := (rfl)
@[simp] theorem putCtx_fuses (s : State) (k : Nat) (c : Ctx) : (putCtx s k c).fuses = s.fuses := (rfl)
@[simp] theorem putCtx_flash (s : State) (k : Nat) (c : Ctx) : (putCtx s k c).flash = s.flash := (rfl)
@[simp] theorem putCtx_img (s : State) (k : Nat) (c : Ctx) : (putCtx s k c).img = s.img := (rfl)
@[simp] theorem putCtx_contentKey (s : State) (k : Nat) (c : Ctx) : (putCtx s k c).contentKey = s.contentKey := (rfl)
@[simp] theorem putCtx_targetKey (s : State) (k : Nat) (c : Ctx) : (putCtx s k c).targetKey = s.targetKey := (rfl)
@[simp] theorem putCtx_admitted (s : State) (k : Nat) (c : Ctx) : (putCtx s k c).admitted = s.admitted := (rfl)
@[simp] theorem putCtx_lightX (s : State) (k : Nat) (c : Ctx) : (putCtx s k c).lightX = s.lightX := (rfl)
@[simp] theorem putCtx_lightL (s : State) (k : Nat) (c : Ctx) : (putCtx s k c).lightL = s.lightL := (rfl)
@[simp] theorem putCtx_uart (s : State) (k : Nat) (c : Ctx) : (putCtx s k c).uart = s.uart := (rfl)
@[simp] theorem putCtx_uartTx (s : State) (k : Nat) (c : Ctx) : (putCtx s k c).uartTx = s.uartTx := (rfl)
@[simp] theorem putCtx_timerOn (s : State) (k : Nat) (c : Ctx) : (putCtx s k c).timerOn = s.timerOn := (rfl)
@[simp] theorem putCtx_refLost (s : State) (k : Nat) (c : Ctx) : (putCtx s k c).refLost = s.refLost := (rfl)
@[simp] theorem putCtx_lossNs (s : State) (k : Nat) (c : Ctx) : (putCtx s k c).lossNs = s.lossNs := (rfl)
@[simp] theorem putCtx_floorAt (s : State) (k : Nat) (c : Ctx) : (putCtx s k c).floorAt = s.floorAt := (rfl)
@[simp] theorem putCtx_rdEp (s : State) (k : Nat) (c : Ctx) : (putCtx s k c).rdEp = s.rdEp := (rfl)
@[simp] theorem putCtx_strokeNo (s : State) (k : Nat) (c : Ctx) : (putCtx s k c).strokeNo = s.strokeNo := (rfl)
@[simp] theorem putCtx_catchAt (s : State) (k : Nat) (c : Ctx) : (putCtx s k c).catchAt = s.catchAt := (rfl)
@[simp] theorem putCtx_lockNs (s : State) (k : Nat) (c : Ctx) : (putCtx s k c).lockNs = s.lockNs := (rfl)
@[simp] theorem putCtx_edges (s : State) (k : Nat) (c : Ctx) : (putCtx s k c).edges = s.edges := (rfl)
@[simp] theorem putCtx_edgeAt (s : State) (k : Nat) (c : Ctx) : (putCtx s k c).edgeAt = s.edgeAt := (rfl)
@[simp] theorem putCtx_phase (s : State) (k : Nat) (c : Ctx) : (putCtx s k c).phase = s.phase := (rfl)
@[simp] theorem putCtx_syncOut (s : State) (k : Nat) (c : Ctx) : (putCtx s k c).syncOut = s.syncOut := (rfl)
@[simp] theorem putCtx_acqRun (s : State) (k : Nat) (c : Ctx) : (putCtx s k c).acqRun = s.acqRun := (rfl)
@[simp] theorem putCtx_everLocked (s : State) (k : Nat) (c : Ctx) : (putCtx s k c).everLocked = s.everLocked := (rfl)
@[simp] theorem putCtx_earlyEdge (s : State) (k : Nat) (c : Ctx) : (putCtx s k c).earlyEdge = s.earlyEdge := (rfl)
@[simp] theorem putCtx_lateEdge (s : State) (k : Nat) (c : Ctx) : (putCtx s k c).lateEdge = s.lateEdge := (rfl)
@[simp] theorem putCtx_fsRun (s : State) (k : Nat) (c : Ctx) : (putCtx s k c).fsRun = s.fsRun := (rfl)
@[simp] theorem putCtx_fsLast (s : State) (k : Nat) (c : Ctx) : (putCtx s k c).fsLast = s.fsLast := (rfl)
@[simp] theorem putCtx_recovery (s : State) (k : Nat) (c : Ctx) : (putCtx s k c).recovery = s.recovery := (rfl)
@[simp] theorem putCtx_ckptWait (s : State) (k : Nat) (c : Ctx) : (putCtx s k c).ckptWait = s.ckptWait := (rfl)
@[simp] theorem putCtx_chans (s : State) (k : Nat) (c : Ctx) : (putCtx s k c).chans = s.chans := (rfl)
@[simp] theorem putCtx_staged (s : State) (k : Nat) (c : Ctx) : (putCtx s k c).staged = s.staged := (rfl)
@[simp] theorem putCtx_words (s : State) (k : Nat) (c : Ctx) : (putCtx s k c).words = s.words := (rfl)
@[simp] theorem putCtx_lateWords (s : State) (k : Nat) (c : Ctx) : (putCtx s k c).lateWords = s.lateWords := (rfl)
@[simp] theorem putCtx_mclkFlt (s : State) (k : Nat) (c : Ctx) : (putCtx s k c).mclkFlt = s.mclkFlt := (rfl)
@[simp] theorem putCtx_cal (s : State) (k : Nat) (c : Ctx) : (putCtx s k c).cal = s.cal := (rfl)
@[simp] theorem putCtx_calEnd (s : State) (k : Nat) (c : Ctx) : (putCtx s k c).calEnd = s.calEnd := (rfl)
@[simp] theorem putCtx_viepeLow (s : State) (k : Nat) (c : Ctx) : (putCtx s k c).viepeLow = s.viepeLow := (rfl)
@[simp] theorem putCtx_ofsLoaded (s : State) (k : Nat) (c : Ctx) : (putCtx s k c).ofsLoaded = s.ofsLoaded := (rfl)
@[simp] theorem putCtx_ofsPending (s : State) (k : Nat) (c : Ctx) : (putCtx s k c).ofsPending = s.ofsPending := (rfl)
@[simp] theorem putCtx_bridgeStroke (s : State) (k : Nat) (c : Ctx) : (putCtx s k c).bridgeStroke = s.bridgeStroke := (rfl)
@[simp] theorem putCtx_bridgeClean (s : State) (k : Nat) (c : Ctx) : (putCtx s k c).bridgeClean = s.bridgeClean := (rfl)
@[simp] theorem putCtx_links (s : State) (k : Nat) (c : Ctx) : (putCtx s k c).links = s.links := (rfl)
@[simp] theorem putCtx_claiming (s : State) (k : Nat) (c : Ctx) : (putCtx s k c).claiming = s.claiming := (rfl)
@[simp] theorem putCtx_lines (s : State) (k : Nat) (c : Ctx) : (putCtx s k c).lines = s.lines := (rfl)
@[simp] theorem putCtx_pinFaultN (s : State) (k : Nat) (c : Ctx) : (putCtx s k c).pinFaultN = s.pinFaultN := (rfl)
@[simp] theorem putCtx_mbox (s : State) (k : Nat) (c : Ctx) : (putCtx s k c).mbox = s.mbox := (rfl)
@[simp] theorem putCtx_taken (s : State) (k : Nat) (c : Ctx) : (putCtx s k c).taken = s.taken := (rfl)
@[simp] theorem putCtx_long (s : State) (k : Nat) (c : Ctx) : (putCtx s k c).long = s.long := (rfl)
@[simp] theorem putCtx_notices (s : State) (k : Nat) (c : Ctx) : (putCtx s k c).notices = s.notices := (rfl)
@[simp] theorem putCtx_challenge (s : State) (k : Nat) (c : Ctx) : (putCtx s k c).challenge = s.challenge := (rfl)
@[simp] theorem putCtx_authFails (s : State) (k : Nat) (c : Ctx) : (putCtx s k c).authFails = s.authFails := (rfl)
@[simp] theorem putCtx_hostRing (s : State) (k : Nat) (c : Ctx) : (putCtx s k c).hostRing = s.hostRing := (rfl)
@[simp] theorem putCtx_debugAt (s : State) (k : Nat) (c : Ctx) : (putCtx s k c).debugAt = s.debugAt := (rfl)
@[simp] theorem putCtx_debugDue (s : State) (k : Nat) (c : Ctx) : (putCtx s k c).debugDue = s.debugDue := (rfl)
@[simp] theorem putCtx_aliveAt (s : State) (k : Nat) (c : Ctx) : (putCtx s k c).aliveAt = s.aliveAt := (rfl)
@[simp] theorem putCtx_sternFaults (s : State) (k : Nat) (c : Ctx) : (putCtx s k c).sternFaults = s.sternFaults := (rfl)
@[simp] theorem putCtx_sternRestart (s : State) (k : Nat) (c : Ctx) : (putCtx s k c).sternRestart = s.sternRestart := (rfl)
@[simp] theorem putCtx_restarts (s : State) (k : Nat) (c : Ctx) : (putCtx s k c).restarts = s.restarts := (rfl)
@[simp] theorem putCtx_sculls (s : State) (k : Nat) (c : Ctx) : (putCtx s k c).sculls = s.sculls := (rfl)
@[simp] theorem putCtx_allot (s : State) (k : Nat) (c : Ctx) : (putCtx s k c).allot = s.allot := (rfl)
@[simp] theorem putCtx_ceTimes (s : State) (k : Nat) (c : Ctx) : (putCtx s k c).ceTimes = s.ceTimes := (rfl)
@[simp] theorem putCtx_insts (s : State) (k : Nat) (c : Ctx) : (putCtx s k c).insts = s.insts := (rfl)
@[simp] theorem putCtx_readmit (s : State) (k : Nat) (c : Ctx) : (putCtx s k c).readmit = s.readmit := (rfl)
@[simp] theorem putCtx_banks (s : State) (k : Nat) (c : Ctx) : (putCtx s k c).banks = s.banks := (rfl)
@[simp] theorem putCtx_ports (s : State) (k : Nat) (c : Ctx) : (putCtx s k c).ports = s.ports := (rfl)
@[simp] theorem putCtx_rchans (s : State) (k : Nat) (c : Ctx) : (putCtx s k c).rchans = s.rchans := (rfl)
@[simp] theorem putCtx_heard (s : State) (k : Nat) (c : Ctx) : (putCtx s k c).heard = s.heard := (rfl)
@[simp] theorem putCtx_heardPrev (s : State) (k : Nat) (c : Ctx) : (putCtx s k c).heardPrev = s.heardPrev := (rfl)
@[simp] theorem putCtx_misses (s : State) (k : Nat) (c : Ctx) : (putCtx s k c).misses = s.misses := (rfl)
@[simp] theorem putCtx_aliveFor (s : State) (k : Nat) (c : Ctx) : (putCtx s k c).aliveFor = s.aliveFor := (rfl)
@[simp] theorem putCtx_slipRun (s : State) (k : Nat) (c : Ctx) : (putCtx s k c).slipRun = s.slipRun := (rfl)
@[simp] theorem putCtx_okRun (s : State) (k : Nat) (c : Ctx) : (putCtx s k c).okRun = s.okRun := (rfl)
@[simp] theorem putCtx_rsOfs (s : State) (k : Nat) (c : Ctx) : (putCtx s k c).rsOfs = s.rsOfs := (rfl)
@[simp] theorem putCtx_mirrors (s : State) (k : Nat) (c : Ctx) : (putCtx s k c).mirrors = s.mirrors := (rfl)
@[simp] theorem putCtx_chg (s : State) (k : Nat) (c : Ctx) : (putCtx s k c).chg = s.chg := (rfl)
@[simp] theorem putCtx_staging (s : State) (k : Nat) (c : Ctx) : (putCtx s k c).staging = s.staging := (rfl)
@[simp] theorem putCtx_msixTable (s : State) (k : Nat) (c : Ctx) : (putCtx s k c).msixTable = s.msixTable := (rfl)
@[simp] theorem putCtx_pba (s : State) (k : Nat) (c : Ctx) : (putCtx s k c).pba = s.pba := (rfl)
@[simp] theorem putCtx_msgAt (s : State) (k : Nat) (c : Ctx) : (putCtx s k c).msgAt = s.msgAt := (rfl)
@[simp] theorem putCtx_msgWaiting (s : State) (k : Nat) (c : Ctx) : (putCtx s k c).msgWaiting = s.msgWaiting := (rfl)
@[simp] theorem putCtx_sentCount (s : State) (k : Nat) (c : Ctx) : (putCtx s k c).sentCount = s.sentCount := (rfl)
@[simp] theorem putCtx_ringSeq (s : State) (k : Nat) (c : Ctx) : (putCtx s k c).ringSeq = s.ringSeq := (rfl)
@[simp] theorem putCtx_ringSince (s : State) (k : Nat) (c : Ctx) : (putCtx s k c).ringSince = s.ringSince := (rfl)
@[simp] theorem putCtx_winOpen (s : State) (k : Nat) (c : Ctx) : (putCtx s k c).winOpen = s.winOpen := (rfl)
@[simp] theorem putCtx_winCount (s : State) (k : Nat) (c : Ctx) : (putCtx s k c).winCount = s.winCount := (rfl)
@[simp] theorem putCtx_perst (s : State) (k : Nat) (c : Ctx) : (putCtx s k c).perst = s.perst := (rfl)
@[simp] theorem putCtx_jtagIr (s : State) (k : Nat) (c : Ctx) : (putCtx s k c).jtagIr = s.jtagIr := (rfl)
@[simp] theorem putCtx_holding (s : State) (k : Nat) (c : Ctx) : (putCtx s k c).holding = s.holding := (rfl)

@[simp] theorem putScull_pending (s : State) (k : Nat) (c : Scull) : (putScull s k c).pending = s.pending := (rfl)
@[simp] theorem putScull_now (s : State) (k : Nat) (c : Scull) : (putScull s k c).now = s.now := (rfl)
@[simp] theorem putScull_free (s : State) (k : Nat) (c : Scull) : (putScull s k c).free = s.free := (rfl)
@[simp] theorem putScull_regs (s : State) (k : Nat) (c : Scull) : (putScull s k c).regs = s.regs := (rfl)
@[simp] theorem putScull_rdData (s : State) (k : Nat) (c : Scull) : (putScull s k c).rdData = s.rdData := (rfl)
@[simp] theorem putScull_mem (s : State) (k : Nat) (c : Scull) : (putScull s k c).mem = s.mem := (rfl)
@[simp] theorem putScull_poisoned (s : State) (k : Nat) (c : Scull) : (putScull s k c).poisoned = s.poisoned := (rfl)
@[simp] theorem putScull_everInRange (s : State) (k : Nat) (c : Scull) : (putScull s k c).everInRange = s.everInRange := (rfl)
@[simp] theorem putScull_inReset (s : State) (k : Nat) (c : Scull) : (putScull s k c).inReset = s.inReset := (rfl)
@[simp] theorem putScull_railReset (s : State) (k : Nat) (c : Scull) : (putScull s k c).railReset = s.railReset := (rfl)
@[simp] theorem putScull_resetAt (s : State) (k : Nat) (c : Scull) : (putScull s k c).resetAt = s.resetAt := (rfl)
@[simp] theorem putScull_stageAt (s : State) (k : Nat) (c : Scull) : (putScull s k c).stageAt = s.stageAt := (rfl)
@[simp] theorem putScull_bootSlot (s : State) (k : Nat) (c : Scull) : (putScull s k c).bootSlot = s.bootSlot := (rfl)
@[simp] theorem putScull_stuck (s : State) (k : Nat) (c : Scull) : (putScull s k c).stuck = s.stuck := (rfl)
@[simp] theorem putScull_linksUp (s : State) (k : Nat) (c : Scull) : (putScull s k c).linksUp = s.linksUp := (rfl)
@[simp] theorem putScull_driven (s : State) (k : Nat) (c : Scull) : (putScull s k c).driven = s.driven := (rfl)
@[simp] theorem putScull_imgShown (s : State) (k : Nat) (c : Scull) : (putScull s k c).imgShown = s.imgShown := (rfl)
@[simp] theorem putScull_run (s : State) (k : Nat) (c : Scull) : (putScull s k c).run = s.run := (rfl)
@[simp] theorem putScull_firstFinish (s : State) (k : Nat) (c : Scull) : (putScull s k c).firstFinish = s.firstFinish := (rfl)
@[simp] theorem putScull_hbmTrained (s : State) (k : Nat) (c : Scull) : (putScull s k c).hbmTrained = s.hbmTrained := (rfl)
@[simp] theorem putScull_debugHold (s : State) (k : Nat) (c : Scull) : (putScull s k c).debugHold = s.debugHold := (rfl)
@[simp] theorem putScull_avsFails (s : State) (k : Nat) (c : Scull) : (putScull s k c).avsFails = s.avsFails := (rfl)
@[simp] theorem putScull_avsDead (s : State) (k : Nat) (c : Scull) : (putScull s k c).avsDead = s.avsDead := (rfl)
@[simp] theorem putScull_vddMv (s : State) (k : Nat) (c : Scull) : (putScull s k c).vddMv = s.vddMv := (rfl)
@[simp] theorem putScull_avsChange (s : State) (k : Nat) (c : Scull) : (putScull s k c).avsChange = s.avsChange := (rfl)
@[simp] theorem putScull_avsRaise (s : State) (k : Nat) (c : Scull) : (putScull s k c).avsRaise = s.avsRaise := (rfl)
@[simp] theorem putScull_sternMhz (s : State) (k : Nat) (c : Scull) : (putScull s k c).sternMhz = s.sternMhz := (rfl)
@[simp] theorem putScull_fuses (s : State) (k : Nat) (c : Scull) : (putScull s k c).fuses = s.fuses := (rfl)
@[simp] theorem putScull_flash (s : State) (k : Nat) (c : Scull) : (putScull s k c).flash = s.flash := (rfl)
@[simp] theorem putScull_img (s : State) (k : Nat) (c : Scull) : (putScull s k c).img = s.img := (rfl)
@[simp] theorem putScull_contentKey (s : State) (k : Nat) (c : Scull) : (putScull s k c).contentKey = s.contentKey := (rfl)
@[simp] theorem putScull_targetKey (s : State) (k : Nat) (c : Scull) : (putScull s k c).targetKey = s.targetKey := (rfl)
@[simp] theorem putScull_admitted (s : State) (k : Nat) (c : Scull) : (putScull s k c).admitted = s.admitted := (rfl)
@[simp] theorem putScull_lightX (s : State) (k : Nat) (c : Scull) : (putScull s k c).lightX = s.lightX := (rfl)
@[simp] theorem putScull_lightL (s : State) (k : Nat) (c : Scull) : (putScull s k c).lightL = s.lightL := (rfl)
@[simp] theorem putScull_uart (s : State) (k : Nat) (c : Scull) : (putScull s k c).uart = s.uart := (rfl)
@[simp] theorem putScull_uartTx (s : State) (k : Nat) (c : Scull) : (putScull s k c).uartTx = s.uartTx := (rfl)
@[simp] theorem putScull_timerOn (s : State) (k : Nat) (c : Scull) : (putScull s k c).timerOn = s.timerOn := (rfl)
@[simp] theorem putScull_refLost (s : State) (k : Nat) (c : Scull) : (putScull s k c).refLost = s.refLost := (rfl)
@[simp] theorem putScull_lossNs (s : State) (k : Nat) (c : Scull) : (putScull s k c).lossNs = s.lossNs := (rfl)
@[simp] theorem putScull_floorAt (s : State) (k : Nat) (c : Scull) : (putScull s k c).floorAt = s.floorAt := (rfl)
@[simp] theorem putScull_rdEp (s : State) (k : Nat) (c : Scull) : (putScull s k c).rdEp = s.rdEp := (rfl)
@[simp] theorem putScull_strokeNo (s : State) (k : Nat) (c : Scull) : (putScull s k c).strokeNo = s.strokeNo := (rfl)
@[simp] theorem putScull_catchAt (s : State) (k : Nat) (c : Scull) : (putScull s k c).catchAt = s.catchAt := (rfl)
@[simp] theorem putScull_lockNs (s : State) (k : Nat) (c : Scull) : (putScull s k c).lockNs = s.lockNs := (rfl)
@[simp] theorem putScull_edges (s : State) (k : Nat) (c : Scull) : (putScull s k c).edges = s.edges := (rfl)
@[simp] theorem putScull_edgeAt (s : State) (k : Nat) (c : Scull) : (putScull s k c).edgeAt = s.edgeAt := (rfl)
@[simp] theorem putScull_phase (s : State) (k : Nat) (c : Scull) : (putScull s k c).phase = s.phase := (rfl)
@[simp] theorem putScull_syncOut (s : State) (k : Nat) (c : Scull) : (putScull s k c).syncOut = s.syncOut := (rfl)
@[simp] theorem putScull_acqRun (s : State) (k : Nat) (c : Scull) : (putScull s k c).acqRun = s.acqRun := (rfl)
@[simp] theorem putScull_everLocked (s : State) (k : Nat) (c : Scull) : (putScull s k c).everLocked = s.everLocked := (rfl)
@[simp] theorem putScull_earlyEdge (s : State) (k : Nat) (c : Scull) : (putScull s k c).earlyEdge = s.earlyEdge := (rfl)
@[simp] theorem putScull_lateEdge (s : State) (k : Nat) (c : Scull) : (putScull s k c).lateEdge = s.lateEdge := (rfl)
@[simp] theorem putScull_fsRun (s : State) (k : Nat) (c : Scull) : (putScull s k c).fsRun = s.fsRun := (rfl)
@[simp] theorem putScull_fsLast (s : State) (k : Nat) (c : Scull) : (putScull s k c).fsLast = s.fsLast := (rfl)
@[simp] theorem putScull_recovery (s : State) (k : Nat) (c : Scull) : (putScull s k c).recovery = s.recovery := (rfl)
@[simp] theorem putScull_ckptWait (s : State) (k : Nat) (c : Scull) : (putScull s k c).ckptWait = s.ckptWait := (rfl)
@[simp] theorem putScull_chans (s : State) (k : Nat) (c : Scull) : (putScull s k c).chans = s.chans := (rfl)
@[simp] theorem putScull_staged (s : State) (k : Nat) (c : Scull) : (putScull s k c).staged = s.staged := (rfl)
@[simp] theorem putScull_words (s : State) (k : Nat) (c : Scull) : (putScull s k c).words = s.words := (rfl)
@[simp] theorem putScull_lateWords (s : State) (k : Nat) (c : Scull) : (putScull s k c).lateWords = s.lateWords := (rfl)
@[simp] theorem putScull_mclkFlt (s : State) (k : Nat) (c : Scull) : (putScull s k c).mclkFlt = s.mclkFlt := (rfl)
@[simp] theorem putScull_cal (s : State) (k : Nat) (c : Scull) : (putScull s k c).cal = s.cal := (rfl)
@[simp] theorem putScull_calEnd (s : State) (k : Nat) (c : Scull) : (putScull s k c).calEnd = s.calEnd := (rfl)
@[simp] theorem putScull_viepeLow (s : State) (k : Nat) (c : Scull) : (putScull s k c).viepeLow = s.viepeLow := (rfl)
@[simp] theorem putScull_ofsLoaded (s : State) (k : Nat) (c : Scull) : (putScull s k c).ofsLoaded = s.ofsLoaded := (rfl)
@[simp] theorem putScull_ofsPending (s : State) (k : Nat) (c : Scull) : (putScull s k c).ofsPending = s.ofsPending := (rfl)
@[simp] theorem putScull_bridgeStroke (s : State) (k : Nat) (c : Scull) : (putScull s k c).bridgeStroke = s.bridgeStroke := (rfl)
@[simp] theorem putScull_bridgeClean (s : State) (k : Nat) (c : Scull) : (putScull s k c).bridgeClean = s.bridgeClean := (rfl)
@[simp] theorem putScull_links (s : State) (k : Nat) (c : Scull) : (putScull s k c).links = s.links := (rfl)
@[simp] theorem putScull_claiming (s : State) (k : Nat) (c : Scull) : (putScull s k c).claiming = s.claiming := (rfl)
@[simp] theorem putScull_lines (s : State) (k : Nat) (c : Scull) : (putScull s k c).lines = s.lines := (rfl)
@[simp] theorem putScull_pinFaultN (s : State) (k : Nat) (c : Scull) : (putScull s k c).pinFaultN = s.pinFaultN := (rfl)
@[simp] theorem putScull_mbox (s : State) (k : Nat) (c : Scull) : (putScull s k c).mbox = s.mbox := (rfl)
@[simp] theorem putScull_taken (s : State) (k : Nat) (c : Scull) : (putScull s k c).taken = s.taken := (rfl)
@[simp] theorem putScull_long (s : State) (k : Nat) (c : Scull) : (putScull s k c).long = s.long := (rfl)
@[simp] theorem putScull_notices (s : State) (k : Nat) (c : Scull) : (putScull s k c).notices = s.notices := (rfl)
@[simp] theorem putScull_challenge (s : State) (k : Nat) (c : Scull) : (putScull s k c).challenge = s.challenge := (rfl)
@[simp] theorem putScull_authFails (s : State) (k : Nat) (c : Scull) : (putScull s k c).authFails = s.authFails := (rfl)
@[simp] theorem putScull_hostRing (s : State) (k : Nat) (c : Scull) : (putScull s k c).hostRing = s.hostRing := (rfl)
@[simp] theorem putScull_debugAt (s : State) (k : Nat) (c : Scull) : (putScull s k c).debugAt = s.debugAt := (rfl)
@[simp] theorem putScull_debugDue (s : State) (k : Nat) (c : Scull) : (putScull s k c).debugDue = s.debugDue := (rfl)
@[simp] theorem putScull_aliveAt (s : State) (k : Nat) (c : Scull) : (putScull s k c).aliveAt = s.aliveAt := (rfl)
@[simp] theorem putScull_sternFaults (s : State) (k : Nat) (c : Scull) : (putScull s k c).sternFaults = s.sternFaults := (rfl)
@[simp] theorem putScull_sternRestart (s : State) (k : Nat) (c : Scull) : (putScull s k c).sternRestart = s.sternRestart := (rfl)
@[simp] theorem putScull_restarts (s : State) (k : Nat) (c : Scull) : (putScull s k c).restarts = s.restarts := (rfl)
@[simp] theorem putScull_ctxs (s : State) (k : Nat) (c : Scull) : (putScull s k c).ctxs = s.ctxs := (rfl)
@[simp] theorem putScull_allot (s : State) (k : Nat) (c : Scull) : (putScull s k c).allot = s.allot := (rfl)
@[simp] theorem putScull_ceTimes (s : State) (k : Nat) (c : Scull) : (putScull s k c).ceTimes = s.ceTimes := (rfl)
@[simp] theorem putScull_insts (s : State) (k : Nat) (c : Scull) : (putScull s k c).insts = s.insts := (rfl)
@[simp] theorem putScull_readmit (s : State) (k : Nat) (c : Scull) : (putScull s k c).readmit = s.readmit := (rfl)
@[simp] theorem putScull_banks (s : State) (k : Nat) (c : Scull) : (putScull s k c).banks = s.banks := (rfl)
@[simp] theorem putScull_ports (s : State) (k : Nat) (c : Scull) : (putScull s k c).ports = s.ports := (rfl)
@[simp] theorem putScull_rchans (s : State) (k : Nat) (c : Scull) : (putScull s k c).rchans = s.rchans := (rfl)
@[simp] theorem putScull_heard (s : State) (k : Nat) (c : Scull) : (putScull s k c).heard = s.heard := (rfl)
@[simp] theorem putScull_heardPrev (s : State) (k : Nat) (c : Scull) : (putScull s k c).heardPrev = s.heardPrev := (rfl)
@[simp] theorem putScull_misses (s : State) (k : Nat) (c : Scull) : (putScull s k c).misses = s.misses := (rfl)
@[simp] theorem putScull_aliveFor (s : State) (k : Nat) (c : Scull) : (putScull s k c).aliveFor = s.aliveFor := (rfl)
@[simp] theorem putScull_slipRun (s : State) (k : Nat) (c : Scull) : (putScull s k c).slipRun = s.slipRun := (rfl)
@[simp] theorem putScull_okRun (s : State) (k : Nat) (c : Scull) : (putScull s k c).okRun = s.okRun := (rfl)
@[simp] theorem putScull_rsOfs (s : State) (k : Nat) (c : Scull) : (putScull s k c).rsOfs = s.rsOfs := (rfl)
@[simp] theorem putScull_mirrors (s : State) (k : Nat) (c : Scull) : (putScull s k c).mirrors = s.mirrors := (rfl)
@[simp] theorem putScull_chg (s : State) (k : Nat) (c : Scull) : (putScull s k c).chg = s.chg := (rfl)
@[simp] theorem putScull_staging (s : State) (k : Nat) (c : Scull) : (putScull s k c).staging = s.staging := (rfl)
@[simp] theorem putScull_msixTable (s : State) (k : Nat) (c : Scull) : (putScull s k c).msixTable = s.msixTable := (rfl)
@[simp] theorem putScull_pba (s : State) (k : Nat) (c : Scull) : (putScull s k c).pba = s.pba := (rfl)
@[simp] theorem putScull_msgAt (s : State) (k : Nat) (c : Scull) : (putScull s k c).msgAt = s.msgAt := (rfl)
@[simp] theorem putScull_msgWaiting (s : State) (k : Nat) (c : Scull) : (putScull s k c).msgWaiting = s.msgWaiting := (rfl)
@[simp] theorem putScull_sentCount (s : State) (k : Nat) (c : Scull) : (putScull s k c).sentCount = s.sentCount := (rfl)
@[simp] theorem putScull_ringSeq (s : State) (k : Nat) (c : Scull) : (putScull s k c).ringSeq = s.ringSeq := (rfl)
@[simp] theorem putScull_ringSince (s : State) (k : Nat) (c : Scull) : (putScull s k c).ringSince = s.ringSince := (rfl)
@[simp] theorem putScull_winOpen (s : State) (k : Nat) (c : Scull) : (putScull s k c).winOpen = s.winOpen := (rfl)
@[simp] theorem putScull_winCount (s : State) (k : Nat) (c : Scull) : (putScull s k c).winCount = s.winCount := (rfl)
@[simp] theorem putScull_perst (s : State) (k : Nat) (c : Scull) : (putScull s k c).perst = s.perst := (rfl)
@[simp] theorem putScull_jtagIr (s : State) (k : Nat) (c : Scull) : (putScull s k c).jtagIr = s.jtagIr := (rfl)
@[simp] theorem putScull_holding (s : State) (k : Nat) (c : Scull) : (putScull s k c).holding = s.holding := (rfl)

@[simp] theorem putInst_pending (s : State) (k : Nat) (c : Inst) : (putInst s k c).pending = s.pending := (rfl)
@[simp] theorem putInst_now (s : State) (k : Nat) (c : Inst) : (putInst s k c).now = s.now := (rfl)
@[simp] theorem putInst_free (s : State) (k : Nat) (c : Inst) : (putInst s k c).free = s.free := (rfl)
@[simp] theorem putInst_regs (s : State) (k : Nat) (c : Inst) : (putInst s k c).regs = s.regs := (rfl)
@[simp] theorem putInst_rdData (s : State) (k : Nat) (c : Inst) : (putInst s k c).rdData = s.rdData := (rfl)
@[simp] theorem putInst_mem (s : State) (k : Nat) (c : Inst) : (putInst s k c).mem = s.mem := (rfl)
@[simp] theorem putInst_poisoned (s : State) (k : Nat) (c : Inst) : (putInst s k c).poisoned = s.poisoned := (rfl)
@[simp] theorem putInst_everInRange (s : State) (k : Nat) (c : Inst) : (putInst s k c).everInRange = s.everInRange := (rfl)
@[simp] theorem putInst_inReset (s : State) (k : Nat) (c : Inst) : (putInst s k c).inReset = s.inReset := (rfl)
@[simp] theorem putInst_railReset (s : State) (k : Nat) (c : Inst) : (putInst s k c).railReset = s.railReset := (rfl)
@[simp] theorem putInst_resetAt (s : State) (k : Nat) (c : Inst) : (putInst s k c).resetAt = s.resetAt := (rfl)
@[simp] theorem putInst_stageAt (s : State) (k : Nat) (c : Inst) : (putInst s k c).stageAt = s.stageAt := (rfl)
@[simp] theorem putInst_bootSlot (s : State) (k : Nat) (c : Inst) : (putInst s k c).bootSlot = s.bootSlot := (rfl)
@[simp] theorem putInst_stuck (s : State) (k : Nat) (c : Inst) : (putInst s k c).stuck = s.stuck := (rfl)
@[simp] theorem putInst_linksUp (s : State) (k : Nat) (c : Inst) : (putInst s k c).linksUp = s.linksUp := (rfl)
@[simp] theorem putInst_driven (s : State) (k : Nat) (c : Inst) : (putInst s k c).driven = s.driven := (rfl)
@[simp] theorem putInst_imgShown (s : State) (k : Nat) (c : Inst) : (putInst s k c).imgShown = s.imgShown := (rfl)
@[simp] theorem putInst_run (s : State) (k : Nat) (c : Inst) : (putInst s k c).run = s.run := (rfl)
@[simp] theorem putInst_firstFinish (s : State) (k : Nat) (c : Inst) : (putInst s k c).firstFinish = s.firstFinish := (rfl)
@[simp] theorem putInst_hbmTrained (s : State) (k : Nat) (c : Inst) : (putInst s k c).hbmTrained = s.hbmTrained := (rfl)
@[simp] theorem putInst_debugHold (s : State) (k : Nat) (c : Inst) : (putInst s k c).debugHold = s.debugHold := (rfl)
@[simp] theorem putInst_avsFails (s : State) (k : Nat) (c : Inst) : (putInst s k c).avsFails = s.avsFails := (rfl)
@[simp] theorem putInst_avsDead (s : State) (k : Nat) (c : Inst) : (putInst s k c).avsDead = s.avsDead := (rfl)
@[simp] theorem putInst_vddMv (s : State) (k : Nat) (c : Inst) : (putInst s k c).vddMv = s.vddMv := (rfl)
@[simp] theorem putInst_avsChange (s : State) (k : Nat) (c : Inst) : (putInst s k c).avsChange = s.avsChange := (rfl)
@[simp] theorem putInst_avsRaise (s : State) (k : Nat) (c : Inst) : (putInst s k c).avsRaise = s.avsRaise := (rfl)
@[simp] theorem putInst_sternMhz (s : State) (k : Nat) (c : Inst) : (putInst s k c).sternMhz = s.sternMhz := (rfl)
@[simp] theorem putInst_fuses (s : State) (k : Nat) (c : Inst) : (putInst s k c).fuses = s.fuses := (rfl)
@[simp] theorem putInst_flash (s : State) (k : Nat) (c : Inst) : (putInst s k c).flash = s.flash := (rfl)
@[simp] theorem putInst_img (s : State) (k : Nat) (c : Inst) : (putInst s k c).img = s.img := (rfl)
@[simp] theorem putInst_contentKey (s : State) (k : Nat) (c : Inst) : (putInst s k c).contentKey = s.contentKey := (rfl)
@[simp] theorem putInst_targetKey (s : State) (k : Nat) (c : Inst) : (putInst s k c).targetKey = s.targetKey := (rfl)
@[simp] theorem putInst_admitted (s : State) (k : Nat) (c : Inst) : (putInst s k c).admitted = s.admitted := (rfl)
@[simp] theorem putInst_lightX (s : State) (k : Nat) (c : Inst) : (putInst s k c).lightX = s.lightX := (rfl)
@[simp] theorem putInst_lightL (s : State) (k : Nat) (c : Inst) : (putInst s k c).lightL = s.lightL := (rfl)
@[simp] theorem putInst_uart (s : State) (k : Nat) (c : Inst) : (putInst s k c).uart = s.uart := (rfl)
@[simp] theorem putInst_uartTx (s : State) (k : Nat) (c : Inst) : (putInst s k c).uartTx = s.uartTx := (rfl)
@[simp] theorem putInst_timerOn (s : State) (k : Nat) (c : Inst) : (putInst s k c).timerOn = s.timerOn := (rfl)
@[simp] theorem putInst_refLost (s : State) (k : Nat) (c : Inst) : (putInst s k c).refLost = s.refLost := (rfl)
@[simp] theorem putInst_lossNs (s : State) (k : Nat) (c : Inst) : (putInst s k c).lossNs = s.lossNs := (rfl)
@[simp] theorem putInst_floorAt (s : State) (k : Nat) (c : Inst) : (putInst s k c).floorAt = s.floorAt := (rfl)
@[simp] theorem putInst_rdEp (s : State) (k : Nat) (c : Inst) : (putInst s k c).rdEp = s.rdEp := (rfl)
@[simp] theorem putInst_strokeNo (s : State) (k : Nat) (c : Inst) : (putInst s k c).strokeNo = s.strokeNo := (rfl)
@[simp] theorem putInst_catchAt (s : State) (k : Nat) (c : Inst) : (putInst s k c).catchAt = s.catchAt := (rfl)
@[simp] theorem putInst_lockNs (s : State) (k : Nat) (c : Inst) : (putInst s k c).lockNs = s.lockNs := (rfl)
@[simp] theorem putInst_edges (s : State) (k : Nat) (c : Inst) : (putInst s k c).edges = s.edges := (rfl)
@[simp] theorem putInst_edgeAt (s : State) (k : Nat) (c : Inst) : (putInst s k c).edgeAt = s.edgeAt := (rfl)
@[simp] theorem putInst_phase (s : State) (k : Nat) (c : Inst) : (putInst s k c).phase = s.phase := (rfl)
@[simp] theorem putInst_syncOut (s : State) (k : Nat) (c : Inst) : (putInst s k c).syncOut = s.syncOut := (rfl)
@[simp] theorem putInst_acqRun (s : State) (k : Nat) (c : Inst) : (putInst s k c).acqRun = s.acqRun := (rfl)
@[simp] theorem putInst_everLocked (s : State) (k : Nat) (c : Inst) : (putInst s k c).everLocked = s.everLocked := (rfl)
@[simp] theorem putInst_earlyEdge (s : State) (k : Nat) (c : Inst) : (putInst s k c).earlyEdge = s.earlyEdge := (rfl)
@[simp] theorem putInst_lateEdge (s : State) (k : Nat) (c : Inst) : (putInst s k c).lateEdge = s.lateEdge := (rfl)
@[simp] theorem putInst_fsRun (s : State) (k : Nat) (c : Inst) : (putInst s k c).fsRun = s.fsRun := (rfl)
@[simp] theorem putInst_fsLast (s : State) (k : Nat) (c : Inst) : (putInst s k c).fsLast = s.fsLast := (rfl)
@[simp] theorem putInst_recovery (s : State) (k : Nat) (c : Inst) : (putInst s k c).recovery = s.recovery := (rfl)
@[simp] theorem putInst_ckptWait (s : State) (k : Nat) (c : Inst) : (putInst s k c).ckptWait = s.ckptWait := (rfl)
@[simp] theorem putInst_chans (s : State) (k : Nat) (c : Inst) : (putInst s k c).chans = s.chans := (rfl)
@[simp] theorem putInst_staged (s : State) (k : Nat) (c : Inst) : (putInst s k c).staged = s.staged := (rfl)
@[simp] theorem putInst_words (s : State) (k : Nat) (c : Inst) : (putInst s k c).words = s.words := (rfl)
@[simp] theorem putInst_lateWords (s : State) (k : Nat) (c : Inst) : (putInst s k c).lateWords = s.lateWords := (rfl)
@[simp] theorem putInst_mclkFlt (s : State) (k : Nat) (c : Inst) : (putInst s k c).mclkFlt = s.mclkFlt := (rfl)
@[simp] theorem putInst_cal (s : State) (k : Nat) (c : Inst) : (putInst s k c).cal = s.cal := (rfl)
@[simp] theorem putInst_calEnd (s : State) (k : Nat) (c : Inst) : (putInst s k c).calEnd = s.calEnd := (rfl)
@[simp] theorem putInst_viepeLow (s : State) (k : Nat) (c : Inst) : (putInst s k c).viepeLow = s.viepeLow := (rfl)
@[simp] theorem putInst_ofsLoaded (s : State) (k : Nat) (c : Inst) : (putInst s k c).ofsLoaded = s.ofsLoaded := (rfl)
@[simp] theorem putInst_ofsPending (s : State) (k : Nat) (c : Inst) : (putInst s k c).ofsPending = s.ofsPending := (rfl)
@[simp] theorem putInst_bridgeStroke (s : State) (k : Nat) (c : Inst) : (putInst s k c).bridgeStroke = s.bridgeStroke := (rfl)
@[simp] theorem putInst_bridgeClean (s : State) (k : Nat) (c : Inst) : (putInst s k c).bridgeClean = s.bridgeClean := (rfl)
@[simp] theorem putInst_links (s : State) (k : Nat) (c : Inst) : (putInst s k c).links = s.links := (rfl)
@[simp] theorem putInst_claiming (s : State) (k : Nat) (c : Inst) : (putInst s k c).claiming = s.claiming := (rfl)
@[simp] theorem putInst_lines (s : State) (k : Nat) (c : Inst) : (putInst s k c).lines = s.lines := (rfl)
@[simp] theorem putInst_pinFaultN (s : State) (k : Nat) (c : Inst) : (putInst s k c).pinFaultN = s.pinFaultN := (rfl)
@[simp] theorem putInst_mbox (s : State) (k : Nat) (c : Inst) : (putInst s k c).mbox = s.mbox := (rfl)
@[simp] theorem putInst_taken (s : State) (k : Nat) (c : Inst) : (putInst s k c).taken = s.taken := (rfl)
@[simp] theorem putInst_long (s : State) (k : Nat) (c : Inst) : (putInst s k c).long = s.long := (rfl)
@[simp] theorem putInst_notices (s : State) (k : Nat) (c : Inst) : (putInst s k c).notices = s.notices := (rfl)
@[simp] theorem putInst_challenge (s : State) (k : Nat) (c : Inst) : (putInst s k c).challenge = s.challenge := (rfl)
@[simp] theorem putInst_authFails (s : State) (k : Nat) (c : Inst) : (putInst s k c).authFails = s.authFails := (rfl)
@[simp] theorem putInst_hostRing (s : State) (k : Nat) (c : Inst) : (putInst s k c).hostRing = s.hostRing := (rfl)
@[simp] theorem putInst_debugAt (s : State) (k : Nat) (c : Inst) : (putInst s k c).debugAt = s.debugAt := (rfl)
@[simp] theorem putInst_debugDue (s : State) (k : Nat) (c : Inst) : (putInst s k c).debugDue = s.debugDue := (rfl)
@[simp] theorem putInst_aliveAt (s : State) (k : Nat) (c : Inst) : (putInst s k c).aliveAt = s.aliveAt := (rfl)
@[simp] theorem putInst_sternFaults (s : State) (k : Nat) (c : Inst) : (putInst s k c).sternFaults = s.sternFaults := (rfl)
@[simp] theorem putInst_sternRestart (s : State) (k : Nat) (c : Inst) : (putInst s k c).sternRestart = s.sternRestart := (rfl)
@[simp] theorem putInst_restarts (s : State) (k : Nat) (c : Inst) : (putInst s k c).restarts = s.restarts := (rfl)
@[simp] theorem putInst_ctxs (s : State) (k : Nat) (c : Inst) : (putInst s k c).ctxs = s.ctxs := (rfl)
@[simp] theorem putInst_sculls (s : State) (k : Nat) (c : Inst) : (putInst s k c).sculls = s.sculls := (rfl)
@[simp] theorem putInst_allot (s : State) (k : Nat) (c : Inst) : (putInst s k c).allot = s.allot := (rfl)
@[simp] theorem putInst_ceTimes (s : State) (k : Nat) (c : Inst) : (putInst s k c).ceTimes = s.ceTimes := (rfl)
@[simp] theorem putInst_readmit (s : State) (k : Nat) (c : Inst) : (putInst s k c).readmit = s.readmit := (rfl)
@[simp] theorem putInst_banks (s : State) (k : Nat) (c : Inst) : (putInst s k c).banks = s.banks := (rfl)
@[simp] theorem putInst_ports (s : State) (k : Nat) (c : Inst) : (putInst s k c).ports = s.ports := (rfl)
@[simp] theorem putInst_rchans (s : State) (k : Nat) (c : Inst) : (putInst s k c).rchans = s.rchans := (rfl)
@[simp] theorem putInst_heard (s : State) (k : Nat) (c : Inst) : (putInst s k c).heard = s.heard := (rfl)
@[simp] theorem putInst_heardPrev (s : State) (k : Nat) (c : Inst) : (putInst s k c).heardPrev = s.heardPrev := (rfl)
@[simp] theorem putInst_misses (s : State) (k : Nat) (c : Inst) : (putInst s k c).misses = s.misses := (rfl)
@[simp] theorem putInst_aliveFor (s : State) (k : Nat) (c : Inst) : (putInst s k c).aliveFor = s.aliveFor := (rfl)
@[simp] theorem putInst_slipRun (s : State) (k : Nat) (c : Inst) : (putInst s k c).slipRun = s.slipRun := (rfl)
@[simp] theorem putInst_okRun (s : State) (k : Nat) (c : Inst) : (putInst s k c).okRun = s.okRun := (rfl)
@[simp] theorem putInst_rsOfs (s : State) (k : Nat) (c : Inst) : (putInst s k c).rsOfs = s.rsOfs := (rfl)
@[simp] theorem putInst_mirrors (s : State) (k : Nat) (c : Inst) : (putInst s k c).mirrors = s.mirrors := (rfl)
@[simp] theorem putInst_chg (s : State) (k : Nat) (c : Inst) : (putInst s k c).chg = s.chg := (rfl)
@[simp] theorem putInst_staging (s : State) (k : Nat) (c : Inst) : (putInst s k c).staging = s.staging := (rfl)
@[simp] theorem putInst_msixTable (s : State) (k : Nat) (c : Inst) : (putInst s k c).msixTable = s.msixTable := (rfl)
@[simp] theorem putInst_pba (s : State) (k : Nat) (c : Inst) : (putInst s k c).pba = s.pba := (rfl)
@[simp] theorem putInst_msgAt (s : State) (k : Nat) (c : Inst) : (putInst s k c).msgAt = s.msgAt := (rfl)
@[simp] theorem putInst_msgWaiting (s : State) (k : Nat) (c : Inst) : (putInst s k c).msgWaiting = s.msgWaiting := (rfl)
@[simp] theorem putInst_sentCount (s : State) (k : Nat) (c : Inst) : (putInst s k c).sentCount = s.sentCount := (rfl)
@[simp] theorem putInst_ringSeq (s : State) (k : Nat) (c : Inst) : (putInst s k c).ringSeq = s.ringSeq := (rfl)
@[simp] theorem putInst_ringSince (s : State) (k : Nat) (c : Inst) : (putInst s k c).ringSince = s.ringSince := (rfl)
@[simp] theorem putInst_winOpen (s : State) (k : Nat) (c : Inst) : (putInst s k c).winOpen = s.winOpen := (rfl)
@[simp] theorem putInst_winCount (s : State) (k : Nat) (c : Inst) : (putInst s k c).winCount = s.winCount := (rfl)
@[simp] theorem putInst_perst (s : State) (k : Nat) (c : Inst) : (putInst s k c).perst = s.perst := (rfl)
@[simp] theorem putInst_jtagIr (s : State) (k : Nat) (c : Inst) : (putInst s k c).jtagIr = s.jtagIr := (rfl)
@[simp] theorem putInst_holding (s : State) (k : Nat) (c : Inst) : (putInst s k c).holding = s.holding := (rfl)

@[simp] theorem putBank_pending (s : State) (k : Nat) (c : Bank) : (putBank s k c).pending = s.pending := (rfl)
@[simp] theorem putBank_now (s : State) (k : Nat) (c : Bank) : (putBank s k c).now = s.now := (rfl)
@[simp] theorem putBank_free (s : State) (k : Nat) (c : Bank) : (putBank s k c).free = s.free := (rfl)
@[simp] theorem putBank_regs (s : State) (k : Nat) (c : Bank) : (putBank s k c).regs = s.regs := (rfl)
@[simp] theorem putBank_rdData (s : State) (k : Nat) (c : Bank) : (putBank s k c).rdData = s.rdData := (rfl)
@[simp] theorem putBank_mem (s : State) (k : Nat) (c : Bank) : (putBank s k c).mem = s.mem := (rfl)
@[simp] theorem putBank_poisoned (s : State) (k : Nat) (c : Bank) : (putBank s k c).poisoned = s.poisoned := (rfl)
@[simp] theorem putBank_everInRange (s : State) (k : Nat) (c : Bank) : (putBank s k c).everInRange = s.everInRange := (rfl)
@[simp] theorem putBank_inReset (s : State) (k : Nat) (c : Bank) : (putBank s k c).inReset = s.inReset := (rfl)
@[simp] theorem putBank_railReset (s : State) (k : Nat) (c : Bank) : (putBank s k c).railReset = s.railReset := (rfl)
@[simp] theorem putBank_resetAt (s : State) (k : Nat) (c : Bank) : (putBank s k c).resetAt = s.resetAt := (rfl)
@[simp] theorem putBank_stageAt (s : State) (k : Nat) (c : Bank) : (putBank s k c).stageAt = s.stageAt := (rfl)
@[simp] theorem putBank_bootSlot (s : State) (k : Nat) (c : Bank) : (putBank s k c).bootSlot = s.bootSlot := (rfl)
@[simp] theorem putBank_stuck (s : State) (k : Nat) (c : Bank) : (putBank s k c).stuck = s.stuck := (rfl)
@[simp] theorem putBank_linksUp (s : State) (k : Nat) (c : Bank) : (putBank s k c).linksUp = s.linksUp := (rfl)
@[simp] theorem putBank_driven (s : State) (k : Nat) (c : Bank) : (putBank s k c).driven = s.driven := (rfl)
@[simp] theorem putBank_imgShown (s : State) (k : Nat) (c : Bank) : (putBank s k c).imgShown = s.imgShown := (rfl)
@[simp] theorem putBank_run (s : State) (k : Nat) (c : Bank) : (putBank s k c).run = s.run := (rfl)
@[simp] theorem putBank_firstFinish (s : State) (k : Nat) (c : Bank) : (putBank s k c).firstFinish = s.firstFinish := (rfl)
@[simp] theorem putBank_hbmTrained (s : State) (k : Nat) (c : Bank) : (putBank s k c).hbmTrained = s.hbmTrained := (rfl)
@[simp] theorem putBank_debugHold (s : State) (k : Nat) (c : Bank) : (putBank s k c).debugHold = s.debugHold := (rfl)
@[simp] theorem putBank_avsFails (s : State) (k : Nat) (c : Bank) : (putBank s k c).avsFails = s.avsFails := (rfl)
@[simp] theorem putBank_avsDead (s : State) (k : Nat) (c : Bank) : (putBank s k c).avsDead = s.avsDead := (rfl)
@[simp] theorem putBank_vddMv (s : State) (k : Nat) (c : Bank) : (putBank s k c).vddMv = s.vddMv := (rfl)
@[simp] theorem putBank_avsChange (s : State) (k : Nat) (c : Bank) : (putBank s k c).avsChange = s.avsChange := (rfl)
@[simp] theorem putBank_avsRaise (s : State) (k : Nat) (c : Bank) : (putBank s k c).avsRaise = s.avsRaise := (rfl)
@[simp] theorem putBank_sternMhz (s : State) (k : Nat) (c : Bank) : (putBank s k c).sternMhz = s.sternMhz := (rfl)
@[simp] theorem putBank_fuses (s : State) (k : Nat) (c : Bank) : (putBank s k c).fuses = s.fuses := (rfl)
@[simp] theorem putBank_flash (s : State) (k : Nat) (c : Bank) : (putBank s k c).flash = s.flash := (rfl)
@[simp] theorem putBank_img (s : State) (k : Nat) (c : Bank) : (putBank s k c).img = s.img := (rfl)
@[simp] theorem putBank_contentKey (s : State) (k : Nat) (c : Bank) : (putBank s k c).contentKey = s.contentKey := (rfl)
@[simp] theorem putBank_targetKey (s : State) (k : Nat) (c : Bank) : (putBank s k c).targetKey = s.targetKey := (rfl)
@[simp] theorem putBank_admitted (s : State) (k : Nat) (c : Bank) : (putBank s k c).admitted = s.admitted := (rfl)
@[simp] theorem putBank_lightX (s : State) (k : Nat) (c : Bank) : (putBank s k c).lightX = s.lightX := (rfl)
@[simp] theorem putBank_lightL (s : State) (k : Nat) (c : Bank) : (putBank s k c).lightL = s.lightL := (rfl)
@[simp] theorem putBank_uart (s : State) (k : Nat) (c : Bank) : (putBank s k c).uart = s.uart := (rfl)
@[simp] theorem putBank_uartTx (s : State) (k : Nat) (c : Bank) : (putBank s k c).uartTx = s.uartTx := (rfl)
@[simp] theorem putBank_timerOn (s : State) (k : Nat) (c : Bank) : (putBank s k c).timerOn = s.timerOn := (rfl)
@[simp] theorem putBank_refLost (s : State) (k : Nat) (c : Bank) : (putBank s k c).refLost = s.refLost := (rfl)
@[simp] theorem putBank_lossNs (s : State) (k : Nat) (c : Bank) : (putBank s k c).lossNs = s.lossNs := (rfl)
@[simp] theorem putBank_floorAt (s : State) (k : Nat) (c : Bank) : (putBank s k c).floorAt = s.floorAt := (rfl)
@[simp] theorem putBank_rdEp (s : State) (k : Nat) (c : Bank) : (putBank s k c).rdEp = s.rdEp := (rfl)
@[simp] theorem putBank_strokeNo (s : State) (k : Nat) (c : Bank) : (putBank s k c).strokeNo = s.strokeNo := (rfl)
@[simp] theorem putBank_catchAt (s : State) (k : Nat) (c : Bank) : (putBank s k c).catchAt = s.catchAt := (rfl)
@[simp] theorem putBank_lockNs (s : State) (k : Nat) (c : Bank) : (putBank s k c).lockNs = s.lockNs := (rfl)
@[simp] theorem putBank_edges (s : State) (k : Nat) (c : Bank) : (putBank s k c).edges = s.edges := (rfl)
@[simp] theorem putBank_edgeAt (s : State) (k : Nat) (c : Bank) : (putBank s k c).edgeAt = s.edgeAt := (rfl)
@[simp] theorem putBank_phase (s : State) (k : Nat) (c : Bank) : (putBank s k c).phase = s.phase := (rfl)
@[simp] theorem putBank_syncOut (s : State) (k : Nat) (c : Bank) : (putBank s k c).syncOut = s.syncOut := (rfl)
@[simp] theorem putBank_acqRun (s : State) (k : Nat) (c : Bank) : (putBank s k c).acqRun = s.acqRun := (rfl)
@[simp] theorem putBank_everLocked (s : State) (k : Nat) (c : Bank) : (putBank s k c).everLocked = s.everLocked := (rfl)
@[simp] theorem putBank_earlyEdge (s : State) (k : Nat) (c : Bank) : (putBank s k c).earlyEdge = s.earlyEdge := (rfl)
@[simp] theorem putBank_lateEdge (s : State) (k : Nat) (c : Bank) : (putBank s k c).lateEdge = s.lateEdge := (rfl)
@[simp] theorem putBank_fsRun (s : State) (k : Nat) (c : Bank) : (putBank s k c).fsRun = s.fsRun := (rfl)
@[simp] theorem putBank_fsLast (s : State) (k : Nat) (c : Bank) : (putBank s k c).fsLast = s.fsLast := (rfl)
@[simp] theorem putBank_recovery (s : State) (k : Nat) (c : Bank) : (putBank s k c).recovery = s.recovery := (rfl)
@[simp] theorem putBank_ckptWait (s : State) (k : Nat) (c : Bank) : (putBank s k c).ckptWait = s.ckptWait := (rfl)
@[simp] theorem putBank_chans (s : State) (k : Nat) (c : Bank) : (putBank s k c).chans = s.chans := (rfl)
@[simp] theorem putBank_staged (s : State) (k : Nat) (c : Bank) : (putBank s k c).staged = s.staged := (rfl)
@[simp] theorem putBank_words (s : State) (k : Nat) (c : Bank) : (putBank s k c).words = s.words := (rfl)
@[simp] theorem putBank_lateWords (s : State) (k : Nat) (c : Bank) : (putBank s k c).lateWords = s.lateWords := (rfl)
@[simp] theorem putBank_mclkFlt (s : State) (k : Nat) (c : Bank) : (putBank s k c).mclkFlt = s.mclkFlt := (rfl)
@[simp] theorem putBank_cal (s : State) (k : Nat) (c : Bank) : (putBank s k c).cal = s.cal := (rfl)
@[simp] theorem putBank_calEnd (s : State) (k : Nat) (c : Bank) : (putBank s k c).calEnd = s.calEnd := (rfl)
@[simp] theorem putBank_viepeLow (s : State) (k : Nat) (c : Bank) : (putBank s k c).viepeLow = s.viepeLow := (rfl)
@[simp] theorem putBank_ofsLoaded (s : State) (k : Nat) (c : Bank) : (putBank s k c).ofsLoaded = s.ofsLoaded := (rfl)
@[simp] theorem putBank_ofsPending (s : State) (k : Nat) (c : Bank) : (putBank s k c).ofsPending = s.ofsPending := (rfl)
@[simp] theorem putBank_bridgeStroke (s : State) (k : Nat) (c : Bank) : (putBank s k c).bridgeStroke = s.bridgeStroke := (rfl)
@[simp] theorem putBank_bridgeClean (s : State) (k : Nat) (c : Bank) : (putBank s k c).bridgeClean = s.bridgeClean := (rfl)
@[simp] theorem putBank_links (s : State) (k : Nat) (c : Bank) : (putBank s k c).links = s.links := (rfl)
@[simp] theorem putBank_claiming (s : State) (k : Nat) (c : Bank) : (putBank s k c).claiming = s.claiming := (rfl)
@[simp] theorem putBank_lines (s : State) (k : Nat) (c : Bank) : (putBank s k c).lines = s.lines := (rfl)
@[simp] theorem putBank_pinFaultN (s : State) (k : Nat) (c : Bank) : (putBank s k c).pinFaultN = s.pinFaultN := (rfl)
@[simp] theorem putBank_mbox (s : State) (k : Nat) (c : Bank) : (putBank s k c).mbox = s.mbox := (rfl)
@[simp] theorem putBank_taken (s : State) (k : Nat) (c : Bank) : (putBank s k c).taken = s.taken := (rfl)
@[simp] theorem putBank_long (s : State) (k : Nat) (c : Bank) : (putBank s k c).long = s.long := (rfl)
@[simp] theorem putBank_notices (s : State) (k : Nat) (c : Bank) : (putBank s k c).notices = s.notices := (rfl)
@[simp] theorem putBank_challenge (s : State) (k : Nat) (c : Bank) : (putBank s k c).challenge = s.challenge := (rfl)
@[simp] theorem putBank_authFails (s : State) (k : Nat) (c : Bank) : (putBank s k c).authFails = s.authFails := (rfl)
@[simp] theorem putBank_hostRing (s : State) (k : Nat) (c : Bank) : (putBank s k c).hostRing = s.hostRing := (rfl)
@[simp] theorem putBank_debugAt (s : State) (k : Nat) (c : Bank) : (putBank s k c).debugAt = s.debugAt := (rfl)
@[simp] theorem putBank_debugDue (s : State) (k : Nat) (c : Bank) : (putBank s k c).debugDue = s.debugDue := (rfl)
@[simp] theorem putBank_aliveAt (s : State) (k : Nat) (c : Bank) : (putBank s k c).aliveAt = s.aliveAt := (rfl)
@[simp] theorem putBank_sternFaults (s : State) (k : Nat) (c : Bank) : (putBank s k c).sternFaults = s.sternFaults := (rfl)
@[simp] theorem putBank_sternRestart (s : State) (k : Nat) (c : Bank) : (putBank s k c).sternRestart = s.sternRestart := (rfl)
@[simp] theorem putBank_restarts (s : State) (k : Nat) (c : Bank) : (putBank s k c).restarts = s.restarts := (rfl)
@[simp] theorem putBank_ctxs (s : State) (k : Nat) (c : Bank) : (putBank s k c).ctxs = s.ctxs := (rfl)
@[simp] theorem putBank_sculls (s : State) (k : Nat) (c : Bank) : (putBank s k c).sculls = s.sculls := (rfl)
@[simp] theorem putBank_allot (s : State) (k : Nat) (c : Bank) : (putBank s k c).allot = s.allot := (rfl)
@[simp] theorem putBank_ceTimes (s : State) (k : Nat) (c : Bank) : (putBank s k c).ceTimes = s.ceTimes := (rfl)
@[simp] theorem putBank_insts (s : State) (k : Nat) (c : Bank) : (putBank s k c).insts = s.insts := (rfl)
@[simp] theorem putBank_readmit (s : State) (k : Nat) (c : Bank) : (putBank s k c).readmit = s.readmit := (rfl)
@[simp] theorem putBank_ports (s : State) (k : Nat) (c : Bank) : (putBank s k c).ports = s.ports := (rfl)
@[simp] theorem putBank_rchans (s : State) (k : Nat) (c : Bank) : (putBank s k c).rchans = s.rchans := (rfl)
@[simp] theorem putBank_heard (s : State) (k : Nat) (c : Bank) : (putBank s k c).heard = s.heard := (rfl)
@[simp] theorem putBank_heardPrev (s : State) (k : Nat) (c : Bank) : (putBank s k c).heardPrev = s.heardPrev := (rfl)
@[simp] theorem putBank_misses (s : State) (k : Nat) (c : Bank) : (putBank s k c).misses = s.misses := (rfl)
@[simp] theorem putBank_aliveFor (s : State) (k : Nat) (c : Bank) : (putBank s k c).aliveFor = s.aliveFor := (rfl)
@[simp] theorem putBank_slipRun (s : State) (k : Nat) (c : Bank) : (putBank s k c).slipRun = s.slipRun := (rfl)
@[simp] theorem putBank_okRun (s : State) (k : Nat) (c : Bank) : (putBank s k c).okRun = s.okRun := (rfl)
@[simp] theorem putBank_rsOfs (s : State) (k : Nat) (c : Bank) : (putBank s k c).rsOfs = s.rsOfs := (rfl)
@[simp] theorem putBank_mirrors (s : State) (k : Nat) (c : Bank) : (putBank s k c).mirrors = s.mirrors := (rfl)
@[simp] theorem putBank_chg (s : State) (k : Nat) (c : Bank) : (putBank s k c).chg = s.chg := (rfl)
@[simp] theorem putBank_staging (s : State) (k : Nat) (c : Bank) : (putBank s k c).staging = s.staging := (rfl)
@[simp] theorem putBank_msixTable (s : State) (k : Nat) (c : Bank) : (putBank s k c).msixTable = s.msixTable := (rfl)
@[simp] theorem putBank_pba (s : State) (k : Nat) (c : Bank) : (putBank s k c).pba = s.pba := (rfl)
@[simp] theorem putBank_msgAt (s : State) (k : Nat) (c : Bank) : (putBank s k c).msgAt = s.msgAt := (rfl)
@[simp] theorem putBank_msgWaiting (s : State) (k : Nat) (c : Bank) : (putBank s k c).msgWaiting = s.msgWaiting := (rfl)
@[simp] theorem putBank_sentCount (s : State) (k : Nat) (c : Bank) : (putBank s k c).sentCount = s.sentCount := (rfl)
@[simp] theorem putBank_ringSeq (s : State) (k : Nat) (c : Bank) : (putBank s k c).ringSeq = s.ringSeq := (rfl)
@[simp] theorem putBank_ringSince (s : State) (k : Nat) (c : Bank) : (putBank s k c).ringSince = s.ringSince := (rfl)
@[simp] theorem putBank_winOpen (s : State) (k : Nat) (c : Bank) : (putBank s k c).winOpen = s.winOpen := (rfl)
@[simp] theorem putBank_winCount (s : State) (k : Nat) (c : Bank) : (putBank s k c).winCount = s.winCount := (rfl)
@[simp] theorem putBank_perst (s : State) (k : Nat) (c : Bank) : (putBank s k c).perst = s.perst := (rfl)
@[simp] theorem putBank_jtagIr (s : State) (k : Nat) (c : Bank) : (putBank s k c).jtagIr = s.jtagIr := (rfl)
@[simp] theorem putBank_holding (s : State) (k : Nat) (c : Bank) : (putBank s k c).holding = s.holding := (rfl)

@[simp] theorem putPort_pending (s : State) (k : Nat) (c : Port) : (putPort s k c).pending = s.pending := (rfl)
@[simp] theorem putPort_now (s : State) (k : Nat) (c : Port) : (putPort s k c).now = s.now := (rfl)
@[simp] theorem putPort_free (s : State) (k : Nat) (c : Port) : (putPort s k c).free = s.free := (rfl)
@[simp] theorem putPort_regs (s : State) (k : Nat) (c : Port) : (putPort s k c).regs = s.regs := (rfl)
@[simp] theorem putPort_rdData (s : State) (k : Nat) (c : Port) : (putPort s k c).rdData = s.rdData := (rfl)
@[simp] theorem putPort_mem (s : State) (k : Nat) (c : Port) : (putPort s k c).mem = s.mem := (rfl)
@[simp] theorem putPort_poisoned (s : State) (k : Nat) (c : Port) : (putPort s k c).poisoned = s.poisoned := (rfl)
@[simp] theorem putPort_everInRange (s : State) (k : Nat) (c : Port) : (putPort s k c).everInRange = s.everInRange := (rfl)
@[simp] theorem putPort_inReset (s : State) (k : Nat) (c : Port) : (putPort s k c).inReset = s.inReset := (rfl)
@[simp] theorem putPort_railReset (s : State) (k : Nat) (c : Port) : (putPort s k c).railReset = s.railReset := (rfl)
@[simp] theorem putPort_resetAt (s : State) (k : Nat) (c : Port) : (putPort s k c).resetAt = s.resetAt := (rfl)
@[simp] theorem putPort_stageAt (s : State) (k : Nat) (c : Port) : (putPort s k c).stageAt = s.stageAt := (rfl)
@[simp] theorem putPort_bootSlot (s : State) (k : Nat) (c : Port) : (putPort s k c).bootSlot = s.bootSlot := (rfl)
@[simp] theorem putPort_stuck (s : State) (k : Nat) (c : Port) : (putPort s k c).stuck = s.stuck := (rfl)
@[simp] theorem putPort_linksUp (s : State) (k : Nat) (c : Port) : (putPort s k c).linksUp = s.linksUp := (rfl)
@[simp] theorem putPort_driven (s : State) (k : Nat) (c : Port) : (putPort s k c).driven = s.driven := (rfl)
@[simp] theorem putPort_imgShown (s : State) (k : Nat) (c : Port) : (putPort s k c).imgShown = s.imgShown := (rfl)
@[simp] theorem putPort_run (s : State) (k : Nat) (c : Port) : (putPort s k c).run = s.run := (rfl)
@[simp] theorem putPort_firstFinish (s : State) (k : Nat) (c : Port) : (putPort s k c).firstFinish = s.firstFinish := (rfl)
@[simp] theorem putPort_hbmTrained (s : State) (k : Nat) (c : Port) : (putPort s k c).hbmTrained = s.hbmTrained := (rfl)
@[simp] theorem putPort_debugHold (s : State) (k : Nat) (c : Port) : (putPort s k c).debugHold = s.debugHold := (rfl)
@[simp] theorem putPort_avsFails (s : State) (k : Nat) (c : Port) : (putPort s k c).avsFails = s.avsFails := (rfl)
@[simp] theorem putPort_avsDead (s : State) (k : Nat) (c : Port) : (putPort s k c).avsDead = s.avsDead := (rfl)
@[simp] theorem putPort_vddMv (s : State) (k : Nat) (c : Port) : (putPort s k c).vddMv = s.vddMv := (rfl)
@[simp] theorem putPort_avsChange (s : State) (k : Nat) (c : Port) : (putPort s k c).avsChange = s.avsChange := (rfl)
@[simp] theorem putPort_avsRaise (s : State) (k : Nat) (c : Port) : (putPort s k c).avsRaise = s.avsRaise := (rfl)
@[simp] theorem putPort_sternMhz (s : State) (k : Nat) (c : Port) : (putPort s k c).sternMhz = s.sternMhz := (rfl)
@[simp] theorem putPort_fuses (s : State) (k : Nat) (c : Port) : (putPort s k c).fuses = s.fuses := (rfl)
@[simp] theorem putPort_flash (s : State) (k : Nat) (c : Port) : (putPort s k c).flash = s.flash := (rfl)
@[simp] theorem putPort_img (s : State) (k : Nat) (c : Port) : (putPort s k c).img = s.img := (rfl)
@[simp] theorem putPort_contentKey (s : State) (k : Nat) (c : Port) : (putPort s k c).contentKey = s.contentKey := (rfl)
@[simp] theorem putPort_targetKey (s : State) (k : Nat) (c : Port) : (putPort s k c).targetKey = s.targetKey := (rfl)
@[simp] theorem putPort_admitted (s : State) (k : Nat) (c : Port) : (putPort s k c).admitted = s.admitted := (rfl)
@[simp] theorem putPort_lightX (s : State) (k : Nat) (c : Port) : (putPort s k c).lightX = s.lightX := (rfl)
@[simp] theorem putPort_lightL (s : State) (k : Nat) (c : Port) : (putPort s k c).lightL = s.lightL := (rfl)
@[simp] theorem putPort_uart (s : State) (k : Nat) (c : Port) : (putPort s k c).uart = s.uart := (rfl)
@[simp] theorem putPort_uartTx (s : State) (k : Nat) (c : Port) : (putPort s k c).uartTx = s.uartTx := (rfl)
@[simp] theorem putPort_timerOn (s : State) (k : Nat) (c : Port) : (putPort s k c).timerOn = s.timerOn := (rfl)
@[simp] theorem putPort_refLost (s : State) (k : Nat) (c : Port) : (putPort s k c).refLost = s.refLost := (rfl)
@[simp] theorem putPort_lossNs (s : State) (k : Nat) (c : Port) : (putPort s k c).lossNs = s.lossNs := (rfl)
@[simp] theorem putPort_floorAt (s : State) (k : Nat) (c : Port) : (putPort s k c).floorAt = s.floorAt := (rfl)
@[simp] theorem putPort_rdEp (s : State) (k : Nat) (c : Port) : (putPort s k c).rdEp = s.rdEp := (rfl)
@[simp] theorem putPort_strokeNo (s : State) (k : Nat) (c : Port) : (putPort s k c).strokeNo = s.strokeNo := (rfl)
@[simp] theorem putPort_catchAt (s : State) (k : Nat) (c : Port) : (putPort s k c).catchAt = s.catchAt := (rfl)
@[simp] theorem putPort_lockNs (s : State) (k : Nat) (c : Port) : (putPort s k c).lockNs = s.lockNs := (rfl)
@[simp] theorem putPort_edges (s : State) (k : Nat) (c : Port) : (putPort s k c).edges = s.edges := (rfl)
@[simp] theorem putPort_edgeAt (s : State) (k : Nat) (c : Port) : (putPort s k c).edgeAt = s.edgeAt := (rfl)
@[simp] theorem putPort_phase (s : State) (k : Nat) (c : Port) : (putPort s k c).phase = s.phase := (rfl)
@[simp] theorem putPort_syncOut (s : State) (k : Nat) (c : Port) : (putPort s k c).syncOut = s.syncOut := (rfl)
@[simp] theorem putPort_acqRun (s : State) (k : Nat) (c : Port) : (putPort s k c).acqRun = s.acqRun := (rfl)
@[simp] theorem putPort_everLocked (s : State) (k : Nat) (c : Port) : (putPort s k c).everLocked = s.everLocked := (rfl)
@[simp] theorem putPort_earlyEdge (s : State) (k : Nat) (c : Port) : (putPort s k c).earlyEdge = s.earlyEdge := (rfl)
@[simp] theorem putPort_lateEdge (s : State) (k : Nat) (c : Port) : (putPort s k c).lateEdge = s.lateEdge := (rfl)
@[simp] theorem putPort_fsRun (s : State) (k : Nat) (c : Port) : (putPort s k c).fsRun = s.fsRun := (rfl)
@[simp] theorem putPort_fsLast (s : State) (k : Nat) (c : Port) : (putPort s k c).fsLast = s.fsLast := (rfl)
@[simp] theorem putPort_recovery (s : State) (k : Nat) (c : Port) : (putPort s k c).recovery = s.recovery := (rfl)
@[simp] theorem putPort_ckptWait (s : State) (k : Nat) (c : Port) : (putPort s k c).ckptWait = s.ckptWait := (rfl)
@[simp] theorem putPort_chans (s : State) (k : Nat) (c : Port) : (putPort s k c).chans = s.chans := (rfl)
@[simp] theorem putPort_staged (s : State) (k : Nat) (c : Port) : (putPort s k c).staged = s.staged := (rfl)
@[simp] theorem putPort_words (s : State) (k : Nat) (c : Port) : (putPort s k c).words = s.words := (rfl)
@[simp] theorem putPort_lateWords (s : State) (k : Nat) (c : Port) : (putPort s k c).lateWords = s.lateWords := (rfl)
@[simp] theorem putPort_mclkFlt (s : State) (k : Nat) (c : Port) : (putPort s k c).mclkFlt = s.mclkFlt := (rfl)
@[simp] theorem putPort_cal (s : State) (k : Nat) (c : Port) : (putPort s k c).cal = s.cal := (rfl)
@[simp] theorem putPort_calEnd (s : State) (k : Nat) (c : Port) : (putPort s k c).calEnd = s.calEnd := (rfl)
@[simp] theorem putPort_viepeLow (s : State) (k : Nat) (c : Port) : (putPort s k c).viepeLow = s.viepeLow := (rfl)
@[simp] theorem putPort_ofsLoaded (s : State) (k : Nat) (c : Port) : (putPort s k c).ofsLoaded = s.ofsLoaded := (rfl)
@[simp] theorem putPort_ofsPending (s : State) (k : Nat) (c : Port) : (putPort s k c).ofsPending = s.ofsPending := (rfl)
@[simp] theorem putPort_bridgeStroke (s : State) (k : Nat) (c : Port) : (putPort s k c).bridgeStroke = s.bridgeStroke := (rfl)
@[simp] theorem putPort_bridgeClean (s : State) (k : Nat) (c : Port) : (putPort s k c).bridgeClean = s.bridgeClean := (rfl)
@[simp] theorem putPort_links (s : State) (k : Nat) (c : Port) : (putPort s k c).links = s.links := (rfl)
@[simp] theorem putPort_claiming (s : State) (k : Nat) (c : Port) : (putPort s k c).claiming = s.claiming := (rfl)
@[simp] theorem putPort_lines (s : State) (k : Nat) (c : Port) : (putPort s k c).lines = s.lines := (rfl)
@[simp] theorem putPort_pinFaultN (s : State) (k : Nat) (c : Port) : (putPort s k c).pinFaultN = s.pinFaultN := (rfl)
@[simp] theorem putPort_mbox (s : State) (k : Nat) (c : Port) : (putPort s k c).mbox = s.mbox := (rfl)
@[simp] theorem putPort_taken (s : State) (k : Nat) (c : Port) : (putPort s k c).taken = s.taken := (rfl)
@[simp] theorem putPort_long (s : State) (k : Nat) (c : Port) : (putPort s k c).long = s.long := (rfl)
@[simp] theorem putPort_notices (s : State) (k : Nat) (c : Port) : (putPort s k c).notices = s.notices := (rfl)
@[simp] theorem putPort_challenge (s : State) (k : Nat) (c : Port) : (putPort s k c).challenge = s.challenge := (rfl)
@[simp] theorem putPort_authFails (s : State) (k : Nat) (c : Port) : (putPort s k c).authFails = s.authFails := (rfl)
@[simp] theorem putPort_hostRing (s : State) (k : Nat) (c : Port) : (putPort s k c).hostRing = s.hostRing := (rfl)
@[simp] theorem putPort_debugAt (s : State) (k : Nat) (c : Port) : (putPort s k c).debugAt = s.debugAt := (rfl)
@[simp] theorem putPort_debugDue (s : State) (k : Nat) (c : Port) : (putPort s k c).debugDue = s.debugDue := (rfl)
@[simp] theorem putPort_aliveAt (s : State) (k : Nat) (c : Port) : (putPort s k c).aliveAt = s.aliveAt := (rfl)
@[simp] theorem putPort_sternFaults (s : State) (k : Nat) (c : Port) : (putPort s k c).sternFaults = s.sternFaults := (rfl)
@[simp] theorem putPort_sternRestart (s : State) (k : Nat) (c : Port) : (putPort s k c).sternRestart = s.sternRestart := (rfl)
@[simp] theorem putPort_restarts (s : State) (k : Nat) (c : Port) : (putPort s k c).restarts = s.restarts := (rfl)
@[simp] theorem putPort_ctxs (s : State) (k : Nat) (c : Port) : (putPort s k c).ctxs = s.ctxs := (rfl)
@[simp] theorem putPort_sculls (s : State) (k : Nat) (c : Port) : (putPort s k c).sculls = s.sculls := (rfl)
@[simp] theorem putPort_allot (s : State) (k : Nat) (c : Port) : (putPort s k c).allot = s.allot := (rfl)
@[simp] theorem putPort_ceTimes (s : State) (k : Nat) (c : Port) : (putPort s k c).ceTimes = s.ceTimes := (rfl)
@[simp] theorem putPort_insts (s : State) (k : Nat) (c : Port) : (putPort s k c).insts = s.insts := (rfl)
@[simp] theorem putPort_readmit (s : State) (k : Nat) (c : Port) : (putPort s k c).readmit = s.readmit := (rfl)
@[simp] theorem putPort_banks (s : State) (k : Nat) (c : Port) : (putPort s k c).banks = s.banks := (rfl)
@[simp] theorem putPort_rchans (s : State) (k : Nat) (c : Port) : (putPort s k c).rchans = s.rchans := (rfl)
@[simp] theorem putPort_heard (s : State) (k : Nat) (c : Port) : (putPort s k c).heard = s.heard := (rfl)
@[simp] theorem putPort_heardPrev (s : State) (k : Nat) (c : Port) : (putPort s k c).heardPrev = s.heardPrev := (rfl)
@[simp] theorem putPort_misses (s : State) (k : Nat) (c : Port) : (putPort s k c).misses = s.misses := (rfl)
@[simp] theorem putPort_aliveFor (s : State) (k : Nat) (c : Port) : (putPort s k c).aliveFor = s.aliveFor := (rfl)
@[simp] theorem putPort_slipRun (s : State) (k : Nat) (c : Port) : (putPort s k c).slipRun = s.slipRun := (rfl)
@[simp] theorem putPort_okRun (s : State) (k : Nat) (c : Port) : (putPort s k c).okRun = s.okRun := (rfl)
@[simp] theorem putPort_rsOfs (s : State) (k : Nat) (c : Port) : (putPort s k c).rsOfs = s.rsOfs := (rfl)
@[simp] theorem putPort_mirrors (s : State) (k : Nat) (c : Port) : (putPort s k c).mirrors = s.mirrors := (rfl)
@[simp] theorem putPort_chg (s : State) (k : Nat) (c : Port) : (putPort s k c).chg = s.chg := (rfl)
@[simp] theorem putPort_staging (s : State) (k : Nat) (c : Port) : (putPort s k c).staging = s.staging := (rfl)
@[simp] theorem putPort_msixTable (s : State) (k : Nat) (c : Port) : (putPort s k c).msixTable = s.msixTable := (rfl)
@[simp] theorem putPort_pba (s : State) (k : Nat) (c : Port) : (putPort s k c).pba = s.pba := (rfl)
@[simp] theorem putPort_msgAt (s : State) (k : Nat) (c : Port) : (putPort s k c).msgAt = s.msgAt := (rfl)
@[simp] theorem putPort_msgWaiting (s : State) (k : Nat) (c : Port) : (putPort s k c).msgWaiting = s.msgWaiting := (rfl)
@[simp] theorem putPort_sentCount (s : State) (k : Nat) (c : Port) : (putPort s k c).sentCount = s.sentCount := (rfl)
@[simp] theorem putPort_ringSeq (s : State) (k : Nat) (c : Port) : (putPort s k c).ringSeq = s.ringSeq := (rfl)
@[simp] theorem putPort_ringSince (s : State) (k : Nat) (c : Port) : (putPort s k c).ringSince = s.ringSince := (rfl)
@[simp] theorem putPort_winOpen (s : State) (k : Nat) (c : Port) : (putPort s k c).winOpen = s.winOpen := (rfl)
@[simp] theorem putPort_winCount (s : State) (k : Nat) (c : Port) : (putPort s k c).winCount = s.winCount := (rfl)
@[simp] theorem putPort_perst (s : State) (k : Nat) (c : Port) : (putPort s k c).perst = s.perst := (rfl)
@[simp] theorem putPort_jtagIr (s : State) (k : Nat) (c : Port) : (putPort s k c).jtagIr = s.jtagIr := (rfl)
@[simp] theorem putPort_holding (s : State) (k : Nat) (c : Port) : (putPort s k c).holding = s.holding := (rfl)

@[simp] theorem putLink_pending (s : State) (k : Nat) (c : Link) : (putLink s k c).pending = s.pending := (rfl)
@[simp] theorem putLink_now (s : State) (k : Nat) (c : Link) : (putLink s k c).now = s.now := (rfl)
@[simp] theorem putLink_free (s : State) (k : Nat) (c : Link) : (putLink s k c).free = s.free := (rfl)
@[simp] theorem putLink_regs (s : State) (k : Nat) (c : Link) : (putLink s k c).regs = s.regs := (rfl)
@[simp] theorem putLink_rdData (s : State) (k : Nat) (c : Link) : (putLink s k c).rdData = s.rdData := (rfl)
@[simp] theorem putLink_mem (s : State) (k : Nat) (c : Link) : (putLink s k c).mem = s.mem := (rfl)
@[simp] theorem putLink_poisoned (s : State) (k : Nat) (c : Link) : (putLink s k c).poisoned = s.poisoned := (rfl)
@[simp] theorem putLink_everInRange (s : State) (k : Nat) (c : Link) : (putLink s k c).everInRange = s.everInRange := (rfl)
@[simp] theorem putLink_inReset (s : State) (k : Nat) (c : Link) : (putLink s k c).inReset = s.inReset := (rfl)
@[simp] theorem putLink_railReset (s : State) (k : Nat) (c : Link) : (putLink s k c).railReset = s.railReset := (rfl)
@[simp] theorem putLink_resetAt (s : State) (k : Nat) (c : Link) : (putLink s k c).resetAt = s.resetAt := (rfl)
@[simp] theorem putLink_stageAt (s : State) (k : Nat) (c : Link) : (putLink s k c).stageAt = s.stageAt := (rfl)
@[simp] theorem putLink_bootSlot (s : State) (k : Nat) (c : Link) : (putLink s k c).bootSlot = s.bootSlot := (rfl)
@[simp] theorem putLink_stuck (s : State) (k : Nat) (c : Link) : (putLink s k c).stuck = s.stuck := (rfl)
@[simp] theorem putLink_linksUp (s : State) (k : Nat) (c : Link) : (putLink s k c).linksUp = s.linksUp := (rfl)
@[simp] theorem putLink_driven (s : State) (k : Nat) (c : Link) : (putLink s k c).driven = s.driven := (rfl)
@[simp] theorem putLink_imgShown (s : State) (k : Nat) (c : Link) : (putLink s k c).imgShown = s.imgShown := (rfl)
@[simp] theorem putLink_run (s : State) (k : Nat) (c : Link) : (putLink s k c).run = s.run := (rfl)
@[simp] theorem putLink_firstFinish (s : State) (k : Nat) (c : Link) : (putLink s k c).firstFinish = s.firstFinish := (rfl)
@[simp] theorem putLink_hbmTrained (s : State) (k : Nat) (c : Link) : (putLink s k c).hbmTrained = s.hbmTrained := (rfl)
@[simp] theorem putLink_debugHold (s : State) (k : Nat) (c : Link) : (putLink s k c).debugHold = s.debugHold := (rfl)
@[simp] theorem putLink_avsFails (s : State) (k : Nat) (c : Link) : (putLink s k c).avsFails = s.avsFails := (rfl)
@[simp] theorem putLink_avsDead (s : State) (k : Nat) (c : Link) : (putLink s k c).avsDead = s.avsDead := (rfl)
@[simp] theorem putLink_vddMv (s : State) (k : Nat) (c : Link) : (putLink s k c).vddMv = s.vddMv := (rfl)
@[simp] theorem putLink_avsChange (s : State) (k : Nat) (c : Link) : (putLink s k c).avsChange = s.avsChange := (rfl)
@[simp] theorem putLink_avsRaise (s : State) (k : Nat) (c : Link) : (putLink s k c).avsRaise = s.avsRaise := (rfl)
@[simp] theorem putLink_sternMhz (s : State) (k : Nat) (c : Link) : (putLink s k c).sternMhz = s.sternMhz := (rfl)
@[simp] theorem putLink_fuses (s : State) (k : Nat) (c : Link) : (putLink s k c).fuses = s.fuses := (rfl)
@[simp] theorem putLink_flash (s : State) (k : Nat) (c : Link) : (putLink s k c).flash = s.flash := (rfl)
@[simp] theorem putLink_img (s : State) (k : Nat) (c : Link) : (putLink s k c).img = s.img := (rfl)
@[simp] theorem putLink_contentKey (s : State) (k : Nat) (c : Link) : (putLink s k c).contentKey = s.contentKey := (rfl)
@[simp] theorem putLink_targetKey (s : State) (k : Nat) (c : Link) : (putLink s k c).targetKey = s.targetKey := (rfl)
@[simp] theorem putLink_admitted (s : State) (k : Nat) (c : Link) : (putLink s k c).admitted = s.admitted := (rfl)
@[simp] theorem putLink_lightX (s : State) (k : Nat) (c : Link) : (putLink s k c).lightX = s.lightX := (rfl)
@[simp] theorem putLink_lightL (s : State) (k : Nat) (c : Link) : (putLink s k c).lightL = s.lightL := (rfl)
@[simp] theorem putLink_uart (s : State) (k : Nat) (c : Link) : (putLink s k c).uart = s.uart := (rfl)
@[simp] theorem putLink_uartTx (s : State) (k : Nat) (c : Link) : (putLink s k c).uartTx = s.uartTx := (rfl)
@[simp] theorem putLink_timerOn (s : State) (k : Nat) (c : Link) : (putLink s k c).timerOn = s.timerOn := (rfl)
@[simp] theorem putLink_refLost (s : State) (k : Nat) (c : Link) : (putLink s k c).refLost = s.refLost := (rfl)
@[simp] theorem putLink_lossNs (s : State) (k : Nat) (c : Link) : (putLink s k c).lossNs = s.lossNs := (rfl)
@[simp] theorem putLink_floorAt (s : State) (k : Nat) (c : Link) : (putLink s k c).floorAt = s.floorAt := (rfl)
@[simp] theorem putLink_rdEp (s : State) (k : Nat) (c : Link) : (putLink s k c).rdEp = s.rdEp := (rfl)
@[simp] theorem putLink_strokeNo (s : State) (k : Nat) (c : Link) : (putLink s k c).strokeNo = s.strokeNo := (rfl)
@[simp] theorem putLink_catchAt (s : State) (k : Nat) (c : Link) : (putLink s k c).catchAt = s.catchAt := (rfl)
@[simp] theorem putLink_lockNs (s : State) (k : Nat) (c : Link) : (putLink s k c).lockNs = s.lockNs := (rfl)
@[simp] theorem putLink_edges (s : State) (k : Nat) (c : Link) : (putLink s k c).edges = s.edges := (rfl)
@[simp] theorem putLink_edgeAt (s : State) (k : Nat) (c : Link) : (putLink s k c).edgeAt = s.edgeAt := (rfl)
@[simp] theorem putLink_phase (s : State) (k : Nat) (c : Link) : (putLink s k c).phase = s.phase := (rfl)
@[simp] theorem putLink_syncOut (s : State) (k : Nat) (c : Link) : (putLink s k c).syncOut = s.syncOut := (rfl)
@[simp] theorem putLink_acqRun (s : State) (k : Nat) (c : Link) : (putLink s k c).acqRun = s.acqRun := (rfl)
@[simp] theorem putLink_everLocked (s : State) (k : Nat) (c : Link) : (putLink s k c).everLocked = s.everLocked := (rfl)
@[simp] theorem putLink_earlyEdge (s : State) (k : Nat) (c : Link) : (putLink s k c).earlyEdge = s.earlyEdge := (rfl)
@[simp] theorem putLink_lateEdge (s : State) (k : Nat) (c : Link) : (putLink s k c).lateEdge = s.lateEdge := (rfl)
@[simp] theorem putLink_fsRun (s : State) (k : Nat) (c : Link) : (putLink s k c).fsRun = s.fsRun := (rfl)
@[simp] theorem putLink_fsLast (s : State) (k : Nat) (c : Link) : (putLink s k c).fsLast = s.fsLast := (rfl)
@[simp] theorem putLink_recovery (s : State) (k : Nat) (c : Link) : (putLink s k c).recovery = s.recovery := (rfl)
@[simp] theorem putLink_ckptWait (s : State) (k : Nat) (c : Link) : (putLink s k c).ckptWait = s.ckptWait := (rfl)
@[simp] theorem putLink_chans (s : State) (k : Nat) (c : Link) : (putLink s k c).chans = s.chans := (rfl)
@[simp] theorem putLink_staged (s : State) (k : Nat) (c : Link) : (putLink s k c).staged = s.staged := (rfl)
@[simp] theorem putLink_words (s : State) (k : Nat) (c : Link) : (putLink s k c).words = s.words := (rfl)
@[simp] theorem putLink_lateWords (s : State) (k : Nat) (c : Link) : (putLink s k c).lateWords = s.lateWords := (rfl)
@[simp] theorem putLink_mclkFlt (s : State) (k : Nat) (c : Link) : (putLink s k c).mclkFlt = s.mclkFlt := (rfl)
@[simp] theorem putLink_cal (s : State) (k : Nat) (c : Link) : (putLink s k c).cal = s.cal := (rfl)
@[simp] theorem putLink_calEnd (s : State) (k : Nat) (c : Link) : (putLink s k c).calEnd = s.calEnd := (rfl)
@[simp] theorem putLink_viepeLow (s : State) (k : Nat) (c : Link) : (putLink s k c).viepeLow = s.viepeLow := (rfl)
@[simp] theorem putLink_ofsLoaded (s : State) (k : Nat) (c : Link) : (putLink s k c).ofsLoaded = s.ofsLoaded := (rfl)
@[simp] theorem putLink_ofsPending (s : State) (k : Nat) (c : Link) : (putLink s k c).ofsPending = s.ofsPending := (rfl)
@[simp] theorem putLink_bridgeStroke (s : State) (k : Nat) (c : Link) : (putLink s k c).bridgeStroke = s.bridgeStroke := (rfl)
@[simp] theorem putLink_bridgeClean (s : State) (k : Nat) (c : Link) : (putLink s k c).bridgeClean = s.bridgeClean := (rfl)
@[simp] theorem putLink_claiming (s : State) (k : Nat) (c : Link) : (putLink s k c).claiming = s.claiming := (rfl)
@[simp] theorem putLink_lines (s : State) (k : Nat) (c : Link) : (putLink s k c).lines = s.lines := (rfl)
@[simp] theorem putLink_pinFaultN (s : State) (k : Nat) (c : Link) : (putLink s k c).pinFaultN = s.pinFaultN := (rfl)
@[simp] theorem putLink_mbox (s : State) (k : Nat) (c : Link) : (putLink s k c).mbox = s.mbox := (rfl)
@[simp] theorem putLink_taken (s : State) (k : Nat) (c : Link) : (putLink s k c).taken = s.taken := (rfl)
@[simp] theorem putLink_long (s : State) (k : Nat) (c : Link) : (putLink s k c).long = s.long := (rfl)
@[simp] theorem putLink_notices (s : State) (k : Nat) (c : Link) : (putLink s k c).notices = s.notices := (rfl)
@[simp] theorem putLink_challenge (s : State) (k : Nat) (c : Link) : (putLink s k c).challenge = s.challenge := (rfl)
@[simp] theorem putLink_authFails (s : State) (k : Nat) (c : Link) : (putLink s k c).authFails = s.authFails := (rfl)
@[simp] theorem putLink_hostRing (s : State) (k : Nat) (c : Link) : (putLink s k c).hostRing = s.hostRing := (rfl)
@[simp] theorem putLink_debugAt (s : State) (k : Nat) (c : Link) : (putLink s k c).debugAt = s.debugAt := (rfl)
@[simp] theorem putLink_debugDue (s : State) (k : Nat) (c : Link) : (putLink s k c).debugDue = s.debugDue := (rfl)
@[simp] theorem putLink_aliveAt (s : State) (k : Nat) (c : Link) : (putLink s k c).aliveAt = s.aliveAt := (rfl)
@[simp] theorem putLink_sternFaults (s : State) (k : Nat) (c : Link) : (putLink s k c).sternFaults = s.sternFaults := (rfl)
@[simp] theorem putLink_sternRestart (s : State) (k : Nat) (c : Link) : (putLink s k c).sternRestart = s.sternRestart := (rfl)
@[simp] theorem putLink_restarts (s : State) (k : Nat) (c : Link) : (putLink s k c).restarts = s.restarts := (rfl)
@[simp] theorem putLink_ctxs (s : State) (k : Nat) (c : Link) : (putLink s k c).ctxs = s.ctxs := (rfl)
@[simp] theorem putLink_sculls (s : State) (k : Nat) (c : Link) : (putLink s k c).sculls = s.sculls := (rfl)
@[simp] theorem putLink_allot (s : State) (k : Nat) (c : Link) : (putLink s k c).allot = s.allot := (rfl)
@[simp] theorem putLink_ceTimes (s : State) (k : Nat) (c : Link) : (putLink s k c).ceTimes = s.ceTimes := (rfl)
@[simp] theorem putLink_insts (s : State) (k : Nat) (c : Link) : (putLink s k c).insts = s.insts := (rfl)
@[simp] theorem putLink_readmit (s : State) (k : Nat) (c : Link) : (putLink s k c).readmit = s.readmit := (rfl)
@[simp] theorem putLink_banks (s : State) (k : Nat) (c : Link) : (putLink s k c).banks = s.banks := (rfl)
@[simp] theorem putLink_ports (s : State) (k : Nat) (c : Link) : (putLink s k c).ports = s.ports := (rfl)
@[simp] theorem putLink_rchans (s : State) (k : Nat) (c : Link) : (putLink s k c).rchans = s.rchans := (rfl)
@[simp] theorem putLink_heard (s : State) (k : Nat) (c : Link) : (putLink s k c).heard = s.heard := (rfl)
@[simp] theorem putLink_heardPrev (s : State) (k : Nat) (c : Link) : (putLink s k c).heardPrev = s.heardPrev := (rfl)
@[simp] theorem putLink_misses (s : State) (k : Nat) (c : Link) : (putLink s k c).misses = s.misses := (rfl)
@[simp] theorem putLink_aliveFor (s : State) (k : Nat) (c : Link) : (putLink s k c).aliveFor = s.aliveFor := (rfl)
@[simp] theorem putLink_slipRun (s : State) (k : Nat) (c : Link) : (putLink s k c).slipRun = s.slipRun := (rfl)
@[simp] theorem putLink_okRun (s : State) (k : Nat) (c : Link) : (putLink s k c).okRun = s.okRun := (rfl)
@[simp] theorem putLink_rsOfs (s : State) (k : Nat) (c : Link) : (putLink s k c).rsOfs = s.rsOfs := (rfl)
@[simp] theorem putLink_mirrors (s : State) (k : Nat) (c : Link) : (putLink s k c).mirrors = s.mirrors := (rfl)
@[simp] theorem putLink_chg (s : State) (k : Nat) (c : Link) : (putLink s k c).chg = s.chg := (rfl)
@[simp] theorem putLink_staging (s : State) (k : Nat) (c : Link) : (putLink s k c).staging = s.staging := (rfl)
@[simp] theorem putLink_msixTable (s : State) (k : Nat) (c : Link) : (putLink s k c).msixTable = s.msixTable := (rfl)
@[simp] theorem putLink_pba (s : State) (k : Nat) (c : Link) : (putLink s k c).pba = s.pba := (rfl)
@[simp] theorem putLink_msgAt (s : State) (k : Nat) (c : Link) : (putLink s k c).msgAt = s.msgAt := (rfl)
@[simp] theorem putLink_msgWaiting (s : State) (k : Nat) (c : Link) : (putLink s k c).msgWaiting = s.msgWaiting := (rfl)
@[simp] theorem putLink_sentCount (s : State) (k : Nat) (c : Link) : (putLink s k c).sentCount = s.sentCount := (rfl)
@[simp] theorem putLink_ringSeq (s : State) (k : Nat) (c : Link) : (putLink s k c).ringSeq = s.ringSeq := (rfl)
@[simp] theorem putLink_ringSince (s : State) (k : Nat) (c : Link) : (putLink s k c).ringSince = s.ringSince := (rfl)
@[simp] theorem putLink_winOpen (s : State) (k : Nat) (c : Link) : (putLink s k c).winOpen = s.winOpen := (rfl)
@[simp] theorem putLink_winCount (s : State) (k : Nat) (c : Link) : (putLink s k c).winCount = s.winCount := (rfl)
@[simp] theorem putLink_perst (s : State) (k : Nat) (c : Link) : (putLink s k c).perst = s.perst := (rfl)
@[simp] theorem putLink_jtagIr (s : State) (k : Nat) (c : Link) : (putLink s k c).jtagIr = s.jtagIr := (rfl)
@[simp] theorem putLink_holding (s : State) (k : Nat) (c : Link) : (putLink s k c).holding = s.holding := (rfl)

@[simp] theorem putLine_pending (s : State) (k : Nat) (c : StopLine) : (putLine s k c).pending = s.pending := (rfl)
@[simp] theorem putLine_now (s : State) (k : Nat) (c : StopLine) : (putLine s k c).now = s.now := (rfl)
@[simp] theorem putLine_free (s : State) (k : Nat) (c : StopLine) : (putLine s k c).free = s.free := (rfl)
@[simp] theorem putLine_regs (s : State) (k : Nat) (c : StopLine) : (putLine s k c).regs = s.regs := (rfl)
@[simp] theorem putLine_rdData (s : State) (k : Nat) (c : StopLine) : (putLine s k c).rdData = s.rdData := (rfl)
@[simp] theorem putLine_mem (s : State) (k : Nat) (c : StopLine) : (putLine s k c).mem = s.mem := (rfl)
@[simp] theorem putLine_poisoned (s : State) (k : Nat) (c : StopLine) : (putLine s k c).poisoned = s.poisoned := (rfl)
@[simp] theorem putLine_everInRange (s : State) (k : Nat) (c : StopLine) : (putLine s k c).everInRange = s.everInRange := (rfl)
@[simp] theorem putLine_inReset (s : State) (k : Nat) (c : StopLine) : (putLine s k c).inReset = s.inReset := (rfl)
@[simp] theorem putLine_railReset (s : State) (k : Nat) (c : StopLine) : (putLine s k c).railReset = s.railReset := (rfl)
@[simp] theorem putLine_resetAt (s : State) (k : Nat) (c : StopLine) : (putLine s k c).resetAt = s.resetAt := (rfl)
@[simp] theorem putLine_stageAt (s : State) (k : Nat) (c : StopLine) : (putLine s k c).stageAt = s.stageAt := (rfl)
@[simp] theorem putLine_bootSlot (s : State) (k : Nat) (c : StopLine) : (putLine s k c).bootSlot = s.bootSlot := (rfl)
@[simp] theorem putLine_stuck (s : State) (k : Nat) (c : StopLine) : (putLine s k c).stuck = s.stuck := (rfl)
@[simp] theorem putLine_linksUp (s : State) (k : Nat) (c : StopLine) : (putLine s k c).linksUp = s.linksUp := (rfl)
@[simp] theorem putLine_driven (s : State) (k : Nat) (c : StopLine) : (putLine s k c).driven = s.driven := (rfl)
@[simp] theorem putLine_imgShown (s : State) (k : Nat) (c : StopLine) : (putLine s k c).imgShown = s.imgShown := (rfl)
@[simp] theorem putLine_run (s : State) (k : Nat) (c : StopLine) : (putLine s k c).run = s.run := (rfl)
@[simp] theorem putLine_firstFinish (s : State) (k : Nat) (c : StopLine) : (putLine s k c).firstFinish = s.firstFinish := (rfl)
@[simp] theorem putLine_hbmTrained (s : State) (k : Nat) (c : StopLine) : (putLine s k c).hbmTrained = s.hbmTrained := (rfl)
@[simp] theorem putLine_debugHold (s : State) (k : Nat) (c : StopLine) : (putLine s k c).debugHold = s.debugHold := (rfl)
@[simp] theorem putLine_avsFails (s : State) (k : Nat) (c : StopLine) : (putLine s k c).avsFails = s.avsFails := (rfl)
@[simp] theorem putLine_avsDead (s : State) (k : Nat) (c : StopLine) : (putLine s k c).avsDead = s.avsDead := (rfl)
@[simp] theorem putLine_vddMv (s : State) (k : Nat) (c : StopLine) : (putLine s k c).vddMv = s.vddMv := (rfl)
@[simp] theorem putLine_avsChange (s : State) (k : Nat) (c : StopLine) : (putLine s k c).avsChange = s.avsChange := (rfl)
@[simp] theorem putLine_avsRaise (s : State) (k : Nat) (c : StopLine) : (putLine s k c).avsRaise = s.avsRaise := (rfl)
@[simp] theorem putLine_sternMhz (s : State) (k : Nat) (c : StopLine) : (putLine s k c).sternMhz = s.sternMhz := (rfl)
@[simp] theorem putLine_fuses (s : State) (k : Nat) (c : StopLine) : (putLine s k c).fuses = s.fuses := (rfl)
@[simp] theorem putLine_flash (s : State) (k : Nat) (c : StopLine) : (putLine s k c).flash = s.flash := (rfl)
@[simp] theorem putLine_img (s : State) (k : Nat) (c : StopLine) : (putLine s k c).img = s.img := (rfl)
@[simp] theorem putLine_contentKey (s : State) (k : Nat) (c : StopLine) : (putLine s k c).contentKey = s.contentKey := (rfl)
@[simp] theorem putLine_targetKey (s : State) (k : Nat) (c : StopLine) : (putLine s k c).targetKey = s.targetKey := (rfl)
@[simp] theorem putLine_admitted (s : State) (k : Nat) (c : StopLine) : (putLine s k c).admitted = s.admitted := (rfl)
@[simp] theorem putLine_lightX (s : State) (k : Nat) (c : StopLine) : (putLine s k c).lightX = s.lightX := (rfl)
@[simp] theorem putLine_lightL (s : State) (k : Nat) (c : StopLine) : (putLine s k c).lightL = s.lightL := (rfl)
@[simp] theorem putLine_uart (s : State) (k : Nat) (c : StopLine) : (putLine s k c).uart = s.uart := (rfl)
@[simp] theorem putLine_uartTx (s : State) (k : Nat) (c : StopLine) : (putLine s k c).uartTx = s.uartTx := (rfl)
@[simp] theorem putLine_timerOn (s : State) (k : Nat) (c : StopLine) : (putLine s k c).timerOn = s.timerOn := (rfl)
@[simp] theorem putLine_refLost (s : State) (k : Nat) (c : StopLine) : (putLine s k c).refLost = s.refLost := (rfl)
@[simp] theorem putLine_lossNs (s : State) (k : Nat) (c : StopLine) : (putLine s k c).lossNs = s.lossNs := (rfl)
@[simp] theorem putLine_floorAt (s : State) (k : Nat) (c : StopLine) : (putLine s k c).floorAt = s.floorAt := (rfl)
@[simp] theorem putLine_rdEp (s : State) (k : Nat) (c : StopLine) : (putLine s k c).rdEp = s.rdEp := (rfl)
@[simp] theorem putLine_strokeNo (s : State) (k : Nat) (c : StopLine) : (putLine s k c).strokeNo = s.strokeNo := (rfl)
@[simp] theorem putLine_catchAt (s : State) (k : Nat) (c : StopLine) : (putLine s k c).catchAt = s.catchAt := (rfl)
@[simp] theorem putLine_lockNs (s : State) (k : Nat) (c : StopLine) : (putLine s k c).lockNs = s.lockNs := (rfl)
@[simp] theorem putLine_edges (s : State) (k : Nat) (c : StopLine) : (putLine s k c).edges = s.edges := (rfl)
@[simp] theorem putLine_edgeAt (s : State) (k : Nat) (c : StopLine) : (putLine s k c).edgeAt = s.edgeAt := (rfl)
@[simp] theorem putLine_phase (s : State) (k : Nat) (c : StopLine) : (putLine s k c).phase = s.phase := (rfl)
@[simp] theorem putLine_syncOut (s : State) (k : Nat) (c : StopLine) : (putLine s k c).syncOut = s.syncOut := (rfl)
@[simp] theorem putLine_acqRun (s : State) (k : Nat) (c : StopLine) : (putLine s k c).acqRun = s.acqRun := (rfl)
@[simp] theorem putLine_everLocked (s : State) (k : Nat) (c : StopLine) : (putLine s k c).everLocked = s.everLocked := (rfl)
@[simp] theorem putLine_earlyEdge (s : State) (k : Nat) (c : StopLine) : (putLine s k c).earlyEdge = s.earlyEdge := (rfl)
@[simp] theorem putLine_lateEdge (s : State) (k : Nat) (c : StopLine) : (putLine s k c).lateEdge = s.lateEdge := (rfl)
@[simp] theorem putLine_fsRun (s : State) (k : Nat) (c : StopLine) : (putLine s k c).fsRun = s.fsRun := (rfl)
@[simp] theorem putLine_fsLast (s : State) (k : Nat) (c : StopLine) : (putLine s k c).fsLast = s.fsLast := (rfl)
@[simp] theorem putLine_recovery (s : State) (k : Nat) (c : StopLine) : (putLine s k c).recovery = s.recovery := (rfl)
@[simp] theorem putLine_ckptWait (s : State) (k : Nat) (c : StopLine) : (putLine s k c).ckptWait = s.ckptWait := (rfl)
@[simp] theorem putLine_chans (s : State) (k : Nat) (c : StopLine) : (putLine s k c).chans = s.chans := (rfl)
@[simp] theorem putLine_staged (s : State) (k : Nat) (c : StopLine) : (putLine s k c).staged = s.staged := (rfl)
@[simp] theorem putLine_words (s : State) (k : Nat) (c : StopLine) : (putLine s k c).words = s.words := (rfl)
@[simp] theorem putLine_lateWords (s : State) (k : Nat) (c : StopLine) : (putLine s k c).lateWords = s.lateWords := (rfl)
@[simp] theorem putLine_mclkFlt (s : State) (k : Nat) (c : StopLine) : (putLine s k c).mclkFlt = s.mclkFlt := (rfl)
@[simp] theorem putLine_cal (s : State) (k : Nat) (c : StopLine) : (putLine s k c).cal = s.cal := (rfl)
@[simp] theorem putLine_calEnd (s : State) (k : Nat) (c : StopLine) : (putLine s k c).calEnd = s.calEnd := (rfl)
@[simp] theorem putLine_viepeLow (s : State) (k : Nat) (c : StopLine) : (putLine s k c).viepeLow = s.viepeLow := (rfl)
@[simp] theorem putLine_ofsLoaded (s : State) (k : Nat) (c : StopLine) : (putLine s k c).ofsLoaded = s.ofsLoaded := (rfl)
@[simp] theorem putLine_ofsPending (s : State) (k : Nat) (c : StopLine) : (putLine s k c).ofsPending = s.ofsPending := (rfl)
@[simp] theorem putLine_bridgeStroke (s : State) (k : Nat) (c : StopLine) : (putLine s k c).bridgeStroke = s.bridgeStroke := (rfl)
@[simp] theorem putLine_bridgeClean (s : State) (k : Nat) (c : StopLine) : (putLine s k c).bridgeClean = s.bridgeClean := (rfl)
@[simp] theorem putLine_links (s : State) (k : Nat) (c : StopLine) : (putLine s k c).links = s.links := (rfl)
@[simp] theorem putLine_claiming (s : State) (k : Nat) (c : StopLine) : (putLine s k c).claiming = s.claiming := (rfl)
@[simp] theorem putLine_pinFaultN (s : State) (k : Nat) (c : StopLine) : (putLine s k c).pinFaultN = s.pinFaultN := (rfl)
@[simp] theorem putLine_mbox (s : State) (k : Nat) (c : StopLine) : (putLine s k c).mbox = s.mbox := (rfl)
@[simp] theorem putLine_taken (s : State) (k : Nat) (c : StopLine) : (putLine s k c).taken = s.taken := (rfl)
@[simp] theorem putLine_long (s : State) (k : Nat) (c : StopLine) : (putLine s k c).long = s.long := (rfl)
@[simp] theorem putLine_notices (s : State) (k : Nat) (c : StopLine) : (putLine s k c).notices = s.notices := (rfl)
@[simp] theorem putLine_challenge (s : State) (k : Nat) (c : StopLine) : (putLine s k c).challenge = s.challenge := (rfl)
@[simp] theorem putLine_authFails (s : State) (k : Nat) (c : StopLine) : (putLine s k c).authFails = s.authFails := (rfl)
@[simp] theorem putLine_hostRing (s : State) (k : Nat) (c : StopLine) : (putLine s k c).hostRing = s.hostRing := (rfl)
@[simp] theorem putLine_debugAt (s : State) (k : Nat) (c : StopLine) : (putLine s k c).debugAt = s.debugAt := (rfl)
@[simp] theorem putLine_debugDue (s : State) (k : Nat) (c : StopLine) : (putLine s k c).debugDue = s.debugDue := (rfl)
@[simp] theorem putLine_aliveAt (s : State) (k : Nat) (c : StopLine) : (putLine s k c).aliveAt = s.aliveAt := (rfl)
@[simp] theorem putLine_sternFaults (s : State) (k : Nat) (c : StopLine) : (putLine s k c).sternFaults = s.sternFaults := (rfl)
@[simp] theorem putLine_sternRestart (s : State) (k : Nat) (c : StopLine) : (putLine s k c).sternRestart = s.sternRestart := (rfl)
@[simp] theorem putLine_restarts (s : State) (k : Nat) (c : StopLine) : (putLine s k c).restarts = s.restarts := (rfl)
@[simp] theorem putLine_ctxs (s : State) (k : Nat) (c : StopLine) : (putLine s k c).ctxs = s.ctxs := (rfl)
@[simp] theorem putLine_sculls (s : State) (k : Nat) (c : StopLine) : (putLine s k c).sculls = s.sculls := (rfl)
@[simp] theorem putLine_allot (s : State) (k : Nat) (c : StopLine) : (putLine s k c).allot = s.allot := (rfl)
@[simp] theorem putLine_ceTimes (s : State) (k : Nat) (c : StopLine) : (putLine s k c).ceTimes = s.ceTimes := (rfl)
@[simp] theorem putLine_insts (s : State) (k : Nat) (c : StopLine) : (putLine s k c).insts = s.insts := (rfl)
@[simp] theorem putLine_readmit (s : State) (k : Nat) (c : StopLine) : (putLine s k c).readmit = s.readmit := (rfl)
@[simp] theorem putLine_banks (s : State) (k : Nat) (c : StopLine) : (putLine s k c).banks = s.banks := (rfl)
@[simp] theorem putLine_ports (s : State) (k : Nat) (c : StopLine) : (putLine s k c).ports = s.ports := (rfl)
@[simp] theorem putLine_rchans (s : State) (k : Nat) (c : StopLine) : (putLine s k c).rchans = s.rchans := (rfl)
@[simp] theorem putLine_heard (s : State) (k : Nat) (c : StopLine) : (putLine s k c).heard = s.heard := (rfl)
@[simp] theorem putLine_heardPrev (s : State) (k : Nat) (c : StopLine) : (putLine s k c).heardPrev = s.heardPrev := (rfl)
@[simp] theorem putLine_misses (s : State) (k : Nat) (c : StopLine) : (putLine s k c).misses = s.misses := (rfl)
@[simp] theorem putLine_aliveFor (s : State) (k : Nat) (c : StopLine) : (putLine s k c).aliveFor = s.aliveFor := (rfl)
@[simp] theorem putLine_slipRun (s : State) (k : Nat) (c : StopLine) : (putLine s k c).slipRun = s.slipRun := (rfl)
@[simp] theorem putLine_okRun (s : State) (k : Nat) (c : StopLine) : (putLine s k c).okRun = s.okRun := (rfl)
@[simp] theorem putLine_rsOfs (s : State) (k : Nat) (c : StopLine) : (putLine s k c).rsOfs = s.rsOfs := (rfl)
@[simp] theorem putLine_mirrors (s : State) (k : Nat) (c : StopLine) : (putLine s k c).mirrors = s.mirrors := (rfl)
@[simp] theorem putLine_chg (s : State) (k : Nat) (c : StopLine) : (putLine s k c).chg = s.chg := (rfl)
@[simp] theorem putLine_staging (s : State) (k : Nat) (c : StopLine) : (putLine s k c).staging = s.staging := (rfl)
@[simp] theorem putLine_msixTable (s : State) (k : Nat) (c : StopLine) : (putLine s k c).msixTable = s.msixTable := (rfl)
@[simp] theorem putLine_pba (s : State) (k : Nat) (c : StopLine) : (putLine s k c).pba = s.pba := (rfl)
@[simp] theorem putLine_msgAt (s : State) (k : Nat) (c : StopLine) : (putLine s k c).msgAt = s.msgAt := (rfl)
@[simp] theorem putLine_msgWaiting (s : State) (k : Nat) (c : StopLine) : (putLine s k c).msgWaiting = s.msgWaiting := (rfl)
@[simp] theorem putLine_sentCount (s : State) (k : Nat) (c : StopLine) : (putLine s k c).sentCount = s.sentCount := (rfl)
@[simp] theorem putLine_ringSeq (s : State) (k : Nat) (c : StopLine) : (putLine s k c).ringSeq = s.ringSeq := (rfl)
@[simp] theorem putLine_ringSince (s : State) (k : Nat) (c : StopLine) : (putLine s k c).ringSince = s.ringSince := (rfl)
@[simp] theorem putLine_winOpen (s : State) (k : Nat) (c : StopLine) : (putLine s k c).winOpen = s.winOpen := (rfl)
@[simp] theorem putLine_winCount (s : State) (k : Nat) (c : StopLine) : (putLine s k c).winCount = s.winCount := (rfl)
@[simp] theorem putLine_perst (s : State) (k : Nat) (c : StopLine) : (putLine s k c).perst = s.perst := (rfl)
@[simp] theorem putLine_jtagIr (s : State) (k : Nat) (c : StopLine) : (putLine s k c).jtagIr = s.jtagIr := (rfl)
@[simp] theorem putLine_holding (s : State) (k : Nat) (c : StopLine) : (putLine s k c).holding = s.holding := (rfl)

@[simp] theorem putChan_pending (s : State) (k : Nat) (c : SenseChan) : (putChan s k c).pending = s.pending := (rfl)
@[simp] theorem putChan_now (s : State) (k : Nat) (c : SenseChan) : (putChan s k c).now = s.now := (rfl)
@[simp] theorem putChan_free (s : State) (k : Nat) (c : SenseChan) : (putChan s k c).free = s.free := (rfl)
@[simp] theorem putChan_regs (s : State) (k : Nat) (c : SenseChan) : (putChan s k c).regs = s.regs := (rfl)
@[simp] theorem putChan_rdData (s : State) (k : Nat) (c : SenseChan) : (putChan s k c).rdData = s.rdData := (rfl)
@[simp] theorem putChan_mem (s : State) (k : Nat) (c : SenseChan) : (putChan s k c).mem = s.mem := (rfl)
@[simp] theorem putChan_poisoned (s : State) (k : Nat) (c : SenseChan) : (putChan s k c).poisoned = s.poisoned := (rfl)
@[simp] theorem putChan_everInRange (s : State) (k : Nat) (c : SenseChan) : (putChan s k c).everInRange = s.everInRange := (rfl)
@[simp] theorem putChan_inReset (s : State) (k : Nat) (c : SenseChan) : (putChan s k c).inReset = s.inReset := (rfl)
@[simp] theorem putChan_railReset (s : State) (k : Nat) (c : SenseChan) : (putChan s k c).railReset = s.railReset := (rfl)
@[simp] theorem putChan_resetAt (s : State) (k : Nat) (c : SenseChan) : (putChan s k c).resetAt = s.resetAt := (rfl)
@[simp] theorem putChan_stageAt (s : State) (k : Nat) (c : SenseChan) : (putChan s k c).stageAt = s.stageAt := (rfl)
@[simp] theorem putChan_bootSlot (s : State) (k : Nat) (c : SenseChan) : (putChan s k c).bootSlot = s.bootSlot := (rfl)
@[simp] theorem putChan_stuck (s : State) (k : Nat) (c : SenseChan) : (putChan s k c).stuck = s.stuck := (rfl)
@[simp] theorem putChan_linksUp (s : State) (k : Nat) (c : SenseChan) : (putChan s k c).linksUp = s.linksUp := (rfl)
@[simp] theorem putChan_driven (s : State) (k : Nat) (c : SenseChan) : (putChan s k c).driven = s.driven := (rfl)
@[simp] theorem putChan_imgShown (s : State) (k : Nat) (c : SenseChan) : (putChan s k c).imgShown = s.imgShown := (rfl)
@[simp] theorem putChan_run (s : State) (k : Nat) (c : SenseChan) : (putChan s k c).run = s.run := (rfl)
@[simp] theorem putChan_firstFinish (s : State) (k : Nat) (c : SenseChan) : (putChan s k c).firstFinish = s.firstFinish := (rfl)
@[simp] theorem putChan_hbmTrained (s : State) (k : Nat) (c : SenseChan) : (putChan s k c).hbmTrained = s.hbmTrained := (rfl)
@[simp] theorem putChan_debugHold (s : State) (k : Nat) (c : SenseChan) : (putChan s k c).debugHold = s.debugHold := (rfl)
@[simp] theorem putChan_avsFails (s : State) (k : Nat) (c : SenseChan) : (putChan s k c).avsFails = s.avsFails := (rfl)
@[simp] theorem putChan_avsDead (s : State) (k : Nat) (c : SenseChan) : (putChan s k c).avsDead = s.avsDead := (rfl)
@[simp] theorem putChan_vddMv (s : State) (k : Nat) (c : SenseChan) : (putChan s k c).vddMv = s.vddMv := (rfl)
@[simp] theorem putChan_avsChange (s : State) (k : Nat) (c : SenseChan) : (putChan s k c).avsChange = s.avsChange := (rfl)
@[simp] theorem putChan_avsRaise (s : State) (k : Nat) (c : SenseChan) : (putChan s k c).avsRaise = s.avsRaise := (rfl)
@[simp] theorem putChan_sternMhz (s : State) (k : Nat) (c : SenseChan) : (putChan s k c).sternMhz = s.sternMhz := (rfl)
@[simp] theorem putChan_fuses (s : State) (k : Nat) (c : SenseChan) : (putChan s k c).fuses = s.fuses := (rfl)
@[simp] theorem putChan_flash (s : State) (k : Nat) (c : SenseChan) : (putChan s k c).flash = s.flash := (rfl)
@[simp] theorem putChan_img (s : State) (k : Nat) (c : SenseChan) : (putChan s k c).img = s.img := (rfl)
@[simp] theorem putChan_contentKey (s : State) (k : Nat) (c : SenseChan) : (putChan s k c).contentKey = s.contentKey := (rfl)
@[simp] theorem putChan_targetKey (s : State) (k : Nat) (c : SenseChan) : (putChan s k c).targetKey = s.targetKey := (rfl)
@[simp] theorem putChan_admitted (s : State) (k : Nat) (c : SenseChan) : (putChan s k c).admitted = s.admitted := (rfl)
@[simp] theorem putChan_lightX (s : State) (k : Nat) (c : SenseChan) : (putChan s k c).lightX = s.lightX := (rfl)
@[simp] theorem putChan_lightL (s : State) (k : Nat) (c : SenseChan) : (putChan s k c).lightL = s.lightL := (rfl)
@[simp] theorem putChan_uart (s : State) (k : Nat) (c : SenseChan) : (putChan s k c).uart = s.uart := (rfl)
@[simp] theorem putChan_uartTx (s : State) (k : Nat) (c : SenseChan) : (putChan s k c).uartTx = s.uartTx := (rfl)
@[simp] theorem putChan_timerOn (s : State) (k : Nat) (c : SenseChan) : (putChan s k c).timerOn = s.timerOn := (rfl)
@[simp] theorem putChan_refLost (s : State) (k : Nat) (c : SenseChan) : (putChan s k c).refLost = s.refLost := (rfl)
@[simp] theorem putChan_lossNs (s : State) (k : Nat) (c : SenseChan) : (putChan s k c).lossNs = s.lossNs := (rfl)
@[simp] theorem putChan_floorAt (s : State) (k : Nat) (c : SenseChan) : (putChan s k c).floorAt = s.floorAt := (rfl)
@[simp] theorem putChan_rdEp (s : State) (k : Nat) (c : SenseChan) : (putChan s k c).rdEp = s.rdEp := (rfl)
@[simp] theorem putChan_strokeNo (s : State) (k : Nat) (c : SenseChan) : (putChan s k c).strokeNo = s.strokeNo := (rfl)
@[simp] theorem putChan_catchAt (s : State) (k : Nat) (c : SenseChan) : (putChan s k c).catchAt = s.catchAt := (rfl)
@[simp] theorem putChan_lockNs (s : State) (k : Nat) (c : SenseChan) : (putChan s k c).lockNs = s.lockNs := (rfl)
@[simp] theorem putChan_edges (s : State) (k : Nat) (c : SenseChan) : (putChan s k c).edges = s.edges := (rfl)
@[simp] theorem putChan_edgeAt (s : State) (k : Nat) (c : SenseChan) : (putChan s k c).edgeAt = s.edgeAt := (rfl)
@[simp] theorem putChan_phase (s : State) (k : Nat) (c : SenseChan) : (putChan s k c).phase = s.phase := (rfl)
@[simp] theorem putChan_syncOut (s : State) (k : Nat) (c : SenseChan) : (putChan s k c).syncOut = s.syncOut := (rfl)
@[simp] theorem putChan_acqRun (s : State) (k : Nat) (c : SenseChan) : (putChan s k c).acqRun = s.acqRun := (rfl)
@[simp] theorem putChan_everLocked (s : State) (k : Nat) (c : SenseChan) : (putChan s k c).everLocked = s.everLocked := (rfl)
@[simp] theorem putChan_earlyEdge (s : State) (k : Nat) (c : SenseChan) : (putChan s k c).earlyEdge = s.earlyEdge := (rfl)
@[simp] theorem putChan_lateEdge (s : State) (k : Nat) (c : SenseChan) : (putChan s k c).lateEdge = s.lateEdge := (rfl)
@[simp] theorem putChan_fsRun (s : State) (k : Nat) (c : SenseChan) : (putChan s k c).fsRun = s.fsRun := (rfl)
@[simp] theorem putChan_fsLast (s : State) (k : Nat) (c : SenseChan) : (putChan s k c).fsLast = s.fsLast := (rfl)
@[simp] theorem putChan_recovery (s : State) (k : Nat) (c : SenseChan) : (putChan s k c).recovery = s.recovery := (rfl)
@[simp] theorem putChan_ckptWait (s : State) (k : Nat) (c : SenseChan) : (putChan s k c).ckptWait = s.ckptWait := (rfl)
@[simp] theorem putChan_staged (s : State) (k : Nat) (c : SenseChan) : (putChan s k c).staged = s.staged := (rfl)
@[simp] theorem putChan_words (s : State) (k : Nat) (c : SenseChan) : (putChan s k c).words = s.words := (rfl)
@[simp] theorem putChan_lateWords (s : State) (k : Nat) (c : SenseChan) : (putChan s k c).lateWords = s.lateWords := (rfl)
@[simp] theorem putChan_mclkFlt (s : State) (k : Nat) (c : SenseChan) : (putChan s k c).mclkFlt = s.mclkFlt := (rfl)
@[simp] theorem putChan_cal (s : State) (k : Nat) (c : SenseChan) : (putChan s k c).cal = s.cal := (rfl)
@[simp] theorem putChan_calEnd (s : State) (k : Nat) (c : SenseChan) : (putChan s k c).calEnd = s.calEnd := (rfl)
@[simp] theorem putChan_viepeLow (s : State) (k : Nat) (c : SenseChan) : (putChan s k c).viepeLow = s.viepeLow := (rfl)
@[simp] theorem putChan_ofsLoaded (s : State) (k : Nat) (c : SenseChan) : (putChan s k c).ofsLoaded = s.ofsLoaded := (rfl)
@[simp] theorem putChan_ofsPending (s : State) (k : Nat) (c : SenseChan) : (putChan s k c).ofsPending = s.ofsPending := (rfl)
@[simp] theorem putChan_bridgeStroke (s : State) (k : Nat) (c : SenseChan) : (putChan s k c).bridgeStroke = s.bridgeStroke := (rfl)
@[simp] theorem putChan_bridgeClean (s : State) (k : Nat) (c : SenseChan) : (putChan s k c).bridgeClean = s.bridgeClean := (rfl)
@[simp] theorem putChan_links (s : State) (k : Nat) (c : SenseChan) : (putChan s k c).links = s.links := (rfl)
@[simp] theorem putChan_claiming (s : State) (k : Nat) (c : SenseChan) : (putChan s k c).claiming = s.claiming := (rfl)
@[simp] theorem putChan_lines (s : State) (k : Nat) (c : SenseChan) : (putChan s k c).lines = s.lines := (rfl)
@[simp] theorem putChan_pinFaultN (s : State) (k : Nat) (c : SenseChan) : (putChan s k c).pinFaultN = s.pinFaultN := (rfl)
@[simp] theorem putChan_mbox (s : State) (k : Nat) (c : SenseChan) : (putChan s k c).mbox = s.mbox := (rfl)
@[simp] theorem putChan_taken (s : State) (k : Nat) (c : SenseChan) : (putChan s k c).taken = s.taken := (rfl)
@[simp] theorem putChan_long (s : State) (k : Nat) (c : SenseChan) : (putChan s k c).long = s.long := (rfl)
@[simp] theorem putChan_notices (s : State) (k : Nat) (c : SenseChan) : (putChan s k c).notices = s.notices := (rfl)
@[simp] theorem putChan_challenge (s : State) (k : Nat) (c : SenseChan) : (putChan s k c).challenge = s.challenge := (rfl)
@[simp] theorem putChan_authFails (s : State) (k : Nat) (c : SenseChan) : (putChan s k c).authFails = s.authFails := (rfl)
@[simp] theorem putChan_hostRing (s : State) (k : Nat) (c : SenseChan) : (putChan s k c).hostRing = s.hostRing := (rfl)
@[simp] theorem putChan_debugAt (s : State) (k : Nat) (c : SenseChan) : (putChan s k c).debugAt = s.debugAt := (rfl)
@[simp] theorem putChan_debugDue (s : State) (k : Nat) (c : SenseChan) : (putChan s k c).debugDue = s.debugDue := (rfl)
@[simp] theorem putChan_aliveAt (s : State) (k : Nat) (c : SenseChan) : (putChan s k c).aliveAt = s.aliveAt := (rfl)
@[simp] theorem putChan_sternFaults (s : State) (k : Nat) (c : SenseChan) : (putChan s k c).sternFaults = s.sternFaults := (rfl)
@[simp] theorem putChan_sternRestart (s : State) (k : Nat) (c : SenseChan) : (putChan s k c).sternRestart = s.sternRestart := (rfl)
@[simp] theorem putChan_restarts (s : State) (k : Nat) (c : SenseChan) : (putChan s k c).restarts = s.restarts := (rfl)
@[simp] theorem putChan_ctxs (s : State) (k : Nat) (c : SenseChan) : (putChan s k c).ctxs = s.ctxs := (rfl)
@[simp] theorem putChan_sculls (s : State) (k : Nat) (c : SenseChan) : (putChan s k c).sculls = s.sculls := (rfl)
@[simp] theorem putChan_allot (s : State) (k : Nat) (c : SenseChan) : (putChan s k c).allot = s.allot := (rfl)
@[simp] theorem putChan_ceTimes (s : State) (k : Nat) (c : SenseChan) : (putChan s k c).ceTimes = s.ceTimes := (rfl)
@[simp] theorem putChan_insts (s : State) (k : Nat) (c : SenseChan) : (putChan s k c).insts = s.insts := (rfl)
@[simp] theorem putChan_readmit (s : State) (k : Nat) (c : SenseChan) : (putChan s k c).readmit = s.readmit := (rfl)
@[simp] theorem putChan_banks (s : State) (k : Nat) (c : SenseChan) : (putChan s k c).banks = s.banks := (rfl)
@[simp] theorem putChan_ports (s : State) (k : Nat) (c : SenseChan) : (putChan s k c).ports = s.ports := (rfl)
@[simp] theorem putChan_rchans (s : State) (k : Nat) (c : SenseChan) : (putChan s k c).rchans = s.rchans := (rfl)
@[simp] theorem putChan_heard (s : State) (k : Nat) (c : SenseChan) : (putChan s k c).heard = s.heard := (rfl)
@[simp] theorem putChan_heardPrev (s : State) (k : Nat) (c : SenseChan) : (putChan s k c).heardPrev = s.heardPrev := (rfl)
@[simp] theorem putChan_misses (s : State) (k : Nat) (c : SenseChan) : (putChan s k c).misses = s.misses := (rfl)
@[simp] theorem putChan_aliveFor (s : State) (k : Nat) (c : SenseChan) : (putChan s k c).aliveFor = s.aliveFor := (rfl)
@[simp] theorem putChan_slipRun (s : State) (k : Nat) (c : SenseChan) : (putChan s k c).slipRun = s.slipRun := (rfl)
@[simp] theorem putChan_okRun (s : State) (k : Nat) (c : SenseChan) : (putChan s k c).okRun = s.okRun := (rfl)
@[simp] theorem putChan_rsOfs (s : State) (k : Nat) (c : SenseChan) : (putChan s k c).rsOfs = s.rsOfs := (rfl)
@[simp] theorem putChan_mirrors (s : State) (k : Nat) (c : SenseChan) : (putChan s k c).mirrors = s.mirrors := (rfl)
@[simp] theorem putChan_chg (s : State) (k : Nat) (c : SenseChan) : (putChan s k c).chg = s.chg := (rfl)
@[simp] theorem putChan_staging (s : State) (k : Nat) (c : SenseChan) : (putChan s k c).staging = s.staging := (rfl)
@[simp] theorem putChan_msixTable (s : State) (k : Nat) (c : SenseChan) : (putChan s k c).msixTable = s.msixTable := (rfl)
@[simp] theorem putChan_pba (s : State) (k : Nat) (c : SenseChan) : (putChan s k c).pba = s.pba := (rfl)
@[simp] theorem putChan_msgAt (s : State) (k : Nat) (c : SenseChan) : (putChan s k c).msgAt = s.msgAt := (rfl)
@[simp] theorem putChan_msgWaiting (s : State) (k : Nat) (c : SenseChan) : (putChan s k c).msgWaiting = s.msgWaiting := (rfl)
@[simp] theorem putChan_sentCount (s : State) (k : Nat) (c : SenseChan) : (putChan s k c).sentCount = s.sentCount := (rfl)
@[simp] theorem putChan_ringSeq (s : State) (k : Nat) (c : SenseChan) : (putChan s k c).ringSeq = s.ringSeq := (rfl)
@[simp] theorem putChan_ringSince (s : State) (k : Nat) (c : SenseChan) : (putChan s k c).ringSince = s.ringSince := (rfl)
@[simp] theorem putChan_winOpen (s : State) (k : Nat) (c : SenseChan) : (putChan s k c).winOpen = s.winOpen := (rfl)
@[simp] theorem putChan_winCount (s : State) (k : Nat) (c : SenseChan) : (putChan s k c).winCount = s.winCount := (rfl)
@[simp] theorem putChan_perst (s : State) (k : Nat) (c : SenseChan) : (putChan s k c).perst = s.perst := (rfl)
@[simp] theorem putChan_jtagIr (s : State) (k : Nat) (c : SenseChan) : (putChan s k c).jtagIr = s.jtagIr := (rfl)
@[simp] theorem putChan_holding (s : State) (k : Nat) (c : SenseChan) : (putChan s k c).holding = s.holding := (rfl)

@[simp] theorem putRchan_pending (s : State) (k : Nat) (c : ChanState) : (putRchan s k c).pending = s.pending := (rfl)
@[simp] theorem putRchan_now (s : State) (k : Nat) (c : ChanState) : (putRchan s k c).now = s.now := (rfl)
@[simp] theorem putRchan_free (s : State) (k : Nat) (c : ChanState) : (putRchan s k c).free = s.free := (rfl)
@[simp] theorem putRchan_regs (s : State) (k : Nat) (c : ChanState) : (putRchan s k c).regs = s.regs := (rfl)
@[simp] theorem putRchan_rdData (s : State) (k : Nat) (c : ChanState) : (putRchan s k c).rdData = s.rdData := (rfl)
@[simp] theorem putRchan_mem (s : State) (k : Nat) (c : ChanState) : (putRchan s k c).mem = s.mem := (rfl)
@[simp] theorem putRchan_poisoned (s : State) (k : Nat) (c : ChanState) : (putRchan s k c).poisoned = s.poisoned := (rfl)
@[simp] theorem putRchan_everInRange (s : State) (k : Nat) (c : ChanState) : (putRchan s k c).everInRange = s.everInRange := (rfl)
@[simp] theorem putRchan_inReset (s : State) (k : Nat) (c : ChanState) : (putRchan s k c).inReset = s.inReset := (rfl)
@[simp] theorem putRchan_railReset (s : State) (k : Nat) (c : ChanState) : (putRchan s k c).railReset = s.railReset := (rfl)
@[simp] theorem putRchan_resetAt (s : State) (k : Nat) (c : ChanState) : (putRchan s k c).resetAt = s.resetAt := (rfl)
@[simp] theorem putRchan_stageAt (s : State) (k : Nat) (c : ChanState) : (putRchan s k c).stageAt = s.stageAt := (rfl)
@[simp] theorem putRchan_bootSlot (s : State) (k : Nat) (c : ChanState) : (putRchan s k c).bootSlot = s.bootSlot := (rfl)
@[simp] theorem putRchan_stuck (s : State) (k : Nat) (c : ChanState) : (putRchan s k c).stuck = s.stuck := (rfl)
@[simp] theorem putRchan_linksUp (s : State) (k : Nat) (c : ChanState) : (putRchan s k c).linksUp = s.linksUp := (rfl)
@[simp] theorem putRchan_driven (s : State) (k : Nat) (c : ChanState) : (putRchan s k c).driven = s.driven := (rfl)
@[simp] theorem putRchan_imgShown (s : State) (k : Nat) (c : ChanState) : (putRchan s k c).imgShown = s.imgShown := (rfl)
@[simp] theorem putRchan_run (s : State) (k : Nat) (c : ChanState) : (putRchan s k c).run = s.run := (rfl)
@[simp] theorem putRchan_firstFinish (s : State) (k : Nat) (c : ChanState) : (putRchan s k c).firstFinish = s.firstFinish := (rfl)
@[simp] theorem putRchan_hbmTrained (s : State) (k : Nat) (c : ChanState) : (putRchan s k c).hbmTrained = s.hbmTrained := (rfl)
@[simp] theorem putRchan_debugHold (s : State) (k : Nat) (c : ChanState) : (putRchan s k c).debugHold = s.debugHold := (rfl)
@[simp] theorem putRchan_avsFails (s : State) (k : Nat) (c : ChanState) : (putRchan s k c).avsFails = s.avsFails := (rfl)
@[simp] theorem putRchan_avsDead (s : State) (k : Nat) (c : ChanState) : (putRchan s k c).avsDead = s.avsDead := (rfl)
@[simp] theorem putRchan_vddMv (s : State) (k : Nat) (c : ChanState) : (putRchan s k c).vddMv = s.vddMv := (rfl)
@[simp] theorem putRchan_avsChange (s : State) (k : Nat) (c : ChanState) : (putRchan s k c).avsChange = s.avsChange := (rfl)
@[simp] theorem putRchan_avsRaise (s : State) (k : Nat) (c : ChanState) : (putRchan s k c).avsRaise = s.avsRaise := (rfl)
@[simp] theorem putRchan_sternMhz (s : State) (k : Nat) (c : ChanState) : (putRchan s k c).sternMhz = s.sternMhz := (rfl)
@[simp] theorem putRchan_fuses (s : State) (k : Nat) (c : ChanState) : (putRchan s k c).fuses = s.fuses := (rfl)
@[simp] theorem putRchan_flash (s : State) (k : Nat) (c : ChanState) : (putRchan s k c).flash = s.flash := (rfl)
@[simp] theorem putRchan_img (s : State) (k : Nat) (c : ChanState) : (putRchan s k c).img = s.img := (rfl)
@[simp] theorem putRchan_contentKey (s : State) (k : Nat) (c : ChanState) : (putRchan s k c).contentKey = s.contentKey := (rfl)
@[simp] theorem putRchan_targetKey (s : State) (k : Nat) (c : ChanState) : (putRchan s k c).targetKey = s.targetKey := (rfl)
@[simp] theorem putRchan_admitted (s : State) (k : Nat) (c : ChanState) : (putRchan s k c).admitted = s.admitted := (rfl)
@[simp] theorem putRchan_lightX (s : State) (k : Nat) (c : ChanState) : (putRchan s k c).lightX = s.lightX := (rfl)
@[simp] theorem putRchan_lightL (s : State) (k : Nat) (c : ChanState) : (putRchan s k c).lightL = s.lightL := (rfl)
@[simp] theorem putRchan_uart (s : State) (k : Nat) (c : ChanState) : (putRchan s k c).uart = s.uart := (rfl)
@[simp] theorem putRchan_uartTx (s : State) (k : Nat) (c : ChanState) : (putRchan s k c).uartTx = s.uartTx := (rfl)
@[simp] theorem putRchan_timerOn (s : State) (k : Nat) (c : ChanState) : (putRchan s k c).timerOn = s.timerOn := (rfl)
@[simp] theorem putRchan_refLost (s : State) (k : Nat) (c : ChanState) : (putRchan s k c).refLost = s.refLost := (rfl)
@[simp] theorem putRchan_lossNs (s : State) (k : Nat) (c : ChanState) : (putRchan s k c).lossNs = s.lossNs := (rfl)
@[simp] theorem putRchan_floorAt (s : State) (k : Nat) (c : ChanState) : (putRchan s k c).floorAt = s.floorAt := (rfl)
@[simp] theorem putRchan_rdEp (s : State) (k : Nat) (c : ChanState) : (putRchan s k c).rdEp = s.rdEp := (rfl)
@[simp] theorem putRchan_strokeNo (s : State) (k : Nat) (c : ChanState) : (putRchan s k c).strokeNo = s.strokeNo := (rfl)
@[simp] theorem putRchan_catchAt (s : State) (k : Nat) (c : ChanState) : (putRchan s k c).catchAt = s.catchAt := (rfl)
@[simp] theorem putRchan_lockNs (s : State) (k : Nat) (c : ChanState) : (putRchan s k c).lockNs = s.lockNs := (rfl)
@[simp] theorem putRchan_edges (s : State) (k : Nat) (c : ChanState) : (putRchan s k c).edges = s.edges := (rfl)
@[simp] theorem putRchan_edgeAt (s : State) (k : Nat) (c : ChanState) : (putRchan s k c).edgeAt = s.edgeAt := (rfl)
@[simp] theorem putRchan_phase (s : State) (k : Nat) (c : ChanState) : (putRchan s k c).phase = s.phase := (rfl)
@[simp] theorem putRchan_syncOut (s : State) (k : Nat) (c : ChanState) : (putRchan s k c).syncOut = s.syncOut := (rfl)
@[simp] theorem putRchan_acqRun (s : State) (k : Nat) (c : ChanState) : (putRchan s k c).acqRun = s.acqRun := (rfl)
@[simp] theorem putRchan_everLocked (s : State) (k : Nat) (c : ChanState) : (putRchan s k c).everLocked = s.everLocked := (rfl)
@[simp] theorem putRchan_earlyEdge (s : State) (k : Nat) (c : ChanState) : (putRchan s k c).earlyEdge = s.earlyEdge := (rfl)
@[simp] theorem putRchan_lateEdge (s : State) (k : Nat) (c : ChanState) : (putRchan s k c).lateEdge = s.lateEdge := (rfl)
@[simp] theorem putRchan_fsRun (s : State) (k : Nat) (c : ChanState) : (putRchan s k c).fsRun = s.fsRun := (rfl)
@[simp] theorem putRchan_fsLast (s : State) (k : Nat) (c : ChanState) : (putRchan s k c).fsLast = s.fsLast := (rfl)
@[simp] theorem putRchan_recovery (s : State) (k : Nat) (c : ChanState) : (putRchan s k c).recovery = s.recovery := (rfl)
@[simp] theorem putRchan_ckptWait (s : State) (k : Nat) (c : ChanState) : (putRchan s k c).ckptWait = s.ckptWait := (rfl)
@[simp] theorem putRchan_chans (s : State) (k : Nat) (c : ChanState) : (putRchan s k c).chans = s.chans := (rfl)
@[simp] theorem putRchan_staged (s : State) (k : Nat) (c : ChanState) : (putRchan s k c).staged = s.staged := (rfl)
@[simp] theorem putRchan_words (s : State) (k : Nat) (c : ChanState) : (putRchan s k c).words = s.words := (rfl)
@[simp] theorem putRchan_lateWords (s : State) (k : Nat) (c : ChanState) : (putRchan s k c).lateWords = s.lateWords := (rfl)
@[simp] theorem putRchan_mclkFlt (s : State) (k : Nat) (c : ChanState) : (putRchan s k c).mclkFlt = s.mclkFlt := (rfl)
@[simp] theorem putRchan_cal (s : State) (k : Nat) (c : ChanState) : (putRchan s k c).cal = s.cal := (rfl)
@[simp] theorem putRchan_calEnd (s : State) (k : Nat) (c : ChanState) : (putRchan s k c).calEnd = s.calEnd := (rfl)
@[simp] theorem putRchan_viepeLow (s : State) (k : Nat) (c : ChanState) : (putRchan s k c).viepeLow = s.viepeLow := (rfl)
@[simp] theorem putRchan_ofsLoaded (s : State) (k : Nat) (c : ChanState) : (putRchan s k c).ofsLoaded = s.ofsLoaded := (rfl)
@[simp] theorem putRchan_ofsPending (s : State) (k : Nat) (c : ChanState) : (putRchan s k c).ofsPending = s.ofsPending := (rfl)
@[simp] theorem putRchan_bridgeStroke (s : State) (k : Nat) (c : ChanState) : (putRchan s k c).bridgeStroke = s.bridgeStroke := (rfl)
@[simp] theorem putRchan_bridgeClean (s : State) (k : Nat) (c : ChanState) : (putRchan s k c).bridgeClean = s.bridgeClean := (rfl)
@[simp] theorem putRchan_links (s : State) (k : Nat) (c : ChanState) : (putRchan s k c).links = s.links := (rfl)
@[simp] theorem putRchan_claiming (s : State) (k : Nat) (c : ChanState) : (putRchan s k c).claiming = s.claiming := (rfl)
@[simp] theorem putRchan_lines (s : State) (k : Nat) (c : ChanState) : (putRchan s k c).lines = s.lines := (rfl)
@[simp] theorem putRchan_pinFaultN (s : State) (k : Nat) (c : ChanState) : (putRchan s k c).pinFaultN = s.pinFaultN := (rfl)
@[simp] theorem putRchan_mbox (s : State) (k : Nat) (c : ChanState) : (putRchan s k c).mbox = s.mbox := (rfl)
@[simp] theorem putRchan_taken (s : State) (k : Nat) (c : ChanState) : (putRchan s k c).taken = s.taken := (rfl)
@[simp] theorem putRchan_long (s : State) (k : Nat) (c : ChanState) : (putRchan s k c).long = s.long := (rfl)
@[simp] theorem putRchan_notices (s : State) (k : Nat) (c : ChanState) : (putRchan s k c).notices = s.notices := (rfl)
@[simp] theorem putRchan_challenge (s : State) (k : Nat) (c : ChanState) : (putRchan s k c).challenge = s.challenge := (rfl)
@[simp] theorem putRchan_authFails (s : State) (k : Nat) (c : ChanState) : (putRchan s k c).authFails = s.authFails := (rfl)
@[simp] theorem putRchan_hostRing (s : State) (k : Nat) (c : ChanState) : (putRchan s k c).hostRing = s.hostRing := (rfl)
@[simp] theorem putRchan_debugAt (s : State) (k : Nat) (c : ChanState) : (putRchan s k c).debugAt = s.debugAt := (rfl)
@[simp] theorem putRchan_debugDue (s : State) (k : Nat) (c : ChanState) : (putRchan s k c).debugDue = s.debugDue := (rfl)
@[simp] theorem putRchan_aliveAt (s : State) (k : Nat) (c : ChanState) : (putRchan s k c).aliveAt = s.aliveAt := (rfl)
@[simp] theorem putRchan_sternFaults (s : State) (k : Nat) (c : ChanState) : (putRchan s k c).sternFaults = s.sternFaults := (rfl)
@[simp] theorem putRchan_sternRestart (s : State) (k : Nat) (c : ChanState) : (putRchan s k c).sternRestart = s.sternRestart := (rfl)
@[simp] theorem putRchan_restarts (s : State) (k : Nat) (c : ChanState) : (putRchan s k c).restarts = s.restarts := (rfl)
@[simp] theorem putRchan_ctxs (s : State) (k : Nat) (c : ChanState) : (putRchan s k c).ctxs = s.ctxs := (rfl)
@[simp] theorem putRchan_sculls (s : State) (k : Nat) (c : ChanState) : (putRchan s k c).sculls = s.sculls := (rfl)
@[simp] theorem putRchan_allot (s : State) (k : Nat) (c : ChanState) : (putRchan s k c).allot = s.allot := (rfl)
@[simp] theorem putRchan_ceTimes (s : State) (k : Nat) (c : ChanState) : (putRchan s k c).ceTimes = s.ceTimes := (rfl)
@[simp] theorem putRchan_insts (s : State) (k : Nat) (c : ChanState) : (putRchan s k c).insts = s.insts := (rfl)
@[simp] theorem putRchan_readmit (s : State) (k : Nat) (c : ChanState) : (putRchan s k c).readmit = s.readmit := (rfl)
@[simp] theorem putRchan_banks (s : State) (k : Nat) (c : ChanState) : (putRchan s k c).banks = s.banks := (rfl)
@[simp] theorem putRchan_ports (s : State) (k : Nat) (c : ChanState) : (putRchan s k c).ports = s.ports := (rfl)
@[simp] theorem putRchan_heard (s : State) (k : Nat) (c : ChanState) : (putRchan s k c).heard = s.heard := (rfl)
@[simp] theorem putRchan_heardPrev (s : State) (k : Nat) (c : ChanState) : (putRchan s k c).heardPrev = s.heardPrev := (rfl)
@[simp] theorem putRchan_misses (s : State) (k : Nat) (c : ChanState) : (putRchan s k c).misses = s.misses := (rfl)
@[simp] theorem putRchan_aliveFor (s : State) (k : Nat) (c : ChanState) : (putRchan s k c).aliveFor = s.aliveFor := (rfl)
@[simp] theorem putRchan_slipRun (s : State) (k : Nat) (c : ChanState) : (putRchan s k c).slipRun = s.slipRun := (rfl)
@[simp] theorem putRchan_okRun (s : State) (k : Nat) (c : ChanState) : (putRchan s k c).okRun = s.okRun := (rfl)
@[simp] theorem putRchan_rsOfs (s : State) (k : Nat) (c : ChanState) : (putRchan s k c).rsOfs = s.rsOfs := (rfl)
@[simp] theorem putRchan_mirrors (s : State) (k : Nat) (c : ChanState) : (putRchan s k c).mirrors = s.mirrors := (rfl)
@[simp] theorem putRchan_chg (s : State) (k : Nat) (c : ChanState) : (putRchan s k c).chg = s.chg := (rfl)
@[simp] theorem putRchan_staging (s : State) (k : Nat) (c : ChanState) : (putRchan s k c).staging = s.staging := (rfl)
@[simp] theorem putRchan_msixTable (s : State) (k : Nat) (c : ChanState) : (putRchan s k c).msixTable = s.msixTable := (rfl)
@[simp] theorem putRchan_pba (s : State) (k : Nat) (c : ChanState) : (putRchan s k c).pba = s.pba := (rfl)
@[simp] theorem putRchan_msgAt (s : State) (k : Nat) (c : ChanState) : (putRchan s k c).msgAt = s.msgAt := (rfl)
@[simp] theorem putRchan_msgWaiting (s : State) (k : Nat) (c : ChanState) : (putRchan s k c).msgWaiting = s.msgWaiting := (rfl)
@[simp] theorem putRchan_sentCount (s : State) (k : Nat) (c : ChanState) : (putRchan s k c).sentCount = s.sentCount := (rfl)
@[simp] theorem putRchan_ringSeq (s : State) (k : Nat) (c : ChanState) : (putRchan s k c).ringSeq = s.ringSeq := (rfl)
@[simp] theorem putRchan_ringSince (s : State) (k : Nat) (c : ChanState) : (putRchan s k c).ringSince = s.ringSince := (rfl)
@[simp] theorem putRchan_winOpen (s : State) (k : Nat) (c : ChanState) : (putRchan s k c).winOpen = s.winOpen := (rfl)
@[simp] theorem putRchan_winCount (s : State) (k : Nat) (c : ChanState) : (putRchan s k c).winCount = s.winCount := (rfl)
@[simp] theorem putRchan_perst (s : State) (k : Nat) (c : ChanState) : (putRchan s k c).perst = s.perst := (rfl)
@[simp] theorem putRchan_jtagIr (s : State) (k : Nat) (c : ChanState) : (putRchan s k c).jtagIr = s.jtagIr := (rfl)
@[simp] theorem putRchan_holding (s : State) (k : Nat) (c : ChanState) : (putRchan s k c).holding = s.holding := (rfl)

@[simp] theorem putMirror_pending (s : State) (k : Nat) (c : MirrorBuf) : (putMirror s k c).pending = s.pending := (rfl)
@[simp] theorem putMirror_now (s : State) (k : Nat) (c : MirrorBuf) : (putMirror s k c).now = s.now := (rfl)
@[simp] theorem putMirror_free (s : State) (k : Nat) (c : MirrorBuf) : (putMirror s k c).free = s.free := (rfl)
@[simp] theorem putMirror_regs (s : State) (k : Nat) (c : MirrorBuf) : (putMirror s k c).regs = s.regs := (rfl)
@[simp] theorem putMirror_rdData (s : State) (k : Nat) (c : MirrorBuf) : (putMirror s k c).rdData = s.rdData := (rfl)
@[simp] theorem putMirror_mem (s : State) (k : Nat) (c : MirrorBuf) : (putMirror s k c).mem = s.mem := (rfl)
@[simp] theorem putMirror_poisoned (s : State) (k : Nat) (c : MirrorBuf) : (putMirror s k c).poisoned = s.poisoned := (rfl)
@[simp] theorem putMirror_everInRange (s : State) (k : Nat) (c : MirrorBuf) : (putMirror s k c).everInRange = s.everInRange := (rfl)
@[simp] theorem putMirror_inReset (s : State) (k : Nat) (c : MirrorBuf) : (putMirror s k c).inReset = s.inReset := (rfl)
@[simp] theorem putMirror_railReset (s : State) (k : Nat) (c : MirrorBuf) : (putMirror s k c).railReset = s.railReset := (rfl)
@[simp] theorem putMirror_resetAt (s : State) (k : Nat) (c : MirrorBuf) : (putMirror s k c).resetAt = s.resetAt := (rfl)
@[simp] theorem putMirror_stageAt (s : State) (k : Nat) (c : MirrorBuf) : (putMirror s k c).stageAt = s.stageAt := (rfl)
@[simp] theorem putMirror_bootSlot (s : State) (k : Nat) (c : MirrorBuf) : (putMirror s k c).bootSlot = s.bootSlot := (rfl)
@[simp] theorem putMirror_stuck (s : State) (k : Nat) (c : MirrorBuf) : (putMirror s k c).stuck = s.stuck := (rfl)
@[simp] theorem putMirror_linksUp (s : State) (k : Nat) (c : MirrorBuf) : (putMirror s k c).linksUp = s.linksUp := (rfl)
@[simp] theorem putMirror_driven (s : State) (k : Nat) (c : MirrorBuf) : (putMirror s k c).driven = s.driven := (rfl)
@[simp] theorem putMirror_imgShown (s : State) (k : Nat) (c : MirrorBuf) : (putMirror s k c).imgShown = s.imgShown := (rfl)
@[simp] theorem putMirror_run (s : State) (k : Nat) (c : MirrorBuf) : (putMirror s k c).run = s.run := (rfl)
@[simp] theorem putMirror_firstFinish (s : State) (k : Nat) (c : MirrorBuf) : (putMirror s k c).firstFinish = s.firstFinish := (rfl)
@[simp] theorem putMirror_hbmTrained (s : State) (k : Nat) (c : MirrorBuf) : (putMirror s k c).hbmTrained = s.hbmTrained := (rfl)
@[simp] theorem putMirror_debugHold (s : State) (k : Nat) (c : MirrorBuf) : (putMirror s k c).debugHold = s.debugHold := (rfl)
@[simp] theorem putMirror_avsFails (s : State) (k : Nat) (c : MirrorBuf) : (putMirror s k c).avsFails = s.avsFails := (rfl)
@[simp] theorem putMirror_avsDead (s : State) (k : Nat) (c : MirrorBuf) : (putMirror s k c).avsDead = s.avsDead := (rfl)
@[simp] theorem putMirror_vddMv (s : State) (k : Nat) (c : MirrorBuf) : (putMirror s k c).vddMv = s.vddMv := (rfl)
@[simp] theorem putMirror_avsChange (s : State) (k : Nat) (c : MirrorBuf) : (putMirror s k c).avsChange = s.avsChange := (rfl)
@[simp] theorem putMirror_avsRaise (s : State) (k : Nat) (c : MirrorBuf) : (putMirror s k c).avsRaise = s.avsRaise := (rfl)
@[simp] theorem putMirror_sternMhz (s : State) (k : Nat) (c : MirrorBuf) : (putMirror s k c).sternMhz = s.sternMhz := (rfl)
@[simp] theorem putMirror_fuses (s : State) (k : Nat) (c : MirrorBuf) : (putMirror s k c).fuses = s.fuses := (rfl)
@[simp] theorem putMirror_flash (s : State) (k : Nat) (c : MirrorBuf) : (putMirror s k c).flash = s.flash := (rfl)
@[simp] theorem putMirror_img (s : State) (k : Nat) (c : MirrorBuf) : (putMirror s k c).img = s.img := (rfl)
@[simp] theorem putMirror_contentKey (s : State) (k : Nat) (c : MirrorBuf) : (putMirror s k c).contentKey = s.contentKey := (rfl)
@[simp] theorem putMirror_targetKey (s : State) (k : Nat) (c : MirrorBuf) : (putMirror s k c).targetKey = s.targetKey := (rfl)
@[simp] theorem putMirror_admitted (s : State) (k : Nat) (c : MirrorBuf) : (putMirror s k c).admitted = s.admitted := (rfl)
@[simp] theorem putMirror_lightX (s : State) (k : Nat) (c : MirrorBuf) : (putMirror s k c).lightX = s.lightX := (rfl)
@[simp] theorem putMirror_lightL (s : State) (k : Nat) (c : MirrorBuf) : (putMirror s k c).lightL = s.lightL := (rfl)
@[simp] theorem putMirror_uart (s : State) (k : Nat) (c : MirrorBuf) : (putMirror s k c).uart = s.uart := (rfl)
@[simp] theorem putMirror_uartTx (s : State) (k : Nat) (c : MirrorBuf) : (putMirror s k c).uartTx = s.uartTx := (rfl)
@[simp] theorem putMirror_timerOn (s : State) (k : Nat) (c : MirrorBuf) : (putMirror s k c).timerOn = s.timerOn := (rfl)
@[simp] theorem putMirror_refLost (s : State) (k : Nat) (c : MirrorBuf) : (putMirror s k c).refLost = s.refLost := (rfl)
@[simp] theorem putMirror_lossNs (s : State) (k : Nat) (c : MirrorBuf) : (putMirror s k c).lossNs = s.lossNs := (rfl)
@[simp] theorem putMirror_floorAt (s : State) (k : Nat) (c : MirrorBuf) : (putMirror s k c).floorAt = s.floorAt := (rfl)
@[simp] theorem putMirror_rdEp (s : State) (k : Nat) (c : MirrorBuf) : (putMirror s k c).rdEp = s.rdEp := (rfl)
@[simp] theorem putMirror_strokeNo (s : State) (k : Nat) (c : MirrorBuf) : (putMirror s k c).strokeNo = s.strokeNo := (rfl)
@[simp] theorem putMirror_catchAt (s : State) (k : Nat) (c : MirrorBuf) : (putMirror s k c).catchAt = s.catchAt := (rfl)
@[simp] theorem putMirror_lockNs (s : State) (k : Nat) (c : MirrorBuf) : (putMirror s k c).lockNs = s.lockNs := (rfl)
@[simp] theorem putMirror_edges (s : State) (k : Nat) (c : MirrorBuf) : (putMirror s k c).edges = s.edges := (rfl)
@[simp] theorem putMirror_edgeAt (s : State) (k : Nat) (c : MirrorBuf) : (putMirror s k c).edgeAt = s.edgeAt := (rfl)
@[simp] theorem putMirror_phase (s : State) (k : Nat) (c : MirrorBuf) : (putMirror s k c).phase = s.phase := (rfl)
@[simp] theorem putMirror_syncOut (s : State) (k : Nat) (c : MirrorBuf) : (putMirror s k c).syncOut = s.syncOut := (rfl)
@[simp] theorem putMirror_acqRun (s : State) (k : Nat) (c : MirrorBuf) : (putMirror s k c).acqRun = s.acqRun := (rfl)
@[simp] theorem putMirror_everLocked (s : State) (k : Nat) (c : MirrorBuf) : (putMirror s k c).everLocked = s.everLocked := (rfl)
@[simp] theorem putMirror_earlyEdge (s : State) (k : Nat) (c : MirrorBuf) : (putMirror s k c).earlyEdge = s.earlyEdge := (rfl)
@[simp] theorem putMirror_lateEdge (s : State) (k : Nat) (c : MirrorBuf) : (putMirror s k c).lateEdge = s.lateEdge := (rfl)
@[simp] theorem putMirror_fsRun (s : State) (k : Nat) (c : MirrorBuf) : (putMirror s k c).fsRun = s.fsRun := (rfl)
@[simp] theorem putMirror_fsLast (s : State) (k : Nat) (c : MirrorBuf) : (putMirror s k c).fsLast = s.fsLast := (rfl)
@[simp] theorem putMirror_recovery (s : State) (k : Nat) (c : MirrorBuf) : (putMirror s k c).recovery = s.recovery := (rfl)
@[simp] theorem putMirror_ckptWait (s : State) (k : Nat) (c : MirrorBuf) : (putMirror s k c).ckptWait = s.ckptWait := (rfl)
@[simp] theorem putMirror_chans (s : State) (k : Nat) (c : MirrorBuf) : (putMirror s k c).chans = s.chans := (rfl)
@[simp] theorem putMirror_staged (s : State) (k : Nat) (c : MirrorBuf) : (putMirror s k c).staged = s.staged := (rfl)
@[simp] theorem putMirror_words (s : State) (k : Nat) (c : MirrorBuf) : (putMirror s k c).words = s.words := (rfl)
@[simp] theorem putMirror_lateWords (s : State) (k : Nat) (c : MirrorBuf) : (putMirror s k c).lateWords = s.lateWords := (rfl)
@[simp] theorem putMirror_mclkFlt (s : State) (k : Nat) (c : MirrorBuf) : (putMirror s k c).mclkFlt = s.mclkFlt := (rfl)
@[simp] theorem putMirror_cal (s : State) (k : Nat) (c : MirrorBuf) : (putMirror s k c).cal = s.cal := (rfl)
@[simp] theorem putMirror_calEnd (s : State) (k : Nat) (c : MirrorBuf) : (putMirror s k c).calEnd = s.calEnd := (rfl)
@[simp] theorem putMirror_viepeLow (s : State) (k : Nat) (c : MirrorBuf) : (putMirror s k c).viepeLow = s.viepeLow := (rfl)
@[simp] theorem putMirror_ofsLoaded (s : State) (k : Nat) (c : MirrorBuf) : (putMirror s k c).ofsLoaded = s.ofsLoaded := (rfl)
@[simp] theorem putMirror_ofsPending (s : State) (k : Nat) (c : MirrorBuf) : (putMirror s k c).ofsPending = s.ofsPending := (rfl)
@[simp] theorem putMirror_bridgeStroke (s : State) (k : Nat) (c : MirrorBuf) : (putMirror s k c).bridgeStroke = s.bridgeStroke := (rfl)
@[simp] theorem putMirror_bridgeClean (s : State) (k : Nat) (c : MirrorBuf) : (putMirror s k c).bridgeClean = s.bridgeClean := (rfl)
@[simp] theorem putMirror_links (s : State) (k : Nat) (c : MirrorBuf) : (putMirror s k c).links = s.links := (rfl)
@[simp] theorem putMirror_claiming (s : State) (k : Nat) (c : MirrorBuf) : (putMirror s k c).claiming = s.claiming := (rfl)
@[simp] theorem putMirror_lines (s : State) (k : Nat) (c : MirrorBuf) : (putMirror s k c).lines = s.lines := (rfl)
@[simp] theorem putMirror_pinFaultN (s : State) (k : Nat) (c : MirrorBuf) : (putMirror s k c).pinFaultN = s.pinFaultN := (rfl)
@[simp] theorem putMirror_mbox (s : State) (k : Nat) (c : MirrorBuf) : (putMirror s k c).mbox = s.mbox := (rfl)
@[simp] theorem putMirror_taken (s : State) (k : Nat) (c : MirrorBuf) : (putMirror s k c).taken = s.taken := (rfl)
@[simp] theorem putMirror_long (s : State) (k : Nat) (c : MirrorBuf) : (putMirror s k c).long = s.long := (rfl)
@[simp] theorem putMirror_notices (s : State) (k : Nat) (c : MirrorBuf) : (putMirror s k c).notices = s.notices := (rfl)
@[simp] theorem putMirror_challenge (s : State) (k : Nat) (c : MirrorBuf) : (putMirror s k c).challenge = s.challenge := (rfl)
@[simp] theorem putMirror_authFails (s : State) (k : Nat) (c : MirrorBuf) : (putMirror s k c).authFails = s.authFails := (rfl)
@[simp] theorem putMirror_hostRing (s : State) (k : Nat) (c : MirrorBuf) : (putMirror s k c).hostRing = s.hostRing := (rfl)
@[simp] theorem putMirror_debugAt (s : State) (k : Nat) (c : MirrorBuf) : (putMirror s k c).debugAt = s.debugAt := (rfl)
@[simp] theorem putMirror_debugDue (s : State) (k : Nat) (c : MirrorBuf) : (putMirror s k c).debugDue = s.debugDue := (rfl)
@[simp] theorem putMirror_aliveAt (s : State) (k : Nat) (c : MirrorBuf) : (putMirror s k c).aliveAt = s.aliveAt := (rfl)
@[simp] theorem putMirror_sternFaults (s : State) (k : Nat) (c : MirrorBuf) : (putMirror s k c).sternFaults = s.sternFaults := (rfl)
@[simp] theorem putMirror_sternRestart (s : State) (k : Nat) (c : MirrorBuf) : (putMirror s k c).sternRestart = s.sternRestart := (rfl)
@[simp] theorem putMirror_restarts (s : State) (k : Nat) (c : MirrorBuf) : (putMirror s k c).restarts = s.restarts := (rfl)
@[simp] theorem putMirror_ctxs (s : State) (k : Nat) (c : MirrorBuf) : (putMirror s k c).ctxs = s.ctxs := (rfl)
@[simp] theorem putMirror_sculls (s : State) (k : Nat) (c : MirrorBuf) : (putMirror s k c).sculls = s.sculls := (rfl)
@[simp] theorem putMirror_allot (s : State) (k : Nat) (c : MirrorBuf) : (putMirror s k c).allot = s.allot := (rfl)
@[simp] theorem putMirror_ceTimes (s : State) (k : Nat) (c : MirrorBuf) : (putMirror s k c).ceTimes = s.ceTimes := (rfl)
@[simp] theorem putMirror_insts (s : State) (k : Nat) (c : MirrorBuf) : (putMirror s k c).insts = s.insts := (rfl)
@[simp] theorem putMirror_readmit (s : State) (k : Nat) (c : MirrorBuf) : (putMirror s k c).readmit = s.readmit := (rfl)
@[simp] theorem putMirror_banks (s : State) (k : Nat) (c : MirrorBuf) : (putMirror s k c).banks = s.banks := (rfl)
@[simp] theorem putMirror_ports (s : State) (k : Nat) (c : MirrorBuf) : (putMirror s k c).ports = s.ports := (rfl)
@[simp] theorem putMirror_rchans (s : State) (k : Nat) (c : MirrorBuf) : (putMirror s k c).rchans = s.rchans := (rfl)
@[simp] theorem putMirror_heard (s : State) (k : Nat) (c : MirrorBuf) : (putMirror s k c).heard = s.heard := (rfl)
@[simp] theorem putMirror_heardPrev (s : State) (k : Nat) (c : MirrorBuf) : (putMirror s k c).heardPrev = s.heardPrev := (rfl)
@[simp] theorem putMirror_misses (s : State) (k : Nat) (c : MirrorBuf) : (putMirror s k c).misses = s.misses := (rfl)
@[simp] theorem putMirror_aliveFor (s : State) (k : Nat) (c : MirrorBuf) : (putMirror s k c).aliveFor = s.aliveFor := (rfl)
@[simp] theorem putMirror_slipRun (s : State) (k : Nat) (c : MirrorBuf) : (putMirror s k c).slipRun = s.slipRun := (rfl)
@[simp] theorem putMirror_okRun (s : State) (k : Nat) (c : MirrorBuf) : (putMirror s k c).okRun = s.okRun := (rfl)
@[simp] theorem putMirror_rsOfs (s : State) (k : Nat) (c : MirrorBuf) : (putMirror s k c).rsOfs = s.rsOfs := (rfl)
@[simp] theorem putMirror_chg (s : State) (k : Nat) (c : MirrorBuf) : (putMirror s k c).chg = s.chg := (rfl)
@[simp] theorem putMirror_staging (s : State) (k : Nat) (c : MirrorBuf) : (putMirror s k c).staging = s.staging := (rfl)
@[simp] theorem putMirror_msixTable (s : State) (k : Nat) (c : MirrorBuf) : (putMirror s k c).msixTable = s.msixTable := (rfl)
@[simp] theorem putMirror_pba (s : State) (k : Nat) (c : MirrorBuf) : (putMirror s k c).pba = s.pba := (rfl)
@[simp] theorem putMirror_msgAt (s : State) (k : Nat) (c : MirrorBuf) : (putMirror s k c).msgAt = s.msgAt := (rfl)
@[simp] theorem putMirror_msgWaiting (s : State) (k : Nat) (c : MirrorBuf) : (putMirror s k c).msgWaiting = s.msgWaiting := (rfl)
@[simp] theorem putMirror_sentCount (s : State) (k : Nat) (c : MirrorBuf) : (putMirror s k c).sentCount = s.sentCount := (rfl)
@[simp] theorem putMirror_ringSeq (s : State) (k : Nat) (c : MirrorBuf) : (putMirror s k c).ringSeq = s.ringSeq := (rfl)
@[simp] theorem putMirror_ringSince (s : State) (k : Nat) (c : MirrorBuf) : (putMirror s k c).ringSince = s.ringSince := (rfl)
@[simp] theorem putMirror_winOpen (s : State) (k : Nat) (c : MirrorBuf) : (putMirror s k c).winOpen = s.winOpen := (rfl)
@[simp] theorem putMirror_winCount (s : State) (k : Nat) (c : MirrorBuf) : (putMirror s k c).winCount = s.winCount := (rfl)
@[simp] theorem putMirror_perst (s : State) (k : Nat) (c : MirrorBuf) : (putMirror s k c).perst = s.perst := (rfl)
@[simp] theorem putMirror_jtagIr (s : State) (k : Nat) (c : MirrorBuf) : (putMirror s k c).jtagIr = s.jtagIr := (rfl)
@[simp] theorem putMirror_holding (s : State) (k : Nat) (c : MirrorBuf) : (putMirror s k c).holding = s.holding := (rfl)

@[simp] theorem putMbox_pending (s : State) (k : Nat) (c : MboxTimes) : (putMbox s k c).pending = s.pending := (rfl)
@[simp] theorem putMbox_now (s : State) (k : Nat) (c : MboxTimes) : (putMbox s k c).now = s.now := (rfl)
@[simp] theorem putMbox_free (s : State) (k : Nat) (c : MboxTimes) : (putMbox s k c).free = s.free := (rfl)
@[simp] theorem putMbox_regs (s : State) (k : Nat) (c : MboxTimes) : (putMbox s k c).regs = s.regs := (rfl)
@[simp] theorem putMbox_rdData (s : State) (k : Nat) (c : MboxTimes) : (putMbox s k c).rdData = s.rdData := (rfl)
@[simp] theorem putMbox_mem (s : State) (k : Nat) (c : MboxTimes) : (putMbox s k c).mem = s.mem := (rfl)
@[simp] theorem putMbox_poisoned (s : State) (k : Nat) (c : MboxTimes) : (putMbox s k c).poisoned = s.poisoned := (rfl)
@[simp] theorem putMbox_everInRange (s : State) (k : Nat) (c : MboxTimes) : (putMbox s k c).everInRange = s.everInRange := (rfl)
@[simp] theorem putMbox_inReset (s : State) (k : Nat) (c : MboxTimes) : (putMbox s k c).inReset = s.inReset := (rfl)
@[simp] theorem putMbox_railReset (s : State) (k : Nat) (c : MboxTimes) : (putMbox s k c).railReset = s.railReset := (rfl)
@[simp] theorem putMbox_resetAt (s : State) (k : Nat) (c : MboxTimes) : (putMbox s k c).resetAt = s.resetAt := (rfl)
@[simp] theorem putMbox_stageAt (s : State) (k : Nat) (c : MboxTimes) : (putMbox s k c).stageAt = s.stageAt := (rfl)
@[simp] theorem putMbox_bootSlot (s : State) (k : Nat) (c : MboxTimes) : (putMbox s k c).bootSlot = s.bootSlot := (rfl)
@[simp] theorem putMbox_stuck (s : State) (k : Nat) (c : MboxTimes) : (putMbox s k c).stuck = s.stuck := (rfl)
@[simp] theorem putMbox_linksUp (s : State) (k : Nat) (c : MboxTimes) : (putMbox s k c).linksUp = s.linksUp := (rfl)
@[simp] theorem putMbox_driven (s : State) (k : Nat) (c : MboxTimes) : (putMbox s k c).driven = s.driven := (rfl)
@[simp] theorem putMbox_imgShown (s : State) (k : Nat) (c : MboxTimes) : (putMbox s k c).imgShown = s.imgShown := (rfl)
@[simp] theorem putMbox_run (s : State) (k : Nat) (c : MboxTimes) : (putMbox s k c).run = s.run := (rfl)
@[simp] theorem putMbox_firstFinish (s : State) (k : Nat) (c : MboxTimes) : (putMbox s k c).firstFinish = s.firstFinish := (rfl)
@[simp] theorem putMbox_hbmTrained (s : State) (k : Nat) (c : MboxTimes) : (putMbox s k c).hbmTrained = s.hbmTrained := (rfl)
@[simp] theorem putMbox_debugHold (s : State) (k : Nat) (c : MboxTimes) : (putMbox s k c).debugHold = s.debugHold := (rfl)
@[simp] theorem putMbox_avsFails (s : State) (k : Nat) (c : MboxTimes) : (putMbox s k c).avsFails = s.avsFails := (rfl)
@[simp] theorem putMbox_avsDead (s : State) (k : Nat) (c : MboxTimes) : (putMbox s k c).avsDead = s.avsDead := (rfl)
@[simp] theorem putMbox_vddMv (s : State) (k : Nat) (c : MboxTimes) : (putMbox s k c).vddMv = s.vddMv := (rfl)
@[simp] theorem putMbox_avsChange (s : State) (k : Nat) (c : MboxTimes) : (putMbox s k c).avsChange = s.avsChange := (rfl)
@[simp] theorem putMbox_avsRaise (s : State) (k : Nat) (c : MboxTimes) : (putMbox s k c).avsRaise = s.avsRaise := (rfl)
@[simp] theorem putMbox_sternMhz (s : State) (k : Nat) (c : MboxTimes) : (putMbox s k c).sternMhz = s.sternMhz := (rfl)
@[simp] theorem putMbox_fuses (s : State) (k : Nat) (c : MboxTimes) : (putMbox s k c).fuses = s.fuses := (rfl)
@[simp] theorem putMbox_flash (s : State) (k : Nat) (c : MboxTimes) : (putMbox s k c).flash = s.flash := (rfl)
@[simp] theorem putMbox_img (s : State) (k : Nat) (c : MboxTimes) : (putMbox s k c).img = s.img := (rfl)
@[simp] theorem putMbox_contentKey (s : State) (k : Nat) (c : MboxTimes) : (putMbox s k c).contentKey = s.contentKey := (rfl)
@[simp] theorem putMbox_targetKey (s : State) (k : Nat) (c : MboxTimes) : (putMbox s k c).targetKey = s.targetKey := (rfl)
@[simp] theorem putMbox_admitted (s : State) (k : Nat) (c : MboxTimes) : (putMbox s k c).admitted = s.admitted := (rfl)
@[simp] theorem putMbox_lightX (s : State) (k : Nat) (c : MboxTimes) : (putMbox s k c).lightX = s.lightX := (rfl)
@[simp] theorem putMbox_lightL (s : State) (k : Nat) (c : MboxTimes) : (putMbox s k c).lightL = s.lightL := (rfl)
@[simp] theorem putMbox_uart (s : State) (k : Nat) (c : MboxTimes) : (putMbox s k c).uart = s.uart := (rfl)
@[simp] theorem putMbox_uartTx (s : State) (k : Nat) (c : MboxTimes) : (putMbox s k c).uartTx = s.uartTx := (rfl)
@[simp] theorem putMbox_timerOn (s : State) (k : Nat) (c : MboxTimes) : (putMbox s k c).timerOn = s.timerOn := (rfl)
@[simp] theorem putMbox_refLost (s : State) (k : Nat) (c : MboxTimes) : (putMbox s k c).refLost = s.refLost := (rfl)
@[simp] theorem putMbox_lossNs (s : State) (k : Nat) (c : MboxTimes) : (putMbox s k c).lossNs = s.lossNs := (rfl)
@[simp] theorem putMbox_floorAt (s : State) (k : Nat) (c : MboxTimes) : (putMbox s k c).floorAt = s.floorAt := (rfl)
@[simp] theorem putMbox_rdEp (s : State) (k : Nat) (c : MboxTimes) : (putMbox s k c).rdEp = s.rdEp := (rfl)
@[simp] theorem putMbox_strokeNo (s : State) (k : Nat) (c : MboxTimes) : (putMbox s k c).strokeNo = s.strokeNo := (rfl)
@[simp] theorem putMbox_catchAt (s : State) (k : Nat) (c : MboxTimes) : (putMbox s k c).catchAt = s.catchAt := (rfl)
@[simp] theorem putMbox_lockNs (s : State) (k : Nat) (c : MboxTimes) : (putMbox s k c).lockNs = s.lockNs := (rfl)
@[simp] theorem putMbox_edges (s : State) (k : Nat) (c : MboxTimes) : (putMbox s k c).edges = s.edges := (rfl)
@[simp] theorem putMbox_edgeAt (s : State) (k : Nat) (c : MboxTimes) : (putMbox s k c).edgeAt = s.edgeAt := (rfl)
@[simp] theorem putMbox_phase (s : State) (k : Nat) (c : MboxTimes) : (putMbox s k c).phase = s.phase := (rfl)
@[simp] theorem putMbox_syncOut (s : State) (k : Nat) (c : MboxTimes) : (putMbox s k c).syncOut = s.syncOut := (rfl)
@[simp] theorem putMbox_acqRun (s : State) (k : Nat) (c : MboxTimes) : (putMbox s k c).acqRun = s.acqRun := (rfl)
@[simp] theorem putMbox_everLocked (s : State) (k : Nat) (c : MboxTimes) : (putMbox s k c).everLocked = s.everLocked := (rfl)
@[simp] theorem putMbox_earlyEdge (s : State) (k : Nat) (c : MboxTimes) : (putMbox s k c).earlyEdge = s.earlyEdge := (rfl)
@[simp] theorem putMbox_lateEdge (s : State) (k : Nat) (c : MboxTimes) : (putMbox s k c).lateEdge = s.lateEdge := (rfl)
@[simp] theorem putMbox_fsRun (s : State) (k : Nat) (c : MboxTimes) : (putMbox s k c).fsRun = s.fsRun := (rfl)
@[simp] theorem putMbox_fsLast (s : State) (k : Nat) (c : MboxTimes) : (putMbox s k c).fsLast = s.fsLast := (rfl)
@[simp] theorem putMbox_recovery (s : State) (k : Nat) (c : MboxTimes) : (putMbox s k c).recovery = s.recovery := (rfl)
@[simp] theorem putMbox_ckptWait (s : State) (k : Nat) (c : MboxTimes) : (putMbox s k c).ckptWait = s.ckptWait := (rfl)
@[simp] theorem putMbox_chans (s : State) (k : Nat) (c : MboxTimes) : (putMbox s k c).chans = s.chans := (rfl)
@[simp] theorem putMbox_staged (s : State) (k : Nat) (c : MboxTimes) : (putMbox s k c).staged = s.staged := (rfl)
@[simp] theorem putMbox_words (s : State) (k : Nat) (c : MboxTimes) : (putMbox s k c).words = s.words := (rfl)
@[simp] theorem putMbox_lateWords (s : State) (k : Nat) (c : MboxTimes) : (putMbox s k c).lateWords = s.lateWords := (rfl)
@[simp] theorem putMbox_mclkFlt (s : State) (k : Nat) (c : MboxTimes) : (putMbox s k c).mclkFlt = s.mclkFlt := (rfl)
@[simp] theorem putMbox_cal (s : State) (k : Nat) (c : MboxTimes) : (putMbox s k c).cal = s.cal := (rfl)
@[simp] theorem putMbox_calEnd (s : State) (k : Nat) (c : MboxTimes) : (putMbox s k c).calEnd = s.calEnd := (rfl)
@[simp] theorem putMbox_viepeLow (s : State) (k : Nat) (c : MboxTimes) : (putMbox s k c).viepeLow = s.viepeLow := (rfl)
@[simp] theorem putMbox_ofsLoaded (s : State) (k : Nat) (c : MboxTimes) : (putMbox s k c).ofsLoaded = s.ofsLoaded := (rfl)
@[simp] theorem putMbox_ofsPending (s : State) (k : Nat) (c : MboxTimes) : (putMbox s k c).ofsPending = s.ofsPending := (rfl)
@[simp] theorem putMbox_bridgeStroke (s : State) (k : Nat) (c : MboxTimes) : (putMbox s k c).bridgeStroke = s.bridgeStroke := (rfl)
@[simp] theorem putMbox_bridgeClean (s : State) (k : Nat) (c : MboxTimes) : (putMbox s k c).bridgeClean = s.bridgeClean := (rfl)
@[simp] theorem putMbox_links (s : State) (k : Nat) (c : MboxTimes) : (putMbox s k c).links = s.links := (rfl)
@[simp] theorem putMbox_claiming (s : State) (k : Nat) (c : MboxTimes) : (putMbox s k c).claiming = s.claiming := (rfl)
@[simp] theorem putMbox_lines (s : State) (k : Nat) (c : MboxTimes) : (putMbox s k c).lines = s.lines := (rfl)
@[simp] theorem putMbox_pinFaultN (s : State) (k : Nat) (c : MboxTimes) : (putMbox s k c).pinFaultN = s.pinFaultN := (rfl)
@[simp] theorem putMbox_taken (s : State) (k : Nat) (c : MboxTimes) : (putMbox s k c).taken = s.taken := (rfl)
@[simp] theorem putMbox_long (s : State) (k : Nat) (c : MboxTimes) : (putMbox s k c).long = s.long := (rfl)
@[simp] theorem putMbox_notices (s : State) (k : Nat) (c : MboxTimes) : (putMbox s k c).notices = s.notices := (rfl)
@[simp] theorem putMbox_challenge (s : State) (k : Nat) (c : MboxTimes) : (putMbox s k c).challenge = s.challenge := (rfl)
@[simp] theorem putMbox_authFails (s : State) (k : Nat) (c : MboxTimes) : (putMbox s k c).authFails = s.authFails := (rfl)
@[simp] theorem putMbox_hostRing (s : State) (k : Nat) (c : MboxTimes) : (putMbox s k c).hostRing = s.hostRing := (rfl)
@[simp] theorem putMbox_debugAt (s : State) (k : Nat) (c : MboxTimes) : (putMbox s k c).debugAt = s.debugAt := (rfl)
@[simp] theorem putMbox_debugDue (s : State) (k : Nat) (c : MboxTimes) : (putMbox s k c).debugDue = s.debugDue := (rfl)
@[simp] theorem putMbox_aliveAt (s : State) (k : Nat) (c : MboxTimes) : (putMbox s k c).aliveAt = s.aliveAt := (rfl)
@[simp] theorem putMbox_sternFaults (s : State) (k : Nat) (c : MboxTimes) : (putMbox s k c).sternFaults = s.sternFaults := (rfl)
@[simp] theorem putMbox_sternRestart (s : State) (k : Nat) (c : MboxTimes) : (putMbox s k c).sternRestart = s.sternRestart := (rfl)
@[simp] theorem putMbox_restarts (s : State) (k : Nat) (c : MboxTimes) : (putMbox s k c).restarts = s.restarts := (rfl)
@[simp] theorem putMbox_ctxs (s : State) (k : Nat) (c : MboxTimes) : (putMbox s k c).ctxs = s.ctxs := (rfl)
@[simp] theorem putMbox_sculls (s : State) (k : Nat) (c : MboxTimes) : (putMbox s k c).sculls = s.sculls := (rfl)
@[simp] theorem putMbox_allot (s : State) (k : Nat) (c : MboxTimes) : (putMbox s k c).allot = s.allot := (rfl)
@[simp] theorem putMbox_ceTimes (s : State) (k : Nat) (c : MboxTimes) : (putMbox s k c).ceTimes = s.ceTimes := (rfl)
@[simp] theorem putMbox_insts (s : State) (k : Nat) (c : MboxTimes) : (putMbox s k c).insts = s.insts := (rfl)
@[simp] theorem putMbox_readmit (s : State) (k : Nat) (c : MboxTimes) : (putMbox s k c).readmit = s.readmit := (rfl)
@[simp] theorem putMbox_banks (s : State) (k : Nat) (c : MboxTimes) : (putMbox s k c).banks = s.banks := (rfl)
@[simp] theorem putMbox_ports (s : State) (k : Nat) (c : MboxTimes) : (putMbox s k c).ports = s.ports := (rfl)
@[simp] theorem putMbox_rchans (s : State) (k : Nat) (c : MboxTimes) : (putMbox s k c).rchans = s.rchans := (rfl)
@[simp] theorem putMbox_heard (s : State) (k : Nat) (c : MboxTimes) : (putMbox s k c).heard = s.heard := (rfl)
@[simp] theorem putMbox_heardPrev (s : State) (k : Nat) (c : MboxTimes) : (putMbox s k c).heardPrev = s.heardPrev := (rfl)
@[simp] theorem putMbox_misses (s : State) (k : Nat) (c : MboxTimes) : (putMbox s k c).misses = s.misses := (rfl)
@[simp] theorem putMbox_aliveFor (s : State) (k : Nat) (c : MboxTimes) : (putMbox s k c).aliveFor = s.aliveFor := (rfl)
@[simp] theorem putMbox_slipRun (s : State) (k : Nat) (c : MboxTimes) : (putMbox s k c).slipRun = s.slipRun := (rfl)
@[simp] theorem putMbox_okRun (s : State) (k : Nat) (c : MboxTimes) : (putMbox s k c).okRun = s.okRun := (rfl)
@[simp] theorem putMbox_rsOfs (s : State) (k : Nat) (c : MboxTimes) : (putMbox s k c).rsOfs = s.rsOfs := (rfl)
@[simp] theorem putMbox_mirrors (s : State) (k : Nat) (c : MboxTimes) : (putMbox s k c).mirrors = s.mirrors := (rfl)
@[simp] theorem putMbox_chg (s : State) (k : Nat) (c : MboxTimes) : (putMbox s k c).chg = s.chg := (rfl)
@[simp] theorem putMbox_staging (s : State) (k : Nat) (c : MboxTimes) : (putMbox s k c).staging = s.staging := (rfl)
@[simp] theorem putMbox_msixTable (s : State) (k : Nat) (c : MboxTimes) : (putMbox s k c).msixTable = s.msixTable := (rfl)
@[simp] theorem putMbox_pba (s : State) (k : Nat) (c : MboxTimes) : (putMbox s k c).pba = s.pba := (rfl)
@[simp] theorem putMbox_msgAt (s : State) (k : Nat) (c : MboxTimes) : (putMbox s k c).msgAt = s.msgAt := (rfl)
@[simp] theorem putMbox_msgWaiting (s : State) (k : Nat) (c : MboxTimes) : (putMbox s k c).msgWaiting = s.msgWaiting := (rfl)
@[simp] theorem putMbox_sentCount (s : State) (k : Nat) (c : MboxTimes) : (putMbox s k c).sentCount = s.sentCount := (rfl)
@[simp] theorem putMbox_ringSeq (s : State) (k : Nat) (c : MboxTimes) : (putMbox s k c).ringSeq = s.ringSeq := (rfl)
@[simp] theorem putMbox_ringSince (s : State) (k : Nat) (c : MboxTimes) : (putMbox s k c).ringSince = s.ringSince := (rfl)
@[simp] theorem putMbox_winOpen (s : State) (k : Nat) (c : MboxTimes) : (putMbox s k c).winOpen = s.winOpen := (rfl)
@[simp] theorem putMbox_winCount (s : State) (k : Nat) (c : MboxTimes) : (putMbox s k c).winCount = s.winCount := (rfl)
@[simp] theorem putMbox_perst (s : State) (k : Nat) (c : MboxTimes) : (putMbox s k c).perst = s.perst := (rfl)
@[simp] theorem putMbox_jtagIr (s : State) (k : Nat) (c : MboxTimes) : (putMbox s k c).jtagIr = s.jtagIr := (rfl)
@[simp] theorem putMbox_holding (s : State) (k : Nat) (c : MboxTimes) : (putMbox s k c).holding = s.holding := (rfl)

@[simp] theorem mrd_wr (s : State) (r : Reg) (i : Nat) (v : Word) (x : Nat) : mrd (wr s r i v) x = mrd s x := (rfl)
@[simp] theorem ctxAt_wr (s : State) (r : Reg) (i : Nat) (v : Word) (j : Nat) : ctxAt (wr s r i v) j = ctxAt s j := (rfl)
@[simp] theorem scullAt_wr (s : State) (r : Reg) (i : Nat) (v : Word) (j : Nat) : scullAt (wr s r i v) j = scullAt s j := (rfl)
@[simp] theorem instAt_wr (s : State) (r : Reg) (i : Nat) (v : Word) (j : Nat) : instAt (wr s r i v) j = instAt s j := (rfl)
@[simp] theorem bankAt_wr (s : State) (r : Reg) (i : Nat) (v : Word) (j : Nat) : bankAt (wr s r i v) j = bankAt s j := (rfl)
@[simp] theorem portAt_wr (s : State) (r : Reg) (i : Nat) (v : Word) (j : Nat) : portAt (wr s r i v) j = portAt s j := (rfl)
@[simp] theorem linkAt_wr (s : State) (r : Reg) (i : Nat) (v : Word) (j : Nat) : linkAt (wr s r i v) j = linkAt s j := (rfl)
@[simp] theorem lineAt_wr (s : State) (r : Reg) (i : Nat) (v : Word) (j : Nat) : lineAt (wr s r i v) j = lineAt s j := (rfl)
@[simp] theorem chanAt_wr (s : State) (r : Reg) (i : Nat) (v : Word) (j : Nat) : chanAt (wr s r i v) j = chanAt s j := (rfl)
@[simp] theorem rchanAt_wr (s : State) (r : Reg) (i : Nat) (v : Word) (j : Nat) : rchanAt (wr s r i v) j = rchanAt s j := (rfl)
@[simp] theorem mirrorAt_wr (s : State) (r : Reg) (i : Nat) (v : Word) (j : Nat) : mirrorAt (wr s r i v) j = mirrorAt s j := (rfl)
@[simp] theorem mboxAt_wr (s : State) (r : Reg) (i : Nat) (v : Word) (j : Nat) : mboxAt (wr s r i v) j = mboxAt s j := (rfl)

@[simp] theorem rd_memWrite (s : State) (a : Nat) (bs : List Byte) (q : Reg) (j : Nat) : rd (memWrite s a bs) q j = rd s q j := (rfl)
@[simp] theorem rdf_memWrite (s : State) (a : Nat) (bs : List Byte) (q : Reg) (j hi lo : Nat) : rdf (memWrite s a bs) q j hi lo = rdf s q j hi lo := (rfl)
@[simp] theorem rdb_memWrite (s : State) (a : Nat) (bs : List Byte) (q : Reg) (j b : Nat) : rdb (memWrite s a bs) q j b = rdb s q j b := (rfl)
@[simp] theorem ctxAt_memWrite (s : State) (a : Nat) (bs : List Byte) (j : Nat) : ctxAt (memWrite s a bs) j = ctxAt s j := (rfl)
@[simp] theorem scullAt_memWrite (s : State) (a : Nat) (bs : List Byte) (j : Nat) : scullAt (memWrite s a bs) j = scullAt s j := (rfl)
@[simp] theorem instAt_memWrite (s : State) (a : Nat) (bs : List Byte) (j : Nat) : instAt (memWrite s a bs) j = instAt s j := (rfl)
@[simp] theorem bankAt_memWrite (s : State) (a : Nat) (bs : List Byte) (j : Nat) : bankAt (memWrite s a bs) j = bankAt s j := (rfl)
@[simp] theorem portAt_memWrite (s : State) (a : Nat) (bs : List Byte) (j : Nat) : portAt (memWrite s a bs) j = portAt s j := (rfl)
@[simp] theorem linkAt_memWrite (s : State) (a : Nat) (bs : List Byte) (j : Nat) : linkAt (memWrite s a bs) j = linkAt s j := (rfl)
@[simp] theorem lineAt_memWrite (s : State) (a : Nat) (bs : List Byte) (j : Nat) : lineAt (memWrite s a bs) j = lineAt s j := (rfl)
@[simp] theorem chanAt_memWrite (s : State) (a : Nat) (bs : List Byte) (j : Nat) : chanAt (memWrite s a bs) j = chanAt s j := (rfl)
@[simp] theorem rchanAt_memWrite (s : State) (a : Nat) (bs : List Byte) (j : Nat) : rchanAt (memWrite s a bs) j = rchanAt s j := (rfl)
@[simp] theorem mirrorAt_memWrite (s : State) (a : Nat) (bs : List Byte) (j : Nat) : mirrorAt (memWrite s a bs) j = mirrorAt s j := (rfl)
@[simp] theorem mboxAt_memWrite (s : State) (a : Nat) (bs : List Byte) (j : Nat) : mboxAt (memWrite s a bs) j = mboxAt s j := (rfl)

@[simp] theorem rd_memClear (s : State) (a n : Nat) (q : Reg) (j : Nat) : rd (memClear s a n) q j = rd s q j := (rfl)
@[simp] theorem rdf_memClear (s : State) (a n : Nat) (q : Reg) (j hi lo : Nat) : rdf (memClear s a n) q j hi lo = rdf s q j hi lo := (rfl)
@[simp] theorem rdb_memClear (s : State) (a n : Nat) (q : Reg) (j b : Nat) : rdb (memClear s a n) q j b = rdb s q j b := (rfl)
@[simp] theorem ctxAt_memClear (s : State) (a n : Nat) (j : Nat) : ctxAt (memClear s a n) j = ctxAt s j := (rfl)
@[simp] theorem scullAt_memClear (s : State) (a n : Nat) (j : Nat) : scullAt (memClear s a n) j = scullAt s j := (rfl)
@[simp] theorem instAt_memClear (s : State) (a n : Nat) (j : Nat) : instAt (memClear s a n) j = instAt s j := (rfl)
@[simp] theorem bankAt_memClear (s : State) (a n : Nat) (j : Nat) : bankAt (memClear s a n) j = bankAt s j := (rfl)
@[simp] theorem portAt_memClear (s : State) (a n : Nat) (j : Nat) : portAt (memClear s a n) j = portAt s j := (rfl)
@[simp] theorem linkAt_memClear (s : State) (a n : Nat) (j : Nat) : linkAt (memClear s a n) j = linkAt s j := (rfl)
@[simp] theorem lineAt_memClear (s : State) (a n : Nat) (j : Nat) : lineAt (memClear s a n) j = lineAt s j := (rfl)
@[simp] theorem chanAt_memClear (s : State) (a n : Nat) (j : Nat) : chanAt (memClear s a n) j = chanAt s j := (rfl)
@[simp] theorem rchanAt_memClear (s : State) (a n : Nat) (j : Nat) : rchanAt (memClear s a n) j = rchanAt s j := (rfl)
@[simp] theorem mirrorAt_memClear (s : State) (a n : Nat) (j : Nat) : mirrorAt (memClear s a n) j = mirrorAt s j := (rfl)
@[simp] theorem mboxAt_memClear (s : State) (a n : Nat) (j : Nat) : mboxAt (memClear s a n) j = mboxAt s j := (rfl)

@[simp] theorem rd_poisonWord (s : State) (a : Nat) (q : Reg) (j : Nat) : rd (poisonWord s a) q j = rd s q j := (rfl)
@[simp] theorem rdf_poisonWord (s : State) (a : Nat) (q : Reg) (j hi lo : Nat) : rdf (poisonWord s a) q j hi lo = rdf s q j hi lo := (rfl)
@[simp] theorem rdb_poisonWord (s : State) (a : Nat) (q : Reg) (j b : Nat) : rdb (poisonWord s a) q j b = rdb s q j b := (rfl)
@[simp] theorem mrd_poisonWord (s : State) (a : Nat) (x : Nat) : mrd (poisonWord s a) x = mrd s x := (rfl)
@[simp] theorem ctxAt_poisonWord (s : State) (a : Nat) (j : Nat) : ctxAt (poisonWord s a) j = ctxAt s j := (rfl)
@[simp] theorem scullAt_poisonWord (s : State) (a : Nat) (j : Nat) : scullAt (poisonWord s a) j = scullAt s j := (rfl)
@[simp] theorem instAt_poisonWord (s : State) (a : Nat) (j : Nat) : instAt (poisonWord s a) j = instAt s j := (rfl)
@[simp] theorem bankAt_poisonWord (s : State) (a : Nat) (j : Nat) : bankAt (poisonWord s a) j = bankAt s j := (rfl)
@[simp] theorem portAt_poisonWord (s : State) (a : Nat) (j : Nat) : portAt (poisonWord s a) j = portAt s j := (rfl)
@[simp] theorem linkAt_poisonWord (s : State) (a : Nat) (j : Nat) : linkAt (poisonWord s a) j = linkAt s j := (rfl)
@[simp] theorem lineAt_poisonWord (s : State) (a : Nat) (j : Nat) : lineAt (poisonWord s a) j = lineAt s j := (rfl)
@[simp] theorem chanAt_poisonWord (s : State) (a : Nat) (j : Nat) : chanAt (poisonWord s a) j = chanAt s j := (rfl)
@[simp] theorem rchanAt_poisonWord (s : State) (a : Nat) (j : Nat) : rchanAt (poisonWord s a) j = rchanAt s j := (rfl)
@[simp] theorem mirrorAt_poisonWord (s : State) (a : Nat) (j : Nat) : mirrorAt (poisonWord s a) j = mirrorAt s j := (rfl)
@[simp] theorem mboxAt_poisonWord (s : State) (a : Nat) (j : Nat) : mboxAt (poisonWord s a) j = mboxAt s j := (rfl)

@[simp] theorem rd_putCtx (s : State) (k : Nat) (c : Ctx) (q : Reg) (j : Nat) : rd (putCtx s k c) q j = rd s q j := (rfl)
@[simp] theorem rdf_putCtx (s : State) (k : Nat) (c : Ctx) (q : Reg) (j hi lo : Nat) : rdf (putCtx s k c) q j hi lo = rdf s q j hi lo := (rfl)
@[simp] theorem rdb_putCtx (s : State) (k : Nat) (c : Ctx) (q : Reg) (j b : Nat) : rdb (putCtx s k c) q j b = rdb s q j b := (rfl)
@[simp] theorem mrd_putCtx (s : State) (k : Nat) (c : Ctx) (x : Nat) : mrd (putCtx s k c) x = mrd s x := (rfl)
@[simp] theorem scullAt_putCtx (s : State) (k : Nat) (c : Ctx) (j : Nat) : scullAt (putCtx s k c) j = scullAt s j := (rfl)
@[simp] theorem instAt_putCtx (s : State) (k : Nat) (c : Ctx) (j : Nat) : instAt (putCtx s k c) j = instAt s j := (rfl)
@[simp] theorem bankAt_putCtx (s : State) (k : Nat) (c : Ctx) (j : Nat) : bankAt (putCtx s k c) j = bankAt s j := (rfl)
@[simp] theorem portAt_putCtx (s : State) (k : Nat) (c : Ctx) (j : Nat) : portAt (putCtx s k c) j = portAt s j := (rfl)
@[simp] theorem linkAt_putCtx (s : State) (k : Nat) (c : Ctx) (j : Nat) : linkAt (putCtx s k c) j = linkAt s j := (rfl)
@[simp] theorem lineAt_putCtx (s : State) (k : Nat) (c : Ctx) (j : Nat) : lineAt (putCtx s k c) j = lineAt s j := (rfl)
@[simp] theorem chanAt_putCtx (s : State) (k : Nat) (c : Ctx) (j : Nat) : chanAt (putCtx s k c) j = chanAt s j := (rfl)
@[simp] theorem rchanAt_putCtx (s : State) (k : Nat) (c : Ctx) (j : Nat) : rchanAt (putCtx s k c) j = rchanAt s j := (rfl)
@[simp] theorem mirrorAt_putCtx (s : State) (k : Nat) (c : Ctx) (j : Nat) : mirrorAt (putCtx s k c) j = mirrorAt s j := (rfl)
@[simp] theorem mboxAt_putCtx (s : State) (k : Nat) (c : Ctx) (j : Nat) : mboxAt (putCtx s k c) j = mboxAt s j := (rfl)

@[simp] theorem rd_putScull (s : State) (k : Nat) (c : Scull) (q : Reg) (j : Nat) : rd (putScull s k c) q j = rd s q j := (rfl)
@[simp] theorem rdf_putScull (s : State) (k : Nat) (c : Scull) (q : Reg) (j hi lo : Nat) : rdf (putScull s k c) q j hi lo = rdf s q j hi lo := (rfl)
@[simp] theorem rdb_putScull (s : State) (k : Nat) (c : Scull) (q : Reg) (j b : Nat) : rdb (putScull s k c) q j b = rdb s q j b := (rfl)
@[simp] theorem mrd_putScull (s : State) (k : Nat) (c : Scull) (x : Nat) : mrd (putScull s k c) x = mrd s x := (rfl)
@[simp] theorem ctxAt_putScull (s : State) (k : Nat) (c : Scull) (j : Nat) : ctxAt (putScull s k c) j = ctxAt s j := (rfl)
@[simp] theorem instAt_putScull (s : State) (k : Nat) (c : Scull) (j : Nat) : instAt (putScull s k c) j = instAt s j := (rfl)
@[simp] theorem bankAt_putScull (s : State) (k : Nat) (c : Scull) (j : Nat) : bankAt (putScull s k c) j = bankAt s j := (rfl)
@[simp] theorem portAt_putScull (s : State) (k : Nat) (c : Scull) (j : Nat) : portAt (putScull s k c) j = portAt s j := (rfl)
@[simp] theorem linkAt_putScull (s : State) (k : Nat) (c : Scull) (j : Nat) : linkAt (putScull s k c) j = linkAt s j := (rfl)
@[simp] theorem lineAt_putScull (s : State) (k : Nat) (c : Scull) (j : Nat) : lineAt (putScull s k c) j = lineAt s j := (rfl)
@[simp] theorem chanAt_putScull (s : State) (k : Nat) (c : Scull) (j : Nat) : chanAt (putScull s k c) j = chanAt s j := (rfl)
@[simp] theorem rchanAt_putScull (s : State) (k : Nat) (c : Scull) (j : Nat) : rchanAt (putScull s k c) j = rchanAt s j := (rfl)
@[simp] theorem mirrorAt_putScull (s : State) (k : Nat) (c : Scull) (j : Nat) : mirrorAt (putScull s k c) j = mirrorAt s j := (rfl)
@[simp] theorem mboxAt_putScull (s : State) (k : Nat) (c : Scull) (j : Nat) : mboxAt (putScull s k c) j = mboxAt s j := (rfl)

@[simp] theorem rd_putInst (s : State) (k : Nat) (c : Inst) (q : Reg) (j : Nat) : rd (putInst s k c) q j = rd s q j := (rfl)
@[simp] theorem rdf_putInst (s : State) (k : Nat) (c : Inst) (q : Reg) (j hi lo : Nat) : rdf (putInst s k c) q j hi lo = rdf s q j hi lo := (rfl)
@[simp] theorem rdb_putInst (s : State) (k : Nat) (c : Inst) (q : Reg) (j b : Nat) : rdb (putInst s k c) q j b = rdb s q j b := (rfl)
@[simp] theorem mrd_putInst (s : State) (k : Nat) (c : Inst) (x : Nat) : mrd (putInst s k c) x = mrd s x := (rfl)
@[simp] theorem ctxAt_putInst (s : State) (k : Nat) (c : Inst) (j : Nat) : ctxAt (putInst s k c) j = ctxAt s j := (rfl)
@[simp] theorem scullAt_putInst (s : State) (k : Nat) (c : Inst) (j : Nat) : scullAt (putInst s k c) j = scullAt s j := (rfl)
@[simp] theorem bankAt_putInst (s : State) (k : Nat) (c : Inst) (j : Nat) : bankAt (putInst s k c) j = bankAt s j := (rfl)
@[simp] theorem portAt_putInst (s : State) (k : Nat) (c : Inst) (j : Nat) : portAt (putInst s k c) j = portAt s j := (rfl)
@[simp] theorem linkAt_putInst (s : State) (k : Nat) (c : Inst) (j : Nat) : linkAt (putInst s k c) j = linkAt s j := (rfl)
@[simp] theorem lineAt_putInst (s : State) (k : Nat) (c : Inst) (j : Nat) : lineAt (putInst s k c) j = lineAt s j := (rfl)
@[simp] theorem chanAt_putInst (s : State) (k : Nat) (c : Inst) (j : Nat) : chanAt (putInst s k c) j = chanAt s j := (rfl)
@[simp] theorem rchanAt_putInst (s : State) (k : Nat) (c : Inst) (j : Nat) : rchanAt (putInst s k c) j = rchanAt s j := (rfl)
@[simp] theorem mirrorAt_putInst (s : State) (k : Nat) (c : Inst) (j : Nat) : mirrorAt (putInst s k c) j = mirrorAt s j := (rfl)
@[simp] theorem mboxAt_putInst (s : State) (k : Nat) (c : Inst) (j : Nat) : mboxAt (putInst s k c) j = mboxAt s j := (rfl)

@[simp] theorem rd_putBank (s : State) (k : Nat) (c : Bank) (q : Reg) (j : Nat) : rd (putBank s k c) q j = rd s q j := (rfl)
@[simp] theorem rdf_putBank (s : State) (k : Nat) (c : Bank) (q : Reg) (j hi lo : Nat) : rdf (putBank s k c) q j hi lo = rdf s q j hi lo := (rfl)
@[simp] theorem rdb_putBank (s : State) (k : Nat) (c : Bank) (q : Reg) (j b : Nat) : rdb (putBank s k c) q j b = rdb s q j b := (rfl)
@[simp] theorem mrd_putBank (s : State) (k : Nat) (c : Bank) (x : Nat) : mrd (putBank s k c) x = mrd s x := (rfl)
@[simp] theorem ctxAt_putBank (s : State) (k : Nat) (c : Bank) (j : Nat) : ctxAt (putBank s k c) j = ctxAt s j := (rfl)
@[simp] theorem scullAt_putBank (s : State) (k : Nat) (c : Bank) (j : Nat) : scullAt (putBank s k c) j = scullAt s j := (rfl)
@[simp] theorem instAt_putBank (s : State) (k : Nat) (c : Bank) (j : Nat) : instAt (putBank s k c) j = instAt s j := (rfl)
@[simp] theorem portAt_putBank (s : State) (k : Nat) (c : Bank) (j : Nat) : portAt (putBank s k c) j = portAt s j := (rfl)
@[simp] theorem linkAt_putBank (s : State) (k : Nat) (c : Bank) (j : Nat) : linkAt (putBank s k c) j = linkAt s j := (rfl)
@[simp] theorem lineAt_putBank (s : State) (k : Nat) (c : Bank) (j : Nat) : lineAt (putBank s k c) j = lineAt s j := (rfl)
@[simp] theorem chanAt_putBank (s : State) (k : Nat) (c : Bank) (j : Nat) : chanAt (putBank s k c) j = chanAt s j := (rfl)
@[simp] theorem rchanAt_putBank (s : State) (k : Nat) (c : Bank) (j : Nat) : rchanAt (putBank s k c) j = rchanAt s j := (rfl)
@[simp] theorem mirrorAt_putBank (s : State) (k : Nat) (c : Bank) (j : Nat) : mirrorAt (putBank s k c) j = mirrorAt s j := (rfl)
@[simp] theorem mboxAt_putBank (s : State) (k : Nat) (c : Bank) (j : Nat) : mboxAt (putBank s k c) j = mboxAt s j := (rfl)

@[simp] theorem rd_putPort (s : State) (k : Nat) (c : Port) (q : Reg) (j : Nat) : rd (putPort s k c) q j = rd s q j := (rfl)
@[simp] theorem rdf_putPort (s : State) (k : Nat) (c : Port) (q : Reg) (j hi lo : Nat) : rdf (putPort s k c) q j hi lo = rdf s q j hi lo := (rfl)
@[simp] theorem rdb_putPort (s : State) (k : Nat) (c : Port) (q : Reg) (j b : Nat) : rdb (putPort s k c) q j b = rdb s q j b := (rfl)
@[simp] theorem mrd_putPort (s : State) (k : Nat) (c : Port) (x : Nat) : mrd (putPort s k c) x = mrd s x := (rfl)
@[simp] theorem ctxAt_putPort (s : State) (k : Nat) (c : Port) (j : Nat) : ctxAt (putPort s k c) j = ctxAt s j := (rfl)
@[simp] theorem scullAt_putPort (s : State) (k : Nat) (c : Port) (j : Nat) : scullAt (putPort s k c) j = scullAt s j := (rfl)
@[simp] theorem instAt_putPort (s : State) (k : Nat) (c : Port) (j : Nat) : instAt (putPort s k c) j = instAt s j := (rfl)
@[simp] theorem bankAt_putPort (s : State) (k : Nat) (c : Port) (j : Nat) : bankAt (putPort s k c) j = bankAt s j := (rfl)
@[simp] theorem linkAt_putPort (s : State) (k : Nat) (c : Port) (j : Nat) : linkAt (putPort s k c) j = linkAt s j := (rfl)
@[simp] theorem lineAt_putPort (s : State) (k : Nat) (c : Port) (j : Nat) : lineAt (putPort s k c) j = lineAt s j := (rfl)
@[simp] theorem chanAt_putPort (s : State) (k : Nat) (c : Port) (j : Nat) : chanAt (putPort s k c) j = chanAt s j := (rfl)
@[simp] theorem rchanAt_putPort (s : State) (k : Nat) (c : Port) (j : Nat) : rchanAt (putPort s k c) j = rchanAt s j := (rfl)
@[simp] theorem mirrorAt_putPort (s : State) (k : Nat) (c : Port) (j : Nat) : mirrorAt (putPort s k c) j = mirrorAt s j := (rfl)
@[simp] theorem mboxAt_putPort (s : State) (k : Nat) (c : Port) (j : Nat) : mboxAt (putPort s k c) j = mboxAt s j := (rfl)

@[simp] theorem rd_putLink (s : State) (k : Nat) (c : Link) (q : Reg) (j : Nat) : rd (putLink s k c) q j = rd s q j := (rfl)
@[simp] theorem rdf_putLink (s : State) (k : Nat) (c : Link) (q : Reg) (j hi lo : Nat) : rdf (putLink s k c) q j hi lo = rdf s q j hi lo := (rfl)
@[simp] theorem rdb_putLink (s : State) (k : Nat) (c : Link) (q : Reg) (j b : Nat) : rdb (putLink s k c) q j b = rdb s q j b := (rfl)
@[simp] theorem mrd_putLink (s : State) (k : Nat) (c : Link) (x : Nat) : mrd (putLink s k c) x = mrd s x := (rfl)
@[simp] theorem ctxAt_putLink (s : State) (k : Nat) (c : Link) (j : Nat) : ctxAt (putLink s k c) j = ctxAt s j := (rfl)
@[simp] theorem scullAt_putLink (s : State) (k : Nat) (c : Link) (j : Nat) : scullAt (putLink s k c) j = scullAt s j := (rfl)
@[simp] theorem instAt_putLink (s : State) (k : Nat) (c : Link) (j : Nat) : instAt (putLink s k c) j = instAt s j := (rfl)
@[simp] theorem bankAt_putLink (s : State) (k : Nat) (c : Link) (j : Nat) : bankAt (putLink s k c) j = bankAt s j := (rfl)
@[simp] theorem portAt_putLink (s : State) (k : Nat) (c : Link) (j : Nat) : portAt (putLink s k c) j = portAt s j := (rfl)
@[simp] theorem lineAt_putLink (s : State) (k : Nat) (c : Link) (j : Nat) : lineAt (putLink s k c) j = lineAt s j := (rfl)
@[simp] theorem chanAt_putLink (s : State) (k : Nat) (c : Link) (j : Nat) : chanAt (putLink s k c) j = chanAt s j := (rfl)
@[simp] theorem rchanAt_putLink (s : State) (k : Nat) (c : Link) (j : Nat) : rchanAt (putLink s k c) j = rchanAt s j := (rfl)
@[simp] theorem mirrorAt_putLink (s : State) (k : Nat) (c : Link) (j : Nat) : mirrorAt (putLink s k c) j = mirrorAt s j := (rfl)
@[simp] theorem mboxAt_putLink (s : State) (k : Nat) (c : Link) (j : Nat) : mboxAt (putLink s k c) j = mboxAt s j := (rfl)

@[simp] theorem rd_putLine (s : State) (k : Nat) (c : StopLine) (q : Reg) (j : Nat) : rd (putLine s k c) q j = rd s q j := (rfl)
@[simp] theorem rdf_putLine (s : State) (k : Nat) (c : StopLine) (q : Reg) (j hi lo : Nat) : rdf (putLine s k c) q j hi lo = rdf s q j hi lo := (rfl)
@[simp] theorem rdb_putLine (s : State) (k : Nat) (c : StopLine) (q : Reg) (j b : Nat) : rdb (putLine s k c) q j b = rdb s q j b := (rfl)
@[simp] theorem mrd_putLine (s : State) (k : Nat) (c : StopLine) (x : Nat) : mrd (putLine s k c) x = mrd s x := (rfl)
@[simp] theorem ctxAt_putLine (s : State) (k : Nat) (c : StopLine) (j : Nat) : ctxAt (putLine s k c) j = ctxAt s j := (rfl)
@[simp] theorem scullAt_putLine (s : State) (k : Nat) (c : StopLine) (j : Nat) : scullAt (putLine s k c) j = scullAt s j := (rfl)
@[simp] theorem instAt_putLine (s : State) (k : Nat) (c : StopLine) (j : Nat) : instAt (putLine s k c) j = instAt s j := (rfl)
@[simp] theorem bankAt_putLine (s : State) (k : Nat) (c : StopLine) (j : Nat) : bankAt (putLine s k c) j = bankAt s j := (rfl)
@[simp] theorem portAt_putLine (s : State) (k : Nat) (c : StopLine) (j : Nat) : portAt (putLine s k c) j = portAt s j := (rfl)
@[simp] theorem linkAt_putLine (s : State) (k : Nat) (c : StopLine) (j : Nat) : linkAt (putLine s k c) j = linkAt s j := (rfl)
@[simp] theorem chanAt_putLine (s : State) (k : Nat) (c : StopLine) (j : Nat) : chanAt (putLine s k c) j = chanAt s j := (rfl)
@[simp] theorem rchanAt_putLine (s : State) (k : Nat) (c : StopLine) (j : Nat) : rchanAt (putLine s k c) j = rchanAt s j := (rfl)
@[simp] theorem mirrorAt_putLine (s : State) (k : Nat) (c : StopLine) (j : Nat) : mirrorAt (putLine s k c) j = mirrorAt s j := (rfl)
@[simp] theorem mboxAt_putLine (s : State) (k : Nat) (c : StopLine) (j : Nat) : mboxAt (putLine s k c) j = mboxAt s j := (rfl)

@[simp] theorem rd_putChan (s : State) (k : Nat) (c : SenseChan) (q : Reg) (j : Nat) : rd (putChan s k c) q j = rd s q j := (rfl)
@[simp] theorem rdf_putChan (s : State) (k : Nat) (c : SenseChan) (q : Reg) (j hi lo : Nat) : rdf (putChan s k c) q j hi lo = rdf s q j hi lo := (rfl)
@[simp] theorem rdb_putChan (s : State) (k : Nat) (c : SenseChan) (q : Reg) (j b : Nat) : rdb (putChan s k c) q j b = rdb s q j b := (rfl)
@[simp] theorem mrd_putChan (s : State) (k : Nat) (c : SenseChan) (x : Nat) : mrd (putChan s k c) x = mrd s x := (rfl)
@[simp] theorem ctxAt_putChan (s : State) (k : Nat) (c : SenseChan) (j : Nat) : ctxAt (putChan s k c) j = ctxAt s j := (rfl)
@[simp] theorem scullAt_putChan (s : State) (k : Nat) (c : SenseChan) (j : Nat) : scullAt (putChan s k c) j = scullAt s j := (rfl)
@[simp] theorem instAt_putChan (s : State) (k : Nat) (c : SenseChan) (j : Nat) : instAt (putChan s k c) j = instAt s j := (rfl)
@[simp] theorem bankAt_putChan (s : State) (k : Nat) (c : SenseChan) (j : Nat) : bankAt (putChan s k c) j = bankAt s j := (rfl)
@[simp] theorem portAt_putChan (s : State) (k : Nat) (c : SenseChan) (j : Nat) : portAt (putChan s k c) j = portAt s j := (rfl)
@[simp] theorem linkAt_putChan (s : State) (k : Nat) (c : SenseChan) (j : Nat) : linkAt (putChan s k c) j = linkAt s j := (rfl)
@[simp] theorem lineAt_putChan (s : State) (k : Nat) (c : SenseChan) (j : Nat) : lineAt (putChan s k c) j = lineAt s j := (rfl)
@[simp] theorem rchanAt_putChan (s : State) (k : Nat) (c : SenseChan) (j : Nat) : rchanAt (putChan s k c) j = rchanAt s j := (rfl)
@[simp] theorem mirrorAt_putChan (s : State) (k : Nat) (c : SenseChan) (j : Nat) : mirrorAt (putChan s k c) j = mirrorAt s j := (rfl)
@[simp] theorem mboxAt_putChan (s : State) (k : Nat) (c : SenseChan) (j : Nat) : mboxAt (putChan s k c) j = mboxAt s j := (rfl)

@[simp] theorem rd_putRchan (s : State) (k : Nat) (c : ChanState) (q : Reg) (j : Nat) : rd (putRchan s k c) q j = rd s q j := (rfl)
@[simp] theorem rdf_putRchan (s : State) (k : Nat) (c : ChanState) (q : Reg) (j hi lo : Nat) : rdf (putRchan s k c) q j hi lo = rdf s q j hi lo := (rfl)
@[simp] theorem rdb_putRchan (s : State) (k : Nat) (c : ChanState) (q : Reg) (j b : Nat) : rdb (putRchan s k c) q j b = rdb s q j b := (rfl)
@[simp] theorem mrd_putRchan (s : State) (k : Nat) (c : ChanState) (x : Nat) : mrd (putRchan s k c) x = mrd s x := (rfl)
@[simp] theorem ctxAt_putRchan (s : State) (k : Nat) (c : ChanState) (j : Nat) : ctxAt (putRchan s k c) j = ctxAt s j := (rfl)
@[simp] theorem scullAt_putRchan (s : State) (k : Nat) (c : ChanState) (j : Nat) : scullAt (putRchan s k c) j = scullAt s j := (rfl)
@[simp] theorem instAt_putRchan (s : State) (k : Nat) (c : ChanState) (j : Nat) : instAt (putRchan s k c) j = instAt s j := (rfl)
@[simp] theorem bankAt_putRchan (s : State) (k : Nat) (c : ChanState) (j : Nat) : bankAt (putRchan s k c) j = bankAt s j := (rfl)
@[simp] theorem portAt_putRchan (s : State) (k : Nat) (c : ChanState) (j : Nat) : portAt (putRchan s k c) j = portAt s j := (rfl)
@[simp] theorem linkAt_putRchan (s : State) (k : Nat) (c : ChanState) (j : Nat) : linkAt (putRchan s k c) j = linkAt s j := (rfl)
@[simp] theorem lineAt_putRchan (s : State) (k : Nat) (c : ChanState) (j : Nat) : lineAt (putRchan s k c) j = lineAt s j := (rfl)
@[simp] theorem chanAt_putRchan (s : State) (k : Nat) (c : ChanState) (j : Nat) : chanAt (putRchan s k c) j = chanAt s j := (rfl)
@[simp] theorem mirrorAt_putRchan (s : State) (k : Nat) (c : ChanState) (j : Nat) : mirrorAt (putRchan s k c) j = mirrorAt s j := (rfl)
@[simp] theorem mboxAt_putRchan (s : State) (k : Nat) (c : ChanState) (j : Nat) : mboxAt (putRchan s k c) j = mboxAt s j := (rfl)

@[simp] theorem rd_putMirror (s : State) (k : Nat) (c : MirrorBuf) (q : Reg) (j : Nat) : rd (putMirror s k c) q j = rd s q j := (rfl)
@[simp] theorem rdf_putMirror (s : State) (k : Nat) (c : MirrorBuf) (q : Reg) (j hi lo : Nat) : rdf (putMirror s k c) q j hi lo = rdf s q j hi lo := (rfl)
@[simp] theorem rdb_putMirror (s : State) (k : Nat) (c : MirrorBuf) (q : Reg) (j b : Nat) : rdb (putMirror s k c) q j b = rdb s q j b := (rfl)
@[simp] theorem mrd_putMirror (s : State) (k : Nat) (c : MirrorBuf) (x : Nat) : mrd (putMirror s k c) x = mrd s x := (rfl)
@[simp] theorem ctxAt_putMirror (s : State) (k : Nat) (c : MirrorBuf) (j : Nat) : ctxAt (putMirror s k c) j = ctxAt s j := (rfl)
@[simp] theorem scullAt_putMirror (s : State) (k : Nat) (c : MirrorBuf) (j : Nat) : scullAt (putMirror s k c) j = scullAt s j := (rfl)
@[simp] theorem instAt_putMirror (s : State) (k : Nat) (c : MirrorBuf) (j : Nat) : instAt (putMirror s k c) j = instAt s j := (rfl)
@[simp] theorem bankAt_putMirror (s : State) (k : Nat) (c : MirrorBuf) (j : Nat) : bankAt (putMirror s k c) j = bankAt s j := (rfl)
@[simp] theorem portAt_putMirror (s : State) (k : Nat) (c : MirrorBuf) (j : Nat) : portAt (putMirror s k c) j = portAt s j := (rfl)
@[simp] theorem linkAt_putMirror (s : State) (k : Nat) (c : MirrorBuf) (j : Nat) : linkAt (putMirror s k c) j = linkAt s j := (rfl)
@[simp] theorem lineAt_putMirror (s : State) (k : Nat) (c : MirrorBuf) (j : Nat) : lineAt (putMirror s k c) j = lineAt s j := (rfl)
@[simp] theorem chanAt_putMirror (s : State) (k : Nat) (c : MirrorBuf) (j : Nat) : chanAt (putMirror s k c) j = chanAt s j := (rfl)
@[simp] theorem rchanAt_putMirror (s : State) (k : Nat) (c : MirrorBuf) (j : Nat) : rchanAt (putMirror s k c) j = rchanAt s j := (rfl)
@[simp] theorem mboxAt_putMirror (s : State) (k : Nat) (c : MirrorBuf) (j : Nat) : mboxAt (putMirror s k c) j = mboxAt s j := (rfl)

@[simp] theorem rd_putMbox (s : State) (k : Nat) (c : MboxTimes) (q : Reg) (j : Nat) : rd (putMbox s k c) q j = rd s q j := (rfl)
@[simp] theorem rdf_putMbox (s : State) (k : Nat) (c : MboxTimes) (q : Reg) (j hi lo : Nat) : rdf (putMbox s k c) q j hi lo = rdf s q j hi lo := (rfl)
@[simp] theorem rdb_putMbox (s : State) (k : Nat) (c : MboxTimes) (q : Reg) (j b : Nat) : rdb (putMbox s k c) q j b = rdb s q j b := (rfl)
@[simp] theorem mrd_putMbox (s : State) (k : Nat) (c : MboxTimes) (x : Nat) : mrd (putMbox s k c) x = mrd s x := (rfl)
@[simp] theorem ctxAt_putMbox (s : State) (k : Nat) (c : MboxTimes) (j : Nat) : ctxAt (putMbox s k c) j = ctxAt s j := (rfl)
@[simp] theorem scullAt_putMbox (s : State) (k : Nat) (c : MboxTimes) (j : Nat) : scullAt (putMbox s k c) j = scullAt s j := (rfl)
@[simp] theorem instAt_putMbox (s : State) (k : Nat) (c : MboxTimes) (j : Nat) : instAt (putMbox s k c) j = instAt s j := (rfl)
@[simp] theorem bankAt_putMbox (s : State) (k : Nat) (c : MboxTimes) (j : Nat) : bankAt (putMbox s k c) j = bankAt s j := (rfl)
@[simp] theorem portAt_putMbox (s : State) (k : Nat) (c : MboxTimes) (j : Nat) : portAt (putMbox s k c) j = portAt s j := (rfl)
@[simp] theorem linkAt_putMbox (s : State) (k : Nat) (c : MboxTimes) (j : Nat) : linkAt (putMbox s k c) j = linkAt s j := (rfl)
@[simp] theorem lineAt_putMbox (s : State) (k : Nat) (c : MboxTimes) (j : Nat) : lineAt (putMbox s k c) j = lineAt s j := (rfl)
@[simp] theorem chanAt_putMbox (s : State) (k : Nat) (c : MboxTimes) (j : Nat) : chanAt (putMbox s k c) j = chanAt s j := (rfl)
@[simp] theorem rchanAt_putMbox (s : State) (k : Nat) (c : MboxTimes) (j : Nat) : rchanAt (putMbox s k c) j = rchanAt s j := (rfl)
@[simp] theorem mirrorAt_putMbox (s : State) (k : Nat) (c : MboxTimes) (j : Nat) : mirrorAt (putMbox s k c) j = mirrorAt s j := (rfl)

@[simp] theorem ctxAt_putCtx_self (s : State) (k : Nat) (c : Ctx) : ctxAt (putCtx s k c) k = c := by
  simp [ctxAt, putCtx]

theorem ctxAt_putCtx (s : State) (k j : Nat) (c : Ctx) :
    ctxAt (putCtx s k c) j = if j = k then c else ctxAt s j := by
  simp [ctxAt, putCtx, Tab.get_set]

@[simp] theorem scullAt_putScull_self (s : State) (k : Nat) (c : Scull) : scullAt (putScull s k c) k = c := by
  simp [scullAt, putScull]

theorem scullAt_putScull (s : State) (k j : Nat) (c : Scull) :
    scullAt (putScull s k c) j = if j = k then c else scullAt s j := by
  simp [scullAt, putScull, Tab.get_set]

@[simp] theorem instAt_putInst_self (s : State) (k : Nat) (c : Inst) : instAt (putInst s k c) k = c := by
  simp [instAt, putInst]

theorem instAt_putInst (s : State) (k j : Nat) (c : Inst) :
    instAt (putInst s k c) j = if j = k then c else instAt s j := by
  simp [instAt, putInst, Tab.get_set]

@[simp] theorem bankAt_putBank_self (s : State) (k : Nat) (c : Bank) : bankAt (putBank s k c) k = c := by
  simp [bankAt, putBank]

theorem bankAt_putBank (s : State) (k j : Nat) (c : Bank) :
    bankAt (putBank s k c) j = if j = k then c else bankAt s j := by
  simp [bankAt, putBank, Tab.get_set]

@[simp] theorem portAt_putPort_self (s : State) (k : Nat) (c : Port) : portAt (putPort s k c) k = c := by
  simp [portAt, putPort]

theorem portAt_putPort (s : State) (k j : Nat) (c : Port) :
    portAt (putPort s k c) j = if j = k then c else portAt s j := by
  simp [portAt, putPort, Tab.get_set]

@[simp] theorem linkAt_putLink_self (s : State) (k : Nat) (c : Link) : linkAt (putLink s k c) k = c := by
  simp [linkAt, putLink]

theorem linkAt_putLink (s : State) (k j : Nat) (c : Link) :
    linkAt (putLink s k c) j = if j = k then c else linkAt s j := by
  simp [linkAt, putLink, Tab.get_set]

@[simp] theorem lineAt_putLine_self (s : State) (k : Nat) (c : StopLine) : lineAt (putLine s k c) k = c := by
  simp [lineAt, putLine]

theorem lineAt_putLine (s : State) (k j : Nat) (c : StopLine) :
    lineAt (putLine s k c) j = if j = k then c else lineAt s j := by
  simp [lineAt, putLine, Tab.get_set]

@[simp] theorem chanAt_putChan_self (s : State) (k : Nat) (c : SenseChan) : chanAt (putChan s k c) k = c := by
  simp [chanAt, putChan]

theorem chanAt_putChan (s : State) (k j : Nat) (c : SenseChan) :
    chanAt (putChan s k c) j = if j = k then c else chanAt s j := by
  simp [chanAt, putChan, Tab.get_set]

@[simp] theorem rchanAt_putRchan_self (s : State) (k : Nat) (c : ChanState) : rchanAt (putRchan s k c) k = c := by
  simp [rchanAt, putRchan]

theorem rchanAt_putRchan (s : State) (k j : Nat) (c : ChanState) :
    rchanAt (putRchan s k c) j = if j = k then c else rchanAt s j := by
  simp [rchanAt, putRchan, Tab.get_set]

@[simp] theorem mirrorAt_putMirror_self (s : State) (k : Nat) (c : MirrorBuf) : mirrorAt (putMirror s k c) k = c := by
  simp [mirrorAt, putMirror]

theorem mirrorAt_putMirror (s : State) (k j : Nat) (c : MirrorBuf) :
    mirrorAt (putMirror s k c) j = if j = k then c else mirrorAt s j := by
  simp [mirrorAt, putMirror, Tab.get_set]

@[simp] theorem mboxAt_putMbox_self (s : State) (k : Nat) (c : MboxTimes) : mboxAt (putMbox s k c) k = c := by
  simp [mboxAt, putMbox]

theorem mboxAt_putMbox (s : State) (k j : Nat) (c : MboxTimes) :
    mboxAt (putMbox s k c) j = if j = k then c else mboxAt s j := by
  simp [mboxAt, putMbox, Tab.get_set]

end Sys2Proof.Machine
end

