-- ==== Sys2Proof/Laws/Regs.lean ====
section
/-! SUPPORT. The laws of the register store, of bit fields and of memory. -/

namespace Sys2Proof.Machine

/-! ## Registers -/

theorem rd_wr (s : State) (r q : Reg) (i j : Nat) (v : Word) :
    rd (wr s r i v) q j = if q = r ∧ j = i then v else rd s q j := by
  simp [rd, wr, Tab.get_set, Prod.ext_iff]

@[simp] theorem rd_wr_self (s : State) (r : Reg) (i : Nat) (v : Word) : rd (wr s r i v) r i = v := by
  simp [rd_wr]

theorem rd_wr_of_ne {s : State} {r q : Reg} (h : q ≠ r) (i j : Nat) (v : Word) :
    rd (wr s r i v) q j = rd s q j := by
  simp [rd_wr, h]

@[simp] theorem rd_wrf_self (s : State) (r : Reg) (i hi lo v : Nat) :
    rd (wrf s r i hi lo v) r i = fput (rd s r i) hi lo v := by simp [wrf]

theorem rd_wrf (s : State) (r q : Reg) (i j hi lo v : Nat) :
    rd (wrf s r i hi lo v) q j = if q = r ∧ j = i then fput (rd s r i) hi lo v else rd s q j := by
  simp [wrf, rd_wr]

theorem rd_wrb (s : State) (r q : Reg) (i j n : Nat) (b : Bool) :
    rd (wrb s r i n b) q j = if q = r ∧ j = i then bput (rd s r i) n b else rd s q j := by
  simp [wrb, rd_wr]

theorem rd_flag (s : State) (r q : Reg) (i j n : Nat) :
    rd (flag s r i n) q j = if q = r ∧ j = i then bput (rd s r i) n true else rd s q j := by
  simp [flag, rd_wrb]

/-! Every register update is one write; the others are normalised to it. -/

theorem wrf_eq_wr (s : State) (r : Reg) (i hi lo v : Nat) : wrf s r i hi lo v = wr s r i (fput (rd s r i) hi lo v) := rfl
theorem wrb_eq_wr (s : State) (r : Reg) (i n : Nat) (b : Bool) : wrb s r i n b = wr s r i (bput (rd s r i) n b) := rfl
theorem flag_eq_wr (s : State) (r : Reg) (i n : Nat) : flag s r i n = wr s r i (bput (rd s r i) n true) := rfl

theorem bget_bput_of_ne (w : Word) (b : Bool) {m n : Nat} (h : n ≠ m) : bget (bput w m b) n = bget w n := by
  have one : (1 : Nat).testBit (n - m) = decide (n - m = 0) := by
    rw [← Nat.pow_zero 2, Nat.testBit_two_pow]; simp [eq_comm]
  have key : (fmask m m).getLsbD n = false := by
    have : m + 1 - m = 1 := by omega
    simp only [fmask, this, BitVec.getLsbD_shiftLeft, BitVec.getLsbD_ofNat, Nat.pow_one, one]
    by_cases h1 : n < m
    · simp [h1]
    · have : n - m ≠ 0 := by omega
      simp [this]
  by_cases hn : n < 32
  · rw [BitVec.getLsbD_eq_getElem hn] at key
    simp [bget, bput, fput, key, hn]
  · simp [bget, BitVec.getLsbD_of_ge _ _ (Nat.le_of_not_lt hn)]

theorem bumpf_all (v : Word) (n : Nat) :
    fput v 31 0 (Nat.min (fget v 31 0 + n) (2 ^ 32 - 1)) = counted v n := by
  have h1 : fget v 31 0 = v.toNat := by
    have := v.isLt
    simp only [fget, BitVec.ushiftRight_zero]
    omega
  have h2 : fmask 31 0 = BitVec.allOnes 32 := by decide
  rw [fput, h1, h2, counted, BitVec.shiftLeft_zero, BitVec.and_allOnes, BitVec.not_allOnes, BitVec.and_zero, BitVec.zero_or]

theorem bumpBy_eq_wr (s : State) (r : Reg) (i n : Nat) : bumpBy s r i n = wr s r i (counted (rd s r i) n) := by
  rw [bumpBy, bumpf, wrf, rdf, bumpf_all]

theorem bump_eq_wr (s : State) (r : Reg) (i : Nat) : bump s r i = wr s r i (counted (rd s r i) 1) := bumpBy_eq_wr s r i 1

theorem rd_bump (s : State) (r q : Reg) (i j : Nat) :
    rd (bump s r i) q j = if q = r ∧ j = i then counted (rd s r i) 1 else rd s q j := by
  rw [bump_eq_wr, rd_wr]

/-- The place of a register in the store's order names it. -/
theorem regOrd_injective (a b : RegKey) (h : regOrd a = regOrd b) : a = b := by
  obtain ⟨r, i⟩ := a
  obtain ⟨q, j⟩ := b
  have hr : r.ctorIdx < 256 := by cases r <;> decide
  have hq : q.ctorIdx < 256 := by cases q <;> decide
  simp only [regOrd] at h
  have hi : i = j := by omega
  have hc : r.ctorIdx = q.ctorIdx := by omega
  have : Reg.ofNat r.ctorIdx = Reg.ofNat q.ctorIdx := by rw [hc]
  rw [Reg.ofNat_ctorIdx, Reg.ofNat_ctorIdx] at this
  rw [this, hi]

/-- A register write keeps the canonical form of the store. -/
theorem wr_regsWf {s : State} (h : s.regsWf = true) (r : Reg) (i : Nat) (v : Word) : (wr s r i v).regsWf = true :=
  Tab.wf_set regOrd regReset (r, i) v regOrd_injective h

/-! ## Memory: every operation keeps the canonical form -/

theorem clearPoison_wf (w n : Nat) {t : Table Nat Bool} (h : Tab.wf id (fun _ => false) t = true) :
    Tab.wf id (fun _ => false) (clearPoison w n t) = true := by
  induction n generalizing w t with
  | zero => exact h
  | succ n ih => exact ih (w + 1) (Tab.wf_set id _ w false (fun _ _ h => h) h)

theorem memWf_iff (s : State) :
    s.memWf = true ↔ Tab.wf id memDefault s.mem = true ∧ Tab.wf id (fun _ => false) s.poisoned = true := by
  simp only [State.memWf, Bool.and_eq_true]; rfl

theorem memWrite_memWf {s : State} (h : s.memWf = true) (a : Nat) (bs : List Byte) : (memWrite s a bs).memWf = true := by
  rw [memWf_iff] at *
  exact ⟨Tab.wf_setMany memDefault bs a h.1, clearPoison_wf _ _ h.2⟩

theorem memClear_memWf {s : State} (h : s.memWf = true) (a n : Nat) : (memClear s a n).memWf = true := by
  rw [memWf_iff] at *
  exact ⟨Tab.wf_filter _ _ _ h.1, Tab.wf_filter _ _ _ h.2⟩

theorem poisonWord_memWf {s : State} (h : s.memWf = true) (a : Nat) : (poisonWord s a).memWf = true := by
  rw [memWf_iff] at *
  exact ⟨h.1, Tab.wf_set id _ _ true (fun _ _ h => h) h.2⟩

theorem reset_memWf : State.reset.memWf = true := rfl
theorem reset_regsWf : State.reset.regsWf = true := rfl

/-- A byte of memory after a write. -/
theorem mrd_memWrite (s : State) (a : Nat) (bs : List Byte) (x : Nat) :
    mrd (memWrite s a bs) x = if h : a ≤ x ∧ x < a + bs.length then bs[x - a]'(by omega) else mrd s x :=
  Tab.get_setMany memDefault bs a x s.mem

theorem mrd_memWrite_outside (s : State) {a : Nat} (bs : List Byte) {x : Nat} (h : x < a ∨ a + bs.length ≤ x) :
    mrd (memWrite s a bs) x = mrd s x :=
  Tab.get_setMany_outside memDefault bs s.mem h

/-- A read of the bytes just written. -/
theorem memRead_memWrite (s : State) (a : Nat) (bs : List Byte) : memRead (memWrite s a bs) a bs.length = bs :=
  Tab.getMany_setMany_self memDefault bs a s.mem

/-! ## Lists of commands over the state -/

/-- What every call of `f` keeps, `forEach` keeps. -/
theorem forEach_keeps {α : Type} (P : State → Prop) {l : List α} {f : α → State → State} {s : State}
    (hf : ∀ a ∈ l, ∀ t, P t → P (f a t)) (h : P s) : P (forEach l f s) := by
  induction l generalizing s with
  | nil => exact h
  | cons a l ih =>
    exact ih (fun b hb => hf b (List.mem_cons_of_mem _ hb)) (hf a (List.mem_cons_self ..) s h)

end Sys2Proof.Machine
end

