-- ==== Sys2Proof/Laws/Report.lean ====
section
/-! SUPPORT. What reporting can do: one lemma per shared operation, for those who would otherwise unfold it. -/

namespace Sys2Proof.Machine

theorem reportOnly_refl (s : State) : reportOnly s s := rfl

theorem reportOnly_trans {s t u : State} (h : reportOnly s t) (k : reportOnly t u) : reportOnly s u := by
  unfold reportOnly at *
  rw [← k] at h
  exact h

theorem reportOnly_wr (s : State) (r : Reg) (i : Nat) (v : Word) : reportOnly s (wr s r i v) := rfl
theorem reportOnly_memWrite (s : State) (a : Nat) (bs : List Byte) : reportOnly s (memWrite s a bs) := rfl

theorem reportOnly_fireVector (s : State) (v : Nat) : reportOnly s (fireVector s v) := by
  unfold fireVector
  split
  · rfl
  · split <;> rfl

@[simp] theorem fireVector_regs (s : State) (v : Nat) : (fireVector s v).regs = s.regs := by
  unfold fireVector; split <;> [rfl; (split <;> rfl)]
@[simp] theorem fireVector_mem (s : State) (v : Nat) : (fireVector s v).mem = s.mem := by
  unfold fireVector; split <;> [rfl; (split <;> rfl)]
@[simp] theorem fireVector_holding (s : State) (v : Nat) : (fireVector s v).holding = s.holding := by
  unfold fireVector; split <;> [rfl; (split <;> rfl)]
@[simp] theorem fireVector_pin (s : State) (v : Nat) : (fireVector s v).pinFaultN = s.pinFaultN := by
  unfold fireVector; split <;> [rfl; (split <;> rfl)]
@[simp] theorem fireVector_uart (s : State) (v : Nat) : (fireVector s v).uart = s.uart := by
  unfold fireVector; split <;> [rfl; (split <;> rfl)]
@[simp] theorem fireVector_run (s : State) (v : Nat) : (fireVector s v).run = s.run := by
  unfold fireVector; split <;> [rfl; (split <;> rfl)]
@[simp] theorem rd_fireVector (s : State) (v : Nat) (r : Reg) (i : Nat) : rd (fireVector s v) r i = rd s r i := by
  simp [rd]
@[simp] theorem mrd_fireVector (s : State) (v a : Nat) : mrd (fireVector s v) a = mrd s a := by
  simp [mrd]

/-! ## The pin and the codes that hold it -/

theorem reportOnly_drivePin (s : State) (b : Bool) : reportOnly s (drivePin s b) := by
  unfold drivePin
  split
  · rfl
  · exact reportOnly_trans (t := { s with pinFaultN := b }) rfl (reportOnly_fireVector _ _)

@[simp] theorem drivePin_pin (s : State) (b : Bool) : (drivePin s b).pinFaultN = b := by
  unfold drivePin; split <;> simp_all
@[simp] theorem drivePin_regs (s : State) (b : Bool) : (drivePin s b).regs = s.regs := by
  unfold drivePin; split <;> simp
@[simp] theorem drivePin_mem (s : State) (b : Bool) : (drivePin s b).mem = s.mem := by
  unfold drivePin; split <;> simp
@[simp] theorem drivePin_holding (s : State) (b : Bool) : (drivePin s b).holding = s.holding := by
  unfold drivePin; split <;> simp
@[simp] theorem drivePin_uart (s : State) (b : Bool) : (drivePin s b).uart = s.uart := by
  unfold drivePin; split <;> simp
@[simp] theorem rd_drivePin (s : State) (b : Bool) (r : Reg) (i : Nat) : rd (drivePin s b) r i = rd s r i := by
  simp [rd]

theorem reportOnly_uartPut (s : State) (l : UartLine) : reportOnly s (uartPut s l) := by
  unfold uartPut; split <;> rfl

@[simp] theorem uartPut_mem (s : State) (l : UartLine) : (uartPut s l).mem = s.mem := by
  unfold uartPut; split <;> rfl
@[simp] theorem uartPut_holding (s : State) (l : UartLine) : (uartPut s l).holding = s.holding := by
  unfold uartPut; split <;> rfl
@[simp] theorem uartPut_pin (s : State) (l : UartLine) : (uartPut s l).pinFaultN = s.pinFaultN := by
  unfold uartPut; split <;> rfl

/-- A full UART queue sets UART_LOST and touches no other register. -/
theorem rd_uartPut (s : State) (l : UartLine) (r : Reg) (i : Nat) :
    rd (uartPut s l) r i = rd s r i ∨ (r = .fltSticky ∧ i = 0 ∧ rd (uartPut s l) r i = bput (rd s .fltSticky 0) 4 true) := by
  unfold uartPut
  split
  · exact .inl rfl
  · rw [rd_flag]; split
    · rename_i h; right; exact ⟨h.1, h.2, rfl⟩
    · exact .inl rfl

/-- What entering a code into the holding codes does. -/
theorem holdCode_spec (s : State) (code : Nat) :
    reportOnly s (holdCode s code) ∧ (holdCode s code).mem = s.mem ∧ code ∈ (holdCode s code).holding
      ∧ (code ∉ s.holding → (holdCode s code).pinFaultN = true)
      ∧ (∀ r i, rd (holdCode s code) r i = rd s r i ∨ (r = .fltFirst ∧ i = 0)
          ∨ (r = .fltSticky ∧ i = 0 ∧ rd (holdCode s code) r i = bput (rd s .fltSticky 0) 4 true)) := by
  obtain ⟨t, ht⟩ : ∃ t, t = holdCode s code := ⟨_, rfl⟩
  rw [← ht]
  unfold holdCode at ht
  split at ht
  · rename_i h
    have hm : code ∈ s.holding := by simpa using h
    subst ht
    exact ⟨rfl, rfl, hm, fun hn => absurd hm hn, fun r i => .inl rfl⟩
  · extract_lets s1 s2 at ht
    have h1 : reportOnly s s1 := reportOnly_trans (t := { s with holding := s.holding ++ [code] }) rfl (reportOnly_drivePin _ _)
    have m1 : s1.mem = s.mem := drivePin_mem _ _
    have c1 : code ∈ s1.holding := by
      have : s1.holding = s.holding ++ [code] := drivePin_holding _ _
      simp [this]
    have p1 : s1.pinFaultN = true := drivePin_pin _ _
    have r1 : ∀ r i, rd s1 r i = rd s r i := fun r i => rd_drivePin _ _ r i
    have h2 : reportOnly s1 s2 ∧ s2.mem = s1.mem ∧ s2.holding = s1.holding ∧ s2.pinFaultN = s1.pinFaultN
        ∧ ∀ r i, ¬ (r = .fltFirst ∧ i = 0) → rd s2 r i = rd s1 r i := by
      by_cases h : rdf s1 .fltFirst 0 15 0 = 0
      · have e : s2 = wrf s1 .fltFirst 0 15 0 code := if_pos h
        rw [e]
        exact ⟨rfl, rfl, rfl, rfl, fun r i h => by rw [rd_wrf, if_neg h]⟩
      · have e : s2 = s1 := if_neg h
        rw [e]
        exact ⟨rfl, rfl, rfl, rfl, fun _ _ _ => rfl⟩
    clear_value s2
    clear_value s1
    obtain ⟨h2, m2, c2, p2, r2⟩ := h2
    split at ht <;> subst ht
    · refine ⟨reportOnly_trans (reportOnly_trans h1 h2) (reportOnly_uartPut _ _), by rw [uartPut_mem, m2, m1],
        by rw [uartPut_holding, c2]; exact c1, fun _ => by rw [uartPut_pin, p2, p1], fun r i => ?_⟩
      by_cases hf : r = .fltFirst ∧ i = 0
      · exact .inr (.inl hf)
      · rcases rd_uartPut s2 (.fault code (strokeNat s2 % 2 ^ 32)) r i with h | ⟨ha, hb, hc⟩
        · left; rw [h, r2 r i hf, r1]
        · right; right; refine ⟨ha, hb, ?_⟩
          rw [hc, r2 _ _ (by simp), r1]
    · refine ⟨reportOnly_trans h1 h2, by rw [m2, m1], by rw [c2]; exact c1, fun _ => by rw [p2, p1], fun r i => ?_⟩
      by_cases hf : r = .fltFirst ∧ i = 0
      · exact .inr (.inl hf)
      · left; rw [r2 r i hf, r1]

/-! ## Records of a ring -/

/-- The units of a record are written inside the ring. -/
theorem writeUnits_spec (base size n : Nat) (s : State) (u : Nat) (bs : List Byte) (hs : 0 < size) :
    reportOnly s (writeUnits s base size u n bs) ∧ (writeUnits s base size u n bs).regs = s.regs
      ∧ (writeUnits s base size u n bs).holding = s.holding
      ∧ (writeUnits s base size u n bs).pinFaultN = s.pinFaultN
      ∧ (writeUnits s base size u n bs).uart = s.uart
      ∧ ∀ a, (a < base ∨ base + size * 64 ≤ a) → mrd (writeUnits s base size u n bs) a = mrd s a := by
  induction n generalizing s u bs with
  | zero => exact ⟨rfl, rfl, rfl, rfl, rfl, fun _ _ => rfl⟩
  | succ n ih =>
    obtain ⟨h1, h2, h3, h4, h5, h6⟩ := ih (memWrite s (base + (u % size) * 64) (slice bs 0 64)) (u + 1) (bs.drop 64)
    refine ⟨reportOnly_trans (reportOnly_memWrite _ _ _) h1, h2, h3, h4, h5, fun a ha => ?_⟩
    have hl : (slice bs 0 64).length = 64 := by simp [slice]
    have hu : u % size < size := Nat.mod_lt _ hs
    have : (u % size) * 64 + 64 ≤ size * 64 := by
      have := Nat.mul_le_mul_right 64 (Nat.succ_le_of_lt hu); omega
    refine (h6 a ha).trans ?_
    exact mrd_memWrite_outside s _ (by rw [hl]; omega)

theorem ringSize_pos (s : State) (r : Nat) : 0 < ringSize s r := Nat.two_pow_pos _

/-- A record of ring `r` writes the ring, TEL_PROD and TEL_DROP, and no other register or byte. -/
theorem ringRecord_spec (s : State) (r typ : Nat) (p : List Byte) :
    reportOnly s (ringRecord s r typ p) ∧ (ringRecord s r typ p).holding = s.holding
      ∧ (ringRecord s r typ p).pinFaultN = s.pinFaultN ∧ (ringRecord s r typ p).uart = s.uart
      ∧ (∀ q i, (q, i) ≠ (.telProd, r) → (q, i) ≠ (.telDrop, r) → rd (ringRecord s r typ p) q i = rd s q i)
      ∧ ∀ a, ¬ inRing s r a → mrd (ringRecord s r typ p) a = mrd s a := by
  obtain ⟨t, ht⟩ : ∃ t, t = ringRecord s r typ p := ⟨_, rfl⟩
  rw [← ht]
  unfold ringRecord at ht
  extract_lets units seq s1 bytes base s2 s3 at ht
  have q1 : reportOnly s s1 := rfl
  have q2 : s1.regs = s.regs ∧ s1.holding = s.holding ∧ s1.pinFaultN = s.pinFaultN ∧ s1.uart = s.uart ∧ s1.mem = s.mem :=
    ⟨rfl, rfl, rfl, rfl, rfl⟩
  obtain ⟨q2, q3, q4, q5, q6⟩ := q2
  split at ht
  · subst ht
    rw [bump_eq_wr]
    refine ⟨reportOnly_trans q1 (reportOnly_wr _ _ _ _), by rw [wr_holding, q3], by rw [wr_pinFaultN, q4],
      by rw [wr_uart, q5], fun q i _ h => ?_, fun a _ => rfl⟩
    rw [rd_wr, if_neg (by simpa [Prod.ext_iff] using h)]
    rfl
  · obtain ⟨k1, k2, k3, k4, k5, k6⟩ := writeUnits_spec base (ringSize s r) units s1 (rd s .telProd r).toNat bytes
      (ringSize_pos s r)
    have e2 : s2 = writeUnits s1 base (ringSize s r) (rd s .telProd r).toNat units bytes := rfl
    rw [← e2] at k1 k2 k3 k4 k5 k6
    have g : reportOnly s2 s3 ∧ s3.regs = s2.regs ∧ s3.holding = s2.holding ∧ s3.pinFaultN = s2.pinFaultN
        ∧ s3.uart = s2.uart ∧ s3.mem = s2.mem := by
      by_cases h : ringUsed s r = 0
      · rw [show s3 = _ from if_pos h]; exact ⟨rfl, rfl, rfl, rfl, rfl, rfl⟩
      · rw [show s3 = _ from if_neg h]; exact ⟨rfl, rfl, rfl, rfl, rfl, rfl⟩
    clear_value s3
    clear_value s2
    clear_value s1
    obtain ⟨g1, g2, g3, g4, g5, g6⟩ := g
    have f : ∀ t : State, reportOnly t (ringUpdated t r) ∧ (ringUpdated t r).regs = t.regs
        ∧ (ringUpdated t r).holding = t.holding ∧ (ringUpdated t r).pinFaultN = t.pinFaultN
        ∧ (ringUpdated t r).uart = t.uart ∧ (ringUpdated t r).mem = t.mem := by
      intro t; unfold ringUpdated; dsimp only; split
      · exact ⟨reportOnly_fireVector _ _, by simp, by simp, by simp, by simp, by simp⟩
      · exact ⟨rfl, rfl, rfl, rfl, rfl, rfl⟩
    obtain ⟨f1, f2, f3, f4, f5, f6⟩ := f (wr s3 .telProd r (rd s .telProd r + BitVec.ofNat 32 units))
    rw [← ht] at f1 f2 f3 f4 f5 f6
    refine ⟨reportOnly_trans (reportOnly_trans (reportOnly_trans (reportOnly_trans q1 k1) g1)
      (reportOnly_wr _ _ _ _)) f1, by rw [f3, wr_holding, g3, k3, q3], by rw [f4, wr_pinFaultN, g4, k4, q4],
      by rw [f5, wr_uart, g5, k5, q5], fun q i h _ => ?_, fun a ha => ?_⟩
    · rw [rd, f2]
      show rd (wr s3 _ _ _) q i = _
      rw [rd_wr, if_neg (by simpa [Prod.ext_iff] using h), rd, g2, k2, q2]
      rfl
    · rw [mrd, f6, wr_mem, g6]
      refine Eq.trans (k6 a ?_) (by rw [mrd, q6]; rfl)
      have hb : base = telWin s + (rd s .telBase r).toNat := rfl
      simp only [inRing, not_and] at ha
      by_contra hc
      exact ha (by omega) (by omega)

/-! ## Raising a code -/

/-- FLT_LAST and FLT_EVT_CNT as a raising leaves them. -/
def noted (s : State) (code scope index : Nat) : State := bump (wr s .fltLast 0 (lastWord code scope index)) .fltEvtCnt 0

theorem rd_noted (s : State) (code scope index : Nat) (r : Reg) (i : Nat) :
    rd (noted s code scope index) r i = if r = .fltEvtCnt ∧ i = 0 then counted (rd s .fltEvtCnt 0) 1
      else if r = .fltLast ∧ i = 0 then lastWord code scope index else rd s r i := by
  rw [noted, rd_bump, rd_wr, rd_wr]
  simp

theorem noted_keeps (s : State) (code scope index : Nat) :
    reportOnly s (noted s code scope index) ∧ (noted s code scope index).mem = s.mem
      ∧ (noted s code scope index).holding = s.holding ∧ (noted s code scope index).pinFaultN = s.pinFaultN
      ∧ (noted s code scope index).uart = s.uart := by
  simp only [noted, bump_eq_wr]
  exact ⟨reportOnly_trans (reportOnly_wr _ _ _ _) (reportOnly_wr _ _ _ _), by simp⟩

theorem raise_eq (s : State) (code scope index : Nat) (d : DWord) :
    raise s code scope index d =
      (let s3 := if holds code scope then holdCode (noted s code scope index) code else noted s code scope index
       if ringOn s3 1 then ringRecord s3 1 2 (eventBytes s3 code scope index d) else s3) := rfl

/-- What the raising of a code does, and nothing else. -/
theorem raise_spec (s : State) (code scope index : Nat) (d : DWord) :
    reported s (raise s code scope index d) [] ∧ wasRaised s (raise s code scope index d) code scope index := by
  obtain ⟨t, ht⟩ : ∃ t, t = raise s code scope index d := ⟨_, rfl⟩
  rw [← ht]
  rw [raise_eq] at ht
  obtain ⟨s2, e2⟩ : ∃ x, x = noted s code scope index := ⟨_, rfl⟩
  have a2 := rd_noted s code scope index
  obtain ⟨a1, a3, a4, a5, a6⟩ := noted_keeps s code scope index
  rw [← e2] at ht a1 a2 a3 a4 a5 a6
  clear e2
  extract_lets s3 at ht
  have b : reportOnly s2 s3 ∧ s3.mem = s2.mem ∧ (∀ r i, rd s3 r i = rd s2 r i ∨ (r = .fltFirst ∧ i = 0)
      ∨ (r = .fltSticky ∧ i = 0 ∧ rd s3 r i = bput (rd s2 .fltSticky 0) 4 true))
      ∧ (holds code scope = true → code ∈ s3.holding ∧ (code ∉ s2.holding → s3.pinFaultN = true))
      ∧ (holds code scope = false → s3.holding = s2.holding ∧ s3.pinFaultN = s2.pinFaultN ∧ s3.uart = s2.uart) := by
    by_cases h : holds code scope = true
    · rw [show s3 = holdCode s2 code from if_pos h]
      obtain ⟨k1, k2, k3, k4, k5⟩ := holdCode_spec s2 code
      exact ⟨k1, k2, k5, fun _ => ⟨k3, k4⟩, fun hf => by simp [h] at hf⟩
    · rw [show s3 = s2 from if_neg h]
      exact ⟨rfl, rfl, fun _ _ => .inl rfl, fun ht => absurd ht h, fun _ => ⟨rfl, rfl, rfl⟩⟩
  clear_value s3
  obtain ⟨b1, b2, b3, b4, b5⟩ := b
  have c : reportOnly s3 t ∧ t.holding = s3.holding ∧ t.pinFaultN = s3.pinFaultN ∧ t.uart = s3.uart
      ∧ (∀ q i, (q, i) ≠ (.telProd, 1) → (q, i) ≠ (.telDrop, 1) → rd t q i = rd s3 q i)
      ∧ ∀ a, ¬ inRing s3 1 a → mrd t a = mrd s3 a := by
    by_cases h : ringOn s3 1 = true
    · rw [if_pos h] at ht; subst ht; exact ringRecord_spec s3 1 2 _
    · rw [if_neg h] at ht; subst ht; exact ⟨rfl, rfl, rfl, rfl, fun _ _ _ _ => rfl, fun _ _ => rfl⟩
  obtain ⟨c1, c2, c3, c4, c5, c6⟩ := c
  have keep : ∀ r i, (r, i) ∉ reportKeys → rd s3 r i = rd s r i := by
    intro r i hk
    simp only [reportKeys, List.mem_cons, Prod.mk.injEq, List.not_mem_nil, or_false, not_or] at hk
    obtain ⟨n1, n2, n3, n4, _, _⟩ := hk
    rcases b3 r i with h | h | h
    · rw [h, a2, if_neg n3, if_neg n1]
    · exact absurd h n2
    · exact absurd ⟨h.1, h.2.1⟩ n4
  refine ⟨⟨reportOnly_trans (reportOnly_trans a1 b1) c1, fun r i hk => ?_, fun a ha => ?_, fun n hn => ?_⟩, ?_, ?_, ?_, ?_⟩
  · have hk' : (r, i) ∉ reportKeys := by simpa using hk
    rw [c5 r i (fun h => hk' (by rw [h]; decide)) (fun h => hk' (by rw [h]; decide)), keep r i hk']
  · have hw : inRing s3 1 a ↔ inRing s 1 a := by
      simp only [inRing, telWin, ringSize, rdf]
      rw [keep .hstTelwin 0 (by decide), keep .hstTelwin 1 (by decide), keep .telBase 1 (by decide),
        keep .telSize 1 (by decide)]
    rw [c6 a (fun h => ha (hw.mp h)), mrd, b2, a3]
    rfl
  · rw [c5 .fltSticky 0 (by decide) (by decide)]
    have e : rd s2 .fltSticky 0 = rd s .fltSticky 0 := by rw [a2]; simp
    rcases b3 .fltSticky 0 with h | h | h
    · rw [h, e]
    · simp at h
    · rw [h.2.2, bget_bput_of_ne _ _ hn, e]
  · rw [c5 .fltLast 0 (by decide) (by decide)]
    have e : rd s2 .fltLast 0 = lastWord code scope index := by rw [a2]; simp
    rcases b3 .fltLast 0 with h | h | h
    · rw [h, e]
    · simp at h
    · simp at h
  · rw [c5 .fltEvtCnt 0 (by decide) (by decide)]
    have e : rd s2 .fltEvtCnt 0 = counted (rd s .fltEvtCnt 0) 1 := by rw [a2]; simp
    rcases b3 .fltEvtCnt 0 with h | h | h
    · rw [h, e]
    · simp at h
    · simp at h
  · intro h; rw [c2, c3, ← a4]; exact b4 h
  · intro h; obtain ⟨x, y, z⟩ := b5 h; exact ⟨by rw [c2, x, a4], by rw [c3, y, a5], by rw [c4, z, a6]⟩

end Sys2Proof.Machine
end

