-- ==== Sys2Proof/Machine/Pins.lean ====
section
/-! DEFINITION. The levels of the output balls (21_electrical_and_package.md R630, R631, R642; 01_stroke.md R19): what the state
drives. STOPn and STOP_ANY are in Machine/Links.lean, SYNC_OUT in Machine/Stroke.lean, UART_TX in Machine/Host.lean. -/

namespace Sys2Proof.Machine

/-- FAULT_N is pulled low while it is asserted. -/
def faultLow (s : State) : Bool := s.pinFaultN

/-- RUN is high only in Run. -/
def runHigh (s : State) : Bool := s.run && !s.inReset

/-- MCLK runs from stage 8 on with SNS_MCLK.EN = 1. -/
def mclkRuns (s : State) : Bool := !s.inReset && decide (8 ≤ stageOf s) && rdb s .snsMclk 0 31

/-- AXn_TX is driven from stage 10 on with AXL_CFGn.EN = 1. -/
def axDriven (s : State) (n : Nat) : Bool := !s.inReset && s.linksUp && linkOn s n

/-- XSPI is driven from stage 3 on. -/
def xspiDriven (s : State) : Bool := !s.inReset && decide (3 ≤ stageOf s)

/-- The transmit lanes of a port carry light from stage 9 on, when the regatta is configured and the port not DARK. -/
def lanesLit (s : State) (p : Nat) : Bool := !s.inReset && portState s p != 0

/-- The AVSBus is idle until stage 6. -/
def avsActive (s : State) : Bool := !s.inReset && decide (6 ≤ stageOf s) && !s.avsDead

end Sys2Proof.Machine
end

