-- ==== Sys2Proof/Tests/Slice0.lean ====
section
/-! SUPPORT. Small tests: ill-formed operands that each check of WellFormed refuses, single steps whose result the spec
gives, and for every statement operands and states that meet the hypotheses of its clauses. -/

namespace Sys2Proof.Machine.Tests

-- one theorem at a time: each evaluation in the kernel would else wait on a thread of its own
set_option Elab.async false

/-- Whether a command ends in a next state with a property. -/
def ends (i : Instr) (s : State) (p : State → Bool) : Bool :=
  match exec i s with
  | .next t => p t
  | _ => false

/-- A state with some registers set. -/
def put (s : State) (l : List (Reg × Nat × Word)) : State := l.foldl (fun t e => wr t e.1 e.2.1 e.2.2) s

/-- The machine in Run, before anything has happened. -/
def sRun : State := put { State.reset with run := true, inReset := false } [(.pwrBoot, 0, 0x0C)]

/-! ## Well-formed operands -/

theorem test_wf_width : (Instr.registerWrite .stern 0 3 0).wf = false ∧ (Instr.registerWrite .stern 0 4 0).wf = true := by decide
theorem test_wf_addr : (Instr.registerWrite .stern (2 ^ 48) 4 0).wf = false ∧ (Instr.patrolScrub (2 ^ 48) .clean).wf = false := by
  decide +kernel
theorem test_wf_bar : (Instr.hostAccess 0 0x200000 4 none).wf = false ∧ (Instr.hostAccess 1 0x4000000 4 none).wf = false
    ∧ (Instr.hostAccess 2 0x200000 4 none).wf = false ∧ (Instr.hostAccess 2 0x1FFFFC 4 none).wf = true := by decide +kernel
theorem test_wf_sample : (Instr.sampleOutput 0 0 ⟨[], 0, 0, false⟩).wf = false := by decide
theorem test_wf_dev : (Instr.bankPass 0 [] false).wf = false ∧ (Instr.probePass 0 []).wf = false := by decide
theorem test_wf_message : (Instr.laneMessage 0 []).wf = false ∧ (Instr.helloMessage 0 (List.replicate 64 0)).wf = true := by decide
theorem test_wf_frame : (Instr.downstreamData 0 (List.replicate 642 0)).wf = false := by decide +kernel
theorem test_wf_order : (Instr.powerOn [0]).wf = false ∧ (Instr.powerOn (List.replicate 11 0)).wf = false := by decide

/-! ## Witnesses: the queue, registers and the host port -/

theorem test_witness_StepTakesTheFrontCommand : State.reset.pending = [] := rfl
theorem test_witness_StepsKeepTheCanonicalForm :
    State.reset.regsWf = true ∧ State.reset.memWf = true ∧ step State.reset = .next { State.reset with now := 1 } := ⟨rfl, rfl, rfl⟩
theorem test_witness_RegisterAddressesDecode : 47 < dimsCount (regDesc .snsModCfg).dims ∧ 0 < dimsCount (regDesc .idPart).dims := by
  decide
theorem test_witness_RunLocksRwlRegisters : sRun.run = true ∧ (regDesc .stkFinish).acc = .rwl := by decide
theorem test_witness_RegisterWriteByAccessCode :
    (Requester.cox ≠ .host ∧ ∀ r ∈ [Reg.idPart, .stkSticky, .telWm, .stkFinish, .thmThrot],
        r ∉ ownRule ∧ r ≠ .fltSticky ∧ 0 < dimsCount (regDesc r).dims
          ∧ busAllowed State.reset .cox (regAddr r 0) 4 true ≠ none)
      ∧ (regDesc .idPart).acc = .ro ∧ (regDesc .stkSticky).acc = .w1c ∧ (regDesc .telWm).acc = .rw
      ∧ (regDesc .stkFinish).acc = .rwl ∧ State.reset.run = false ∧ sRun.run = true
      ∧ busAllowed sRun .cox (regAddr .stkFinish 0) 4 true ≠ none
      ∧ rangeOk State.reset .stkFinish 0 (2500 &&& regMask .stkFinish) = true
      ∧ rangeOk State.reset .stkFinish 0 (2499 &&& regMask .stkFinish) = false
      ∧ rangeOk State.reset .telWm 0 (1 &&& regMask .telWm) = true := by decide +kernel
theorem test_witness_RefusedRegisterAccess :
    busAllowed sRun (.ctx 0) (regAddr .stkFinish 0) 4 true = none
      ∧ busAllowed sRun .cox (regAddr .stkFinish 0) 8 true ≠ none ∧ aligned32 (regAddr .stkFinish 0) 8 = false
      ∧ busAllowed sRun .host (regAddr .stkFinish 0) 4 true = none := by decide +kernel
theorem test_witness_StrokeCountSnapshot : Requester.host ≠ .jtag ∧ sRun.run = true ∧ Requester.stern ≠ .host := by decide
theorem test_witness_RegattaStrokeSnapshot : Requester.host = .host ∧ sRun.run = true := by decide
/-- The PCIe link is up in Run. -/
def sHost : State := put sRun [(.hstStat, 0, 0x84000000)]
theorem test_witness_HostAccess :
    sHost.perst = false ∧ rdb sHost .hstStat 0 31 = true ∧ 4 ≤ stageOf sHost ∧ sHost.run = true ∧ 0xFFFFC + 4 ≤ 0x100000
      ∧ telBytes - 8 + 8 ≤ telBytes ∧ telBytes < telBytes - 4 + 8 ∧ 47 < dimsCount (regDesc .snsModCfg).dims
      ∧ busAllowed sHost .host (regAddr .snsModCfg 47) 4 false ≠ none
      ∧ busAllowed sHost .host (regBase + (regAddr .mmuRoot 0 - regBase)) 4 false = none := by decide +kernel
theorem test_witness_RequestMarks :
    let s := put sHost [(.hstReqProd, 0, 63)]
    let t := put sHost [(.hstCfg, 0, 0)]
    let u := { sHost with winOpen := some 0, winCount := 16 }
    (rd s .hstReqProd 0 + 1 - rd s .hstReqCons 0).toNat ≤ 64 ∧ rd s .hstReqProd 0 ≠ rd s .hstReqCons 0 - 1
      ∧ rd s .hstRspProd 0 - rd s .hstRspCons 0 ≠ 64 ∧ s.run = true ∧ rdf s .hstCfg 0 7 0 ≠ 0 ∧ windowOpen s = false
      ∧ (rd t .hstReqProd 0 + 1 - rd t .hstReqCons 0).toNat ≤ 64 ∧ rdf t .hstCfg 0 7 0 = 0
      ∧ windowOpen u = true ∧ rdf u .hstCfg 0 7 0 ≤ u.winCount ∧ State.reset.run = false := by decide +kernel
theorem test_witness_ResponsePushAndInterrupts :
    (let s := put sHost [(.hstRspProd, 0, 63)]
     rd s .hstRspProd 0 - rd s .hstRspCons 0 ≠ 64)
      ∧ (let s := put sHost [(.hstRspProd, 0, 64)]
         rd s .hstRspProd 0 - rd s .hstRspCons 0 = 64)
      ∧ (let s := { sHost with winOpen := some 0, now := 1000000 }
         s.winOpen = some 0 ∧ 0 + 1000000 ≤ s.now) ∧ 19 < 20 := by decide +kernel
theorem test_witness_InterruptVectors :
    (let s := { sHost with msgWaiting := 0x80000000 }
     s.msgWaiting.getLsbD 31 = true ∧ Tab.get zeroDefault s.msgAt 31 ≤ s.now)
      ∧ (let s := { put sHost [(.telProd, 7, 1)] with now := 1000000 }
         ringUsed s 7 ≠ 0 ∧ Tab.get zeroDefault s.ringSince 7 + 1000000 ≤ s.now)
      ∧ (let s := { sHost with pba := 1 }
         s.pba.getLsbD 0 = true ∧ Tab.get zeroDefault s.msgAt 0 ≤ s.now)
      ∧ msixMasked sHost 31 = true
      ∧ (let s := { sHost with msixTable := [(127, 0)] }
         msixMasked s 31 = false ∧ Tab.get zeroDefault s.msgAt 31 ≤ s.now)
      ∧ (let s := { sHost with msixTable := [(127, 0)], msgAt := [(31, 1)] }
         msixMasked s 31 = false ∧ s.now < Tab.get zeroDefault s.msgAt 31) := by decide +kernel
theorem test_witness_TelemetryRingCounts :
    (let s := put sHost [(.telProd, 7, 5)]
     2 ^ 31 ≤ ((0 : Word) - rd s .telProd 7).toNat ∧ (6 : Word) ≠ rd s .telProd 7 ∧ ((6 : Word) - rd s .telProd 7).toNat < 2 ^ 31)
      ∧ (let s := put sHost [(.telCfg, 0, 0x84), (.telSize, 2, 6), (.telSize, 7, 6)]
         ringOn s 2 = true ∧ ringOn s 7 = true ∧ ((64 : Word) - rd s .telCons 2).toNat ≤ ringSize s 2
           ∧ ringSize s 7 < ((65 : Word) - rd s .telCons 7).toNat)
      ∧ rd sHost .telCfg 0 = 0 ∧ ringFits sHost 0 = true ∧ ringFits sHost 7 = true := by decide +kernel
theorem test_witness_JtagInstructionsInRun :
    sRun.run = true ∧ Config.irExtest = Config.irExtest ∧ State.reset.run = false := ⟨rfl, rfl, rfl⟩
theorem test_witness_HostLink :
    (4 : Fin 5).val ≠ 0 ∧ (4 : Fin 5).val = 4 ∧ ({ sRun with uart := [.fault 1 0] } : State).uart = .fault 1 0 :: [] := by
  decide

/-! ## Witnesses: mailboxes and services -/

/-- A mailbox in a state with an owner and the first words of its request, at 200 ms in Run. -/
def sMbox (m state owner : Nat) (words : List Word) : State :=
  put { sRun with now := 200000000 }
    ((.mbStat, m, BitVec.ofNat 32 (owner * 256 + state)) :: words.zipIdx.map (fun e => (.mbReq, m * 16 + e.2, e.1)))

/-- Cox has taken the request of mailbox 13. -/
def sTaken (owner : Nat) (words : List Word) : State := { sMbox 13 2 owner words with taken := some 13 }

/-- One STROKE model in context 1 on sculls 0 and 1, placed. -/
def mStroke : Model := ⟨3, .stroke, 1, 3, 0, 64, 64, 0x100, [], [⟨0x10000, 64, 1, false⟩], 0⟩
def gStroke : Image := { Image.empty with models := [mStroke] }
/-- One TREND model in context 1. -/
def gTrend : Image := { Image.empty with models := [{ mStroke with cls := .trend }] }

theorem test_witness_MailboxStates :
    mbUser (.ctx 0) 11 = true ∧ mbState sRun 11 = 0 ∧ sRun.run = true ∧ arrives sRun (.ctx 0) = true
      ∧ arrives (sMbox 14 1 0x41 []) .host = true ∧ arrives State.reset (.ctx 0) = true
      ∧ (let s := sMbox 11 1 0 []
         mbState s 11 = 1 ∧ mbOwner s 11 = reqId (.ctx 0) ∧ s.run = true)
      ∧ mbUser .host 14 = true ∧ mbState (sMbox 14 2 0x41 []) 14 ≠ 1 ∧ mbState (sMbox 14 2 0x41 []) 14 ≠ 0
      ∧ (let s := sMbox 14 3 0x41 []
         mbState s 14 = 3 ∧ mbOwner s 14 = reqId .host ∧ mbState s 14 ≠ 1)
      ∧ mbState State.reset 0 ≠ 1 ∧ mbState State.reset 0 ≠ 3 ∧ mbOwner (sMbox 0 1 5 []) 0 ≠ reqId (.ctx 0) := by decide +kernel
theorem test_witness_MailboxTimeouts :
    (let s := sMbox 14 1 0x41 []
     mbState s 14 = 1 ∧ (mboxAt s 14).opened + 1000000 ≤ s.now)
      ∧ (let s := sMbox 0 3 0 []
         mbState s 0 = 3 ∧ (mboxAt s 0).done + 100000000 ≤ s.now)
      ∧ (let s := { sMbox 15 3 0x40 [] with notices := [⟨0x8050, 0, 0x43, []⟩] }
         mbState s 15 = 3 ∧ mbOwner s 15 = 0x40 ∧ s.notices = ⟨0x8050, 0, 0x43, []⟩ :: [] ∧ coxHalted s = false)
      ∧ (let s := { sRun with challenge := some ⟨1, [], 0, none, 14⟩, now := 10000000000 }
         s.challenge = some ⟨1, [], 0, none, 14⟩ ∧ 0 + 10000000000 ≤ s.now)
      ∧ (let s := { sMbox 15 3 0x40 [] with notices := [⟨0x8050, 0, 0x43, []⟩] }
         (mboxAt s 15).done + 100000000 ≤ s.now)
      ∧ coxHalted sRun = false ∧ ({ sRun with now := 1000000 } : State).aliveAt + 1000000 ≤ 1000000 := by decide +kernel
/-- The CHG_START of the host in mailbox 14 before Run, in stage 5. -/
def sEarly : State := put { State.reset with inReset := false } [(.pwrBoot, 0, 5), (.mbStat, 14, 0x4102), (.mbReq, 224, 0x30)]
theorem test_witness_TakingARequest :
    (coxHalted sEarly = false ∧ sEarly.taken = none ∧ sEarly.run = false ∧ 5 ≤ stageOf sEarly ∧ nextRequest sEarly = some 14
      ∧ tooSoon sEarly 14 = false ∧ reqService sEarly 14 ≠ svDbgChallenge ∧ reqService sEarly 14 ≠ svDbgResponse) ∧
    (let s := { sMbox 14 2 0x41 [1] with hostRing := some 0 }
     coxHalted s = false ∧ s.taken = none ∧ s.run = true ∧ stageOf s = 12 ∧ nextRequest s = some 14 ∧ tooSoon s 14 = true)
      ∧ (let s := sMbox 13 2 0x40 [0xFF]
         coxHalted s = false ∧ s.taken = none ∧ s.run = true ∧ stageOf s = 12 ∧ nextRequest s = some 13 ∧ tooSoon s 13 = false
           ∧ reqService s 13 ∉ services)
      ∧ (let s := sMbox 0 2 0 [svFenceScull]
         nextRequest s = some 0 ∧ reqService s 0 ∈ services ∧ mayAsk (reqService s 0) (mbOwner s 0) = false)
      ∧ (let s := sMbox 0 2 0 [svInfo, 0, 0x100]
         nextRequest s = some 0 ∧ mayAsk (reqService s 0) (mbOwner s 0) = true
           ∧ reservedClear (reqBytes s 0) (reqService s 0) = false)
      ∧ (let s := sMbox 0 2 0 [svInfo, 0, 3]
         nextRequest s = some 0 ∧ tooSoon s 0 = false ∧ mayAsk (reqService s 0) (mbOwner s 0) = true
           ∧ reservedClear (reqBytes s 0) (reqService s 0) = true) := by decide +kernel
theorem test_witness_RequestOrder :
    let s := { sMbox 0 2 0 [] with mbox := [(0, ⟨0, 199000000, 0⟩)] }
    (∀ k < 15, waits s k = true → s.now ≤ (mboxAt s k).rung + 1000000) ∧ nextRequest s = some 0 := by decide +kernel
theorem test_witness_InfoAndDebugServices :
    (let s := sTaken 0 [svInfo, 0, 3]
     s.taken = some 13 ∧ reqService s 13 = svInfo ∧ coxHalted s = false ∧ reqField s 13 8 1 ≤ 3)
      ∧ 3 < reqField (sTaken 0 [svInfo, 0, 4]) 13 8 1
      ∧ (let s := { sTaken 0x41 [svDbgChallenge, 0, 1] with authFails := 3 }
         s.taken = some 13 ∧ reqService s 13 = svDbgChallenge ∧ coxHalted s = false ∧ 3 ≤ s.authFails)
      ∧ (let s := sTaken 0x41 [svDbgChallenge, 0, 2]
         reqService s 13 = svDbgChallenge ∧ s.authFails < 3 ∧ reqField s 13 8 1 = 2 ∧ s.chg.active = false)
      ∧ (let s := put (sTaken 0x41 [svDbgEnd]) [(.coxStat, 0, 0x10)]
         reqService s 13 = svDbgEnd ∧ coxHalted s = false ∧ s.authFails < 3 ∧ rdf s .coxStat 0 5 4 = 1)
      ∧ rdf (sTaken 0x41 [svDbgEnd]) .coxStat 0 5 4 ≠ 1 := by decide +kernel
/-- A context of scull 0 halted by a context fault. -/
def sFaulted (words : List Word) : State :=
  { sTaken 0x40 words with img := some gStroke, ctxs := [(ctxKey 0 1, { Ctx.reset with halt := .fault 1 })] }
theorem test_witness_LongServicesStart :
    (let s := sTaken 0x40 [svFlashErase, 0, 1, 0x10000, 0x10000]
     s.taken = some 13 ∧ reqService s 13 = svFlashErase ∧ coxHalted s = false ∧ s.long = none
       ∧ reqField s 13 12 4 % 65536 = 0 ∧ reqField s 13 16 4 % 65536 = 0
       ∧ flashRefusal s (reqField s 13 8 1) (reqField s 13 12 4) (reqField s 13 16 4) = none)
      ∧ (let s := sTaken 0x41 [svFlashWrite, 0, 1, 0x100, 4]
         reqService s 13 = svFlashWrite ∧ reqField s 13 12 4 % 256 = 0 ∧ 1 ≤ reqField s 13 16 4 ∧ reqField s 13 16 4 ≤ 65536
           ∧ flashRefusal s (reqField s 13 8 1) (reqField s 13 12 4) (reqField s 13 16 4) = none
           ∧ flashSource s 13 (reqField s 13 16 4) = some [0, 0, 0, 0])
      ∧ (let s := put (sTaken 0x40 [svArcAdvance, 0, 0x10101]) [(.imgStat, 0, 0x01000000)]
         reqService s 13 = svArcAdvance ∧ s.chg.active = false ∧ reqField s 13 8 1 ≤ 1 ∧ reqField s 13 9 1 ≤ 1 ∧ reqField s 13 10 1 ≤ 64
           ∧ arcCount s (reqField s 13 8 1 == 1) < reqField s 13 10 1
           ∧ reqField s 13 10 1 ≤ arcVersion s (reqField s 13 8 1 == 1))
      ∧ (let s := sFaulted [svCtxRestart, 0, 1]
         reqService s 13 = svCtxRestart ∧ s.long = none ∧ reqField s 13 8 1 < 64 ∧ ctxFaulted s (reqField s 13 8 1) = true)
      ∧ (let s := { sTaken 0x41 [svDbgResponse, 0, 0] with challenge := some ⟨2, [], 200000000, none, 13⟩ }
         reqService s 13 = svDbgResponse ∧ s.authFails < 3 ∧ s.challenge = some ⟨2, [], 200000000, none, 13⟩
           ∧ s.now < 200000000 + 10000000000 ∧ s.chg.active = false ∧ reqField s 13 8 1 = 0)
      ∧ (let s := { sTaken 0x41 [svDbgResponse, 0, 1] with challenge := some ⟨1, [], 200000000, some [], 13⟩ }
         reqService s 13 = svDbgResponse ∧ s.authFails < 3 ∧ s.challenge = some ⟨1, [], 200000000, some [], 13⟩
           ∧ s.now < 200000000 + 10000000000 ∧ reqField s 13 8 1 = 1)
      ∧ (let s := sTaken 0x40 [svChgStart, 0, 0x101]
         reqService s 13 = svChgStart ∧ s.chg.active = false ∧ reqField s 13 8 1 ≤ 1 ∧ reqField s 13 8 1 ≠ slotInForce s
           ∧ reqField s 13 9 1 ≤ 1)
      ∧ (let s := { sFaulted [svCtxRestart, 0, 1] with long := some ⟨14, svInfo, 0, [], 0, 0, 0, []⟩ }
         s.taken = some 13 ∧ reqService s 13 = svCtxRestart ∧ ctxFaulted s (reqField s 13 8 1) = true) := by decide +kernel
/-- A long service that runs. -/
def sLong (v : Nat) (args results : List Byte) : State := { sRun with long := some ⟨13, v, 0x40, args, 0, 0, 0, results⟩ }
theorem test_witness_LongServicesEnd :
    (sLong svFlashErase [] []).long = some ⟨13, svFlashErase, 0x40, [], 0, 0, 0, []⟩ ∧ coxHalted (sLong svFlashErase [] []) = false
      ∧ (let s := put (sLong svFlashWrite (List.replicate 16 0 ++ [2, 0, 0, 0]) [1, 2]) [(.mbStat, 13, 0x4002)]
         ∃ l, s.long = some l ∧ l.service = svFlashWrite ∧ l.results.length = field l.args 16 4 ∧ mbState s l.mailbox = 2
           ∧ l.mailbox < 15)
      ∧ (∃ l, (sLong svArcAdvance (List.replicate 9 0 ++ [1]) []).long = some l ∧ l.service = svArcAdvance ∧ field l.args 9 1 = 1)
      ∧ (∃ l, (sLong svArcAdvance [] []).long = some l ∧ field l.args 9 1 ≠ 1
           ∧ otherSlotPasses (sLong svArcAdvance [] []) (field l.args 8 1 == 1) (field l.args 10 1) = false)
      ∧ (let s := { sLong svDbgResponse (List.replicate 8 0 ++ [1]) [] with challenge := some ⟨1, [], 0, some [], 13⟩ }
         ∃ l c, s.long = some l ∧ l.service = svDbgResponse ∧ s.challenge = some c ∧ field l.args 8 1 = 1 ∧ c.level = 1) :=
  ⟨rfl, by decide +kernel, ⟨_, rfl, by decide +kernel⟩, ⟨_, rfl, rfl, by decide +kernel⟩, ⟨_, rfl, by decide +kernel⟩,
    ⟨_, _, rfl, rfl, rfl, by decide +kernel⟩⟩
/-- A mapping request of context 1, whose allotment is the 4 MiB at device address 0x200000. -/
def sMap (v : Nat) (va pa : Word) (g : Image) : State :=
  { sTaken 0x40 [BitVec.ofNat 32 v, 0, 0x30101, 1, va, 0, pa, 0] with
    img := some g, allot := [⟨0x200000, 0x400000, 1, 0, 0, 0⟩] }
theorem test_witness_MappingServices :
    (let s := sMap svPtMap 0x400000 0x200000 gTrend
     let p := ptArgs s 13
     s.taken = some 13 ∧ reqService s 13 = svPtMap ∧ coxHalted s = false ∧ ptRefusal s 13 p = none ∧ p.attr ≤ 3 ∧ p.size = 1
       ∧ p.count = 1 ∧ p.va + 2 ^ 21 ≤ vaddrEnd
       ∧ (∀ o ∈ ptPages p, inAllotment s p.ctx (p.pa + o) = true ∧ inPinned s p.ctx (p.pa + o) = false
           ∧ leafOf s p.ctx (p.va + o) = none)
       ∧ p.va % 2 ^ 21 = 0 ∧ p.pa % 2 ^ 21 = 0 ∧ p.pa < 2 ^ 48)
      ∧ (let s := put (sMap svPtMap 0x7F0000 0x3F0000 gTrend) [(.mbReq, 210, 0x30001)]
         let p := ptArgs s 13
         s.taken = some 13 ∧ reqService s 13 = svPtMap ∧ ptRefusal s 13 p = none ∧ p.attr ≤ 3 ∧ p.size = 0 ∧ p.count = 1
           ∧ p.va + 2 ^ 16 ≤ vaddrEnd ∧ inAllotment s p.ctx p.pa = true ∧ inPinned s p.ctx p.pa = false
           ∧ leafOf s p.ctx p.va = none ∧ p.va % 2 ^ 16 = 0 ∧ p.pa % 2 ^ 16 = 0 ∧ p.pa < 2 ^ 48)
      ∧ (let s := sMap svPtMap 0x400000 0x600000 gTrend
         let p := ptArgs s 13
         ptRefusal s 13 p = none ∧ p.va + p.count * ptBytes p ≤ vaddrEnd
           ∧ ∃ o ∈ ptPages p, inAllotment s p.ctx (p.pa + o) = false)
      ∧ (let s := sMap svPtMap 0x400000 0x200000 gStroke
         let p := ptArgs s 13
         mbOwner s 13 = 0x40 ∧ p.ctx < 64 ∧ p.size ≤ 1 ∧ 1 ≤ p.count ∧ p.count ≤ 32 ∧ switchPending s p.ctx = false
           ∧ demandPaged s p.ctx = false)
      ∧ (let s := { sMap svPtUnmap 0x400000 0 gTrend with mem := [(16, 3), (18, 0x20)] }
         let p := ptArgs s 13
         reqService s 13 = svPtUnmap ∧ ptRefusal s 13 p = none ∧ p.size = 1 ∧ p.count = 1 ∧ p.va % 2 ^ 21 = 0
           ∧ p.va + 2 ^ 21 ≤ 2 ^ 36 ∧ leafOf s p.ctx p.va = some (0x200003, 2 ^ 21) ∧ ptePin 0x200003 = false) := by decide +kernel
/-- An entry of an engine queue that runs. -/
def qRun (major : Nat) (w : BitVec 56) (e : Engine) (args : List DWord) : QEntry :=
  ⟨0, 1, 0, major, w, args, none, none, [], [], true, e, true⟩
/-- Context 1 runs on scull 15. -/
def sOn (c : Ctx) (x : Scull) : State :=
  { sRun with img := some gStroke, ctxs := [(ctxKey 15 1, { c with released := true })], sculls := [(15, { x with running := some 1 })] }
theorem test_witness_Fencing :
    (let s := sTaken 0x40 [svFenceScull, 0, 15]
     s.taken = some 13 ∧ reqService s 13 = svFenceScull ∧ coxHalted s = false ∧ s.long = none ∧ reqField s 13 8 1 < 16
       ∧ live s (reqField s 13 8 1) = true)
      ∧ (let s := sTaken 0x40 [svFenceScull, 0, 16]
         reqService s 13 = svFenceScull ∧ live s (reqField s 13 8 1) = false)
      ∧ (let s := sOn Ctx.reset { Scull.reset with qVector := [qRun 0x50 0 .vector []] }
         live s 15 = true ∧ engineRuns s 15 .vector = true)
      ∧ (let k : Scan := ⟨0, 0, 0, 0, qRun 0x70 0 .scan [], 0, true, 0, 0⟩
         let s := sOn { Ctx.reset with scan := some k } Scull.reset
         shownScan s 15 = some k ∧ k.running = true ∧ k.w0.getLsbD 43 = false)
      ∧ (let s := sOn Ctx.reset { Scull.reset with channels := [(3, { Channel.idle with state := 1 })] }
         (chAt (scullAt s 15) 3).state = 1)
      ∧ (let s := sOn { Ctx.reset with due := [⟨1, .issue, 0, 0, none, none, [], false, 0⟩] } Scull.reset
         (scullAt s 15).running = some 1 ∧ (nextTrap (ctxAt s (ctxKey 15 1))).isSome = true)
      ∧ islandScull (.sequencer 15) = some 15 ∧ live sRun 15 = true ∧ islandScull .cox = none ∧ Island.strokeTimer ≠ .stern
      ∧ live (put sRun [(.idScullLive, 0, 0x7FFF)]) 15 = false
      ∧ (1760#16).toInt = 1760 := by decide +kernel
theorem test_witness_CoxHalts :
    sRun.inReset = false ∧ coxHalted sRun = false ∧ sEarly.inReset = false ∧ coxHalted sEarly = false ∧ sEarly.stuck = false := by
  decide +kernel

/-! ## Witnesses: start-up and the stroke -/

/-- Start-up in stage `n`, after a reset that has ended. -/
def sBoot (n : Nat) : State := put { State.reset with inReset := false } [(.pwrBoot, 0, BitVec.ofNat 32 n)]
/-- Fuses of a builder's device. -/
def fused : Fuses :=
  { vendorHash := .blow [], serial := .blow [], priv := .blow [], idMap := .blow [], builderHash := .blow [1], kek := .blow []
    dbgOff := .unblown 1, vendorArc := 0, builderArc := 0 }

theorem test_witness_ResetAndRails :
    (let s := { State.reset with inReset := true }
     s.inReset = true ∧ s.railReset = false)
      ∧ (let s := { State.reset with inReset := true, railReset := true }
         s.railReset = true ∧ rdf s .fltFirst 0 15 0 = 0 ∧ s.holding = []) ∧ (8 : Fin 11).val < 9
      ∧ (0x1FE#9) ≠ 0x1FF ∧ sRun.inReset = false ∧ 9 ≤ (9 : Fin 11).val ∧ 9 ≤ (10 : Fin 11).val := by decide +kernel
theorem test_witness_StartUpPasses :
    (let s := { sBoot 2 with fuses := fused }
     canBoot s 2 = true ∧ fusesOk s.fuses = true ∧ cRailDrop ∉ s.holding ∧ s.holding = [])
      ∧ canBoot (sBoot 3) 3 = true
      ∧ (let s := { sBoot 4 with flash := ⟨[], 27, 0, true, true⟩ }
         canBoot s 4 = true ∧ s.flash.answers = true ∧ 27 ≤ s.flash.densLog2 ∧ s.flash.octal = true ∧ tries s < 15)
      ∧ (let s := { sBoot 5 with fuses := fused }
         canBoot s 5 = true ∧ s.fuses.builderHash.blank = false ∧ s.hbmTrained = false)
      ∧ (let s := { sBoot 5 with fuses := { fused with builderHash := .unblown 48 } }
         canBoot s 5 = true ∧ s.fuses.builderHash.blank = true ∧ s.hbmTrained = false)
      ∧ (let s := { sBoot 5 with fuses := fused, hbmTrained := true }
         canBoot s 5 = true ∧ s.hbmTrained = true)
      ∧ canBoot (sBoot 6) 6 = true ∧ 1 < 2 ∧ (0x8000#16).getLsbD 15 = true ∧ live (sBoot 6) 15 = true
      ∧ canBoot (sBoot 7) 7 = true := by decide +kernel
theorem test_witness_StartUpFailures :
    canBoot (sBoot 2) 2 = true ∧ canBoot (sBoot 3) 3 = true
      ∧ (let s := { sBoot 3 with fuses := { fused with kek := ⟨[1], 0⟩ } }
         canBoot s 3 = true ∧ fusesOk s.fuses = false)
      ∧ (let s := { sBoot 4 with flash := ⟨[], 27, 0, true, true⟩ }
         canBoot s 4 = true ∧ s.flash.octal = true ∧ tries s = 0
           ∧ verifyHeader (bringUp s) s.bootSlot = .inl ⟨1, cImgFmt, 0⟩ ∧ s.bootSlot < 2)
      ∧ (let s := put { sBoot 4 with flash := ⟨[], 27, 0, true, true⟩, bootSlot := 1 } [(.pwrBoot, 0, 0x104)]
         canBoot s 4 = true ∧ tries s = 1 ∧ verifyHeader (bringUp s) s.bootSlot = .inl ⟨1, cImgFmt, 0⟩)
      ∧ (let s := { sBoot 4 with flash := ⟨[], 27, 0, true, false⟩ }
         canBoot s 4 = true ∧ s.flash.answers = false)
      ∧ canBoot (sBoot 6) 6 = true ∧ 2 ≤ 2
      ∧ (let s := put (sBoot 4) [(.pwrBoot, 0, 0x104)]
         canBoot s (stageOf s) = true ∧ readsIn (stageOf s) 3 = true ∧ tries s < 2 ∧ s.bootSlot < 2 ∧ s.long = none
           ∧ stageOf s = 4)
      ∧ (let s := { sRun with chg := { Changeover.idle with active := true } }
         s.long = none ∧ s.run = true ∧ s.chg.active = true ∧ s.chg.staged = false ∧ (7 : Fin 9).val ∈ [1, 2, 3, 5, 7]) := by
  decide +kernel
theorem test_witness_BringUpStages :
    (canBoot (sBoot 8) 8 = true ∧ ∃ v,
      let u := stageEntered (calibrate 0 (sBoot 8)) 8
      takesLists u (image u).rfxList (image u).oplList v)
      ∧ (let s := put (sBoot 8) [(.snsAeCfg, 0, 0x80000000)]
         isMod 48 = false ∧ chanOn s 48 = true ∧ (0x1000000000000#64).getLsbD 48 = true)
      ∧ (canBoot (sBoot 9) 9 = true ∧ ∃ v,
      let u := clearStp (stageEntered (warmUp ⟨true, true, [], [], [], []⟩ (sBoot 9)) 9)
      takesLists u (axisLoads u false) [] v)
      ∧ (let s := put { sBoot 10 with linksUp := true } [(.stkStatus, 0, 1)]
         canBoot s 10 = true ∧ s.linksUp = true ∧ rdb s .stkStatus 0 0 = true ∧ linksDown s = [] ∧ s.debugHold = false
           ∧ ∃ v, takesLists (stageEntered s 10) (image (stageEntered s 10)).svcList [] v)
      ∧ rdb { sBoot 10 with linksUp := true } .stkStatus 0 0 = false
      ∧ (let s := put { sBoot 10 with linksUp := true, now := 50000000 } [(.stkStatus, 0, 1), (.axlCfg, 11, 0x84040040)]
         canBoot s 10 = true ∧ s.stageAt + handshakeBound s ≤ s.now ∧ linksDown s ≠ [])
      ∧ (let s := { sBoot 10 with now := 2000000000 }
         slave s = true ∧ rdb s .stkStatus 0 0 = false ∧ s.stageAt + 2000000000 ≤ s.now ∧ cStrokeSyncLost ∉ s.holding) :=
  ⟨⟨by decide +kernel, _, by decide +kernel, by decide +kernel, rfl⟩, by decide +kernel,
   ⟨by decide +kernel, _, by decide +kernel, by decide +kernel, rfl⟩,
   ⟨by decide +kernel, by decide +kernel, by decide +kernel, by decide +kernel, by decide +kernel, _, by decide +kernel, by decide +kernel, rfl⟩,
   by decide +kernel, by decide +kernel, by decide +kernel⟩
/-- Stage 11 with an image whose one TREND instance names scull 0. -/
def sAdmit (mask : BitVec 16) : State :=
  { sBoot 11 with img := some { Image.empty with models := [{ mStroke with cls := .trend, mask := mask, regions := [], slots := [] }] } }
theorem test_witness_AdmissionOutcome :
    (let s := { sBoot 11 with img := some Image.empty }
     canBoot s 11 = true ∧ s.admitted = false ∧ s.debugHold = false ∧ admits s = true)
      ∧ (let s := put (sAdmit 1) [(.idScullLive, 0, 0xFFFE)]
         canBoot s 11 = true ∧ s.bootSlot < 2 ∧ admits s = false ∧ tries s < 2)
      ∧ (let s := put (sAdmit 1) [(.idScullLive, 0, 0xFFFE), (.pwrBoot, 0, 0x20B)]
         canBoot s 11 = true ∧ admits s = false ∧ 2 ≤ tries s) := by decide +kernel

/-- Recovery of a stroke at its last nanosecond. -/
def sRecovery : State := { sRun with timerOn := true, phase := .recovery, now := 15625, lockNs := 15625 }
theorem test_witness_EntryIntoRun :
    let s := { sBoot 11 with admitted := true, timerOn := true, phase := .recovery, now := 15625, lockNs := 15625 }
    canBoot s 11 = true ∧ s.admitted = true ∧ s.debugHold = false ∧ s.chg.active = false ∧ ticking s = true ∧ s.phase = .recovery
      ∧ (catchRange s).1 ≤ s.now := by decide +kernel
theorem test_witness_CatchEdge :
    ticking sRecovery = true ∧ sRecovery.phase = .recovery ∧ (catchRange sRecovery).1 ≤ sRecovery.now ∧ sRecovery.run = true
      ∧ (let s := { sBoot 8 with timerOn := true, phase := .recovery, now := 15625, lockNs := 15625 }
         ticking s = true ∧ (catchRange s).1 ≤ s.now ∧ s.run = false ∧ s.admitted = false)
      ∧ ticking sRun = false ∧ (let s := { sRecovery with now := 15616 }
         s.now < (catchRange s).1)
      ∧ following sRecovery = false ∧ following { sRecovery with everLocked := true } = true
      ∧ rdb sRecovery .stkStatus 0 1 = false := by decide +kernel
theorem test_witness_DriveAndCutoff :
    (let s := { sRecovery with phase := .catch_, now := 400 }
     ticking s = true ∧ s.phase = .catch_ ∧ 400 ≤ strokeNs s)
      ∧ (let s := { sRecovery with phase := .drive, now := 2340, img := some gStroke, insts := [(3, { Inst.reset with stepped := true })] }
         ticking s = true ∧ s.phase = .drive ∧ finishNs s ≤ strokeNs s + 160 ∧ 3 ∈ instsOf s .stroke
           ∧ (instAt s 3).stepped = true ∧ (instAt s 3).complete = false)
      ∧ strokeNs { sRecovery with now := 399 } < 400
      ∧ (let s := { sRecovery with now := 2339 }
         strokeNs s + 160 < finishNs s) := by decide +kernel
theorem test_witness_FinishEdge :
    (let s := { sRecovery with phase := .cutoff, now := 2500 }
     ticking s = true ∧ s.phase = .cutoff ∧ finishNs s ≤ strokeNs s ∧ s.run = true)
      ∧ (let s := { sBoot 9 with timerOn := true, phase := .cutoff, now := 2500 }
         ticking s = true ∧ finishNs s ≤ strokeNs s ∧ s.run = false)
      ∧ (let s := { sRecovery with now := 2499 }
         strokeNs s < finishNs s) := by decide +kernel
/-- One instance of class STROKE at its finish. -/
def sCommit (x : Inst) : State := { sRecovery with img := some gStroke, insts := [(3, x)] }
theorem test_witness_FinishRecords :
    (let s := sCommit { Inst.reset with fenced := true }
     (instAt s 3).fenced = true)
      ∧ (let s := put (sCommit Inst.reset) [(.stkStatus, 0, 4)]
         clsOf s 3 = some .stroke ∧ failStopped s = true ∧ fsPolicy s = 0 ∧ debugFenced s = false)
      ∧ fsPolicy (put sRun [(.stkCfg, 0, 0x10)]) ≠ 0
      ∧ (let s := sCommit { Inst.reset with placed := true, missed := true, stepped := true }
         clsOf s 3 = some .stroke ∧ withheld s 3 (instAt s 3) = false ∧ (instAt s 3).nanRecord = false
           ∧ (instAt s 3).overrun = false ∧ standbyFor s 3 = false ∧ (instAt s 3).held = false ∧ (instAt s 3).staleLeft = 0
           ∧ (instAt s 3).staleUntilResult = false ∧ (instAt s 3).missed = true ∧ (instAt s 3).complete = false)
      ∧ (let s := sCommit { Inst.reset with placed := true, complete := true, stepped := true, newOut := some [1] }
         withheld s 3 (instAt s 3) = false ∧ standbyFor s 3 = false ∧ (instAt s 3).missed = false ∧ (instAt s 3).complete = true
           ∧ (instAt s 3).newOut = some [1]) := by decide +kernel
/-- A slave whose window is 250 ns. -/
def sSlave : State := { sRun with timerOn := true, everLocked := true, now := 250 }
theorem test_witness_StrokeSync :
    (let s := { sSlave with everLocked := false }
     ticking s = true ∧ slave s = true ∧ rdb s .stkCfg 0 2 = false ∧ s.everLocked = false ∧ s.acqRun = 0)
      ∧ (let s := { sSlave with lockNs := 15625, now := 15375 }
         ticking s = true ∧ syncStopped s = false ∧ winNs s < strokeNs s ∧ s.lockNs ≤ strokeNs s + winNs s ∧ s.earlyEdge = false
           ∧ rdb s .stkStatus 0 1 = false)
      ∧ (let s := put { sSlave with phase := .recovery, fsRun := 7, fsLast := some 0, now := 15625 } [(.stkStatus, 0, 4)]
         ticking s = true ∧ slave s = true ∧ syncStopped s = true ∧ periodNs s ≤ s.now - 0 + winNs s
           ∧ s.now - 0 ≤ periodNs s + winNs s ∧ cFabricStall ∉ s.holding ∧ s.chg.active = false)
      ∧ (let s := { sSlave with everLocked := false, acqRun := 15 }
     ticking s = true ∧ slave s = true ∧ rdb s .stkCfg 0 2 = false ∧ s.everLocked = false ∧ s.acqRun = 15
       ∧ strokeNs s ≤ winNs s ∧ s.lateEdge = false ∧ cStrokeSyncLost ∉ s.holding)
      ∧ (let s := { sSlave with lateEdge := true }
         true ≠ rdb s .stkCfg 0 2 ∧ syncStopped s = false ∧ strokeNs s ≤ winNs s ∧ s.lateEdge = true)
      ∧ (let s := put sSlave [(.stkStatus, 0, 0x303)]
         syncStopped s = false ∧ s.lateEdge = false ∧ rdb s .stkStatus 0 1 = true)
      ∧ slave (put sSlave [(.stkCfg, 0, 1)]) = false
      ∧ (let s := put { sSlave with now := 251 } [(.stkStatus, 0, 0x3F03)]
         syncStopped s = false ∧ winNs s < strokeNs s ∧ rdf s .stkStatus 0 15 8 < 64)
      ∧ (let s := put { sSlave with now := 251 } [(.stkStatus, 0, 0x4003)]
         ticking s = true ∧ slave s = true ∧ s.lateEdge = false ∧ syncStopped s = false ∧ winNs s < strokeNs s
           ∧ s.everLocked = true ∧ rdf s .stkStatus 0 15 8 = 64) := by decide +kernel
/-- A MIRROR channel from this member to member 1. -/
def mirrorChan : OplChan := ⟨63, 1, 0, 1, 3, 3, 0, 64, 0, 0, 0⟩
/-- A checkpoint of 64 bytes in the window of context 1 on scull 0. -/
def mSlot : Model := { mStroke with regions := [⟨0x10000, 0x10000, 0, 7, []⟩], slots := [⟨0x10000, 64, 1, false⟩] }
def sCkpt : State :=
  { sRecovery with
    img := some { Image.empty with models := [mSlot] }, recovery := [.checkpoint 3 0], strokeNo := 5
    insts := [(3, { Inst.reset with placed := true, mask := 3 })], sculls := [(0, { Scull.reset with windows := [(1, (0, 0x20000))] })] }
theorem test_witness_RecoveryWork :
    sCkpt.phase = .recovery ∧ ticking sCkpt = true ∧ .checkpoint 3 0 ∈ sCkpt.recovery ∧ 1 ≤ strokeNat sCkpt ∧ modelOf sCkpt 3 = some mSlot
      ∧ mSlot.slots[0]? = some ⟨0x10000, 64, 1, false⟩
      ∧ slotRead sCkpt mSlot ⟨0x10000, 64, 1, false⟩ = some (List.replicate 64 0, false)
      ∧ (let s := { sCkpt with poisoned := [(spadAddr 0 0x10000 / 8, true)] }
         slotRead s mSlot ⟨0x10000, 64, 1, false⟩ = some (List.replicate 64 0, true))
      ∧ Tab.get noCopy (instAt sCkpt 3).ckA 0 = none ∧ Tab.get noCopy (instAt sCkpt 3).ckB 0 = none := by decide +kernel
theorem test_witness_RecoveryWork_mirror :
    (let s := { sRecovery with
       img := some { Image.empty with models := [mStroke], chans := [mirrorChan] }, recovery := [.mirror 63] }
     s.phase = .recovery ∧ ticking s = true ∧ .mirror 63 ∈ s.recovery ∧ s.recovery.any isCkpt = false
       ∧ (channelOf s 63).bind (mirrorEnd s) = some (3, 1) ∧ modelOf s 3 = some mStroke)
      ∧ .checkpoint 3 0 ∉ sRun.recovery ∧ .heat 3 ∉ sRun.recovery ∧ sRun.phase ≠ .recovery
      ∧ sRecovery.recovery = [] ∧ ticking sRecovery = true := by decide +kernel
theorem test_witness_ReferenceLoss : sRun.refLost = false ∧ sRun.inReset = false ∧ sRecovery.timerOn = true ∧ (sBoot 4).run = false
    ∧ (sBoot 4).stuck = false ∧ lineOn (put sRun [(.stpCfg, 11, 0x80010000)]) 11 = true := by decide +kernel


/-! ## Witnesses: islands, bridges, sense inputs, links -/

theorem test_witness_IslandsAndSupplies :
    sRun.run = true ∧ sRun.avsDead = false ∧ signed 16 (rdf sRun .thmTemp 16 15 0) ≤ (16 * rdf sRun .thmThrot 0 15 8 : Nat)
      ∧ (clockOk sRun (.array 0) 800 = true ∧ 800 ≤ clockOf sRun (.array 0) ∧ sRun.avsChange = none ∧ 800 ≠ sRun.vddMv + 5)
      ∧ (clockOk sRun .stern 800 = true ∧ clockOf sRun .stern < 800 ∧ sRun.vddMv = 800)
      ∧ (clockOk sRun (.array 0) 1250 = true ∧ clockOf sRun (.array 0) < 1250 ∧ sRun.vddMv < 850 ∧ 720 < sRun.vddMv)
      ∧ { sRun with avsChange := some 850 }.avsChange ≠ none ∧ clockOk sRun .cox 400 = false ∧ clockOk sRun (.sequencer 0) 500 = false
      ∧ 6 ≤ stageOf sRun ∧ sRun.avsFails < 2 ∧ 2 ≤ { sRun with avsFails := 2 }.avsFails
      ∧ (let s := { sRun with avsChange := some 850, avsRaise := some (.array 0, 1250) }
         s.avsRaise = some (.array 0, 1250) ∧ clockOk s (.array 0) 1250 = true) := by decide +kernel
theorem test_witness_IslandsAndSupplies_banks :
    (let s := { sRun with img := some gTrend, allot := [] }
     clsOf s 3 = some .trend)
      ∧ (let s := { sRun with img := some gStroke, allot := [⟨0, 0, 1, 0, 1, 0⟩] }
         3 ∈ instances s ∧ clsOf s 3 ≠ some .trend ∧ s.allot.any (fun a => a.ctx == ctxOfInst s 3 && a.flags % 2 == 1) = true)
      ∧ bankState sRun 0 = 0
      ∧ (let s := put sRun [(.rfxBankStat, 0, 0x20000000), (.rfxBankStat, 1, 0x40000000)]
         bankState s 0 = 1 ∧ bankState s 1 = 2 ∧ (bankAt s 0).sensorBad < 2 ∧ (bankAt s 0).lowRows = [])
      ∧ (bankAt { sRun with banks := [(0, { Bank.reset with lowRows := [3] })] } 0).lowRows ≠ []
      ∧ 2 ≤ (bankAt { sRun with banks := [(0, { Bank.reset with sensorBad := 2 })] } 0).sensorBad := by decide +kernel
/-- Link 0 in the drive phase, the frame received last in a spot. -/
def sSpot (x : FrameSpot) : State := { sRun with phase := .drive, links := [(0, { Link.reset with newest := x })] }
theorem test_witness_BridgeParity :
    (let s := { sRun with staged := [(65536, 5)] }
     s.staged.reverse.find? (fun e => e.1 / 65536 == (1 : Fin 64).val) = some (65536, 5) ∧ s.cal = none ∧ s.bridgeStroke ≠ 16)
      ∧ (∀ x ∈ [FrameSpot.onTime, .lateTag], (sSpot x).phase ≠ .catch_ ∧ strokeNs (sSpot x) + 300 ≤ periodNs (sSpot x)
          ∧ (linkAt (sSpot x) 0).newest = x ∧ (sSpot x).bridgeStroke ≠ 16)
      ∧ (sSpot .none).phase ≠ .catch_ ∧ (linkAt (sSpot .none) 0).newest = .none
      ∧ (let s := { sRun with links := [(0, { Link.reset with latched := some [] })] }
         s.phase = .catch_ ∧ (linkAt s 0).latched = some [] ∧ s.bridgeStroke ≠ 16)
      ∧ sRun.phase = .catch_ ∧ (linkAt sRun 0).latched = none
      ∧ ({ sSpot .onTime with bridgeStroke := 16 }.bridgeStroke = 16 ∧ { sSpot .onTime with bridgeStroke := 16 }.phase ≠ .catch_)
      ∧ bankState (put sRun [(.rfxBankStat, 3, 0x20000000)]) 3 ≠ 0 ∧ bankState (put sRun [(.rfxBankStat, 3, 0x40000000)]) 3 = 2 := by
  decide +kernel
/-- Vibration channel 56 with four outputs a stroke, in IEPE mode. -/
def sVib : State := put sRun [(.snsVibCfg, 0, 0x80000004), (.snsVibRate, 0, 4)]
/-- Modulator channel 0: order 3, OSR 32, SHIFT 15. -/
def sModC : State := put sRun [(.snsModCfg, 0, 0x800F0005), (.snsMclk, 0, 320)]
/-- Alternating bits. -/
def altBits (n : Nat) : List Bool := (List.range n).map (fun i => i % 2 == 0)
theorem test_witness_SampleWords :
    (chanOn sVib 56 = true ∧ 3 < outputsOf sVib 56 ∧ outputsOf sVib 56 ≤ 4 ∧ sVib.cal = none)
      ∧ (chanOn sModC 0 = true ∧ 9 < outputsOf sModC 0 ∧ outputsOf sModC 0 ≤ 10 ∧ (altBits 32).length = modOsr sModC 0)
      ∧ (let s := put sRun [(.snsAeCfg, 7, 0x80000000), (.snsAeRate, 0, 100)]
         chanOn s 55 = true ∧ 99 < outputsOf s 55 ∧ 2 ^ 15 ≤ adcCode s 55 16 3 1 ∧ adcCode s 55 16 2 1 < 2 ^ 15)
      ∧ chanOn sRun 56 = false ∧ 0 < Tab.get zeroDefault { sVib with lateWords := [(56, 1)] }.lateWords 56
      ∧ (let x := { SenseChan.reset with settleLeft := 1, shortNow := true, openNow := true, disturbed := true, levelRun := 1024 }
         let s := { sModC with chans := [(0, x)] }
         (chanAt s 0).settleLeft = 1 ∧ (chanAt s 0).ovrPrev = false ∧ (chanAt s 0).disturbed = true ∧ 1024 ≤ (chanAt s 0).levelRun)
      ∧ innerStrokes sModC < Tab.get zeroDefault { sModC with mclkFlt := [(0, 2)] }.mclkFlt 0 := by decide +kernel
theorem test_witness_SampleWords_filter :
    (let s := { sModC with chans := [(0, { SenseChan.reset with bits := altBits 94 })] }
     filterFull s 0 (sampleBits s 0 (altBits 32) (chanAt s 0)) = true
       ∧ stuckRun s 0 (sampleBits s 0 (altBits 32) (chanAt s 0)) = false
       ∧ stuckRun s 0 (sampleBits s 0 (List.replicate 32 true) (chanAt s 0)) = true)
      ∧ filterFull sModC 0 (sampleBits sModC 0 (altBits 32) (chanAt sModC 0)) = false := by decide +kernel
theorem test_witness_IepeAndMclk :
    iepeOn sVib 56 = true ∧ sVib.cal = none ∧ { sVib with viepeLow := true }.viepeLow = true
      ∧ (let s := { sVib with
           chans := [(56, { SenseChan.reset with highRun := 1, lowRun := 1, goodRun := 9, openNow := true })] }
         iepeOn s 56 = true ∧ s.viepeLow = false ∧ 9 ≤ (chanAt s 56).goodRun ∧ (chanAt s 56).openNow = true
           ∧ 1 ≤ (chanAt s 56).highRun ∧ 1 ≤ (chanAt s 56).lowRun)
      ∧ (let s := { sVib with
           cal := some ⟨true, 56, 0, [], 0, false, 0⟩, chans := [(56, { SenseChan.reset with highRun := 1 })] }
         iepeOn s 56 = true ∧ s.cal = some ⟨true, 56, 0, [], 0, false, 0⟩ ∧ 1 ≤ (chanAt s 56).highRun)
      ∧ iepeOn sVib 57 = false ∧ (chanAt sVib 56).goodRun < 9 := by decide +kernel
/-- Modulator channel 0 with limits for its calibration. -/
def sCal : State := put sModC [(.snsCalNoiseMax, 0, 10), (.snsCalDeltaMax, 0, 100)]
/-- A full window of equal codes. -/
def aCal (v : Int) : Cal := ⟨false, 0, 1024, List.replicate 1024 v, 0, true, 0⟩
theorem test_witness_Calibration :
    (sRun.run = true ∧ sRun.cal = none ∧ chanOn sRun 0 = false ∧ iepeOn sRun 56 = false) ∧ State.reset.run = false
      ∧ (let s := { sRun with cal := some ⟨true, 56, 0, [], 0, false, 0⟩, now := 10000000 }
         s.cal.isSome = true ∧ s.cal = some ⟨true, 56, 0, [], 0, false, 0⟩ ∧ 10000000 ≤ s.now)
      ∧ ¬ (48 ≤ 0 ∨ chanOn sCal 0 = false ∨ rdf sCal .snsModCfg 0 28 24 = 31 ∨ rd sCal .snsCalNoiseMax 0 = 0
        ∨ rd sCal .snsCalDeltaMax 0 = 0)
      ∧ ¬ (iepeOn sVib 56 = false ∨ (chanAt sVib 56).openNow = true ∨ (chanAt sVib 56).shortNow = true) := by decide +kernel
theorem test_witness_Calibration_window :
    { sCal with cal := some (aCal 7) }.cal = some (aCal 7) ∧ (aCal 7).iepe = false ∧ 1024 ≤ (aCal 7).count
      ∧ (aCal 7).caught = true ∧ (aCal 7).chan < 64
      ∧ (let noise : Int := (rdf sCal .snsCalNoiseMax 0 23 0 : Nat)
         let delta : Int := (rdf sCal .snsCalDeltaMax 0 23 0 : Nat)
         let loud (k : Cal) : Prop :=
           noise * noise * 1024 * 1024 < 1024 * (k.codes.map (fun x => x * x)).sum - k.codes.sum * k.codes.sum
         ¬ loud (aCal 7) ∧ ¬ loud (aCal 101) ∧ ¬ delta < roundEven (aCal 7).codes.sum 1024
           ∧ delta < roundEven (aCal 101).codes.sum 1024
           ∧ loud { aCal 0 with codes := List.replicate 512 100 ++ List.replicate 512 (-100) }) := by decide +kernel

/-- Link 0 enabled in a state, its stop line enabled with LOST_STOP, this tray active, STALE limit 3. -/
def sLink (st : Nat) : State :=
  put sRun [(.axlCfg, 0, 0x83040040), (.axlStat, 0, BitVec.ofNat 32 (4 + st)), (.stpCfg, 0, 0xA0000000)]
/-- A frame with its CRC. -/
def sealed (body : List Byte) : List Byte := body ++ bytesOf 4 (crc32 body).toNat
/-- A downstream HELLO of link 0 that names tray 0 and carries 12 bytes. -/
def hello (own : List Byte) : List Byte :=
  sealed (bytesOf 1 2 ++ bytesOf 7 0 ++ bytesOf 2 34 ++ bytesOf 6 0 ++ own)
theorem test_witness_LinkStates :
    (linkOn (sLink 0) 0 = true ∧ linkState (sLink 0) 0 = 0)
      ∧ (∀ st ∈ [1, 2, 3],
         let s := sLink st
         let f := hello (ownHello s 0)
         linkOn s 0 = true ∧ frameOk 0 f = true ∧ field f 0 1 = 2 ∧ f.length = 32 ∧ linkState s 0 = st
           ∧ slice f 16 12 = ownHello s 0 ∧ field f 3 1 = trayId s)
      ∧ (let f := hello (List.replicate 12 0)
         frameOk 0 f = true ∧ field f 0 1 = 2 ∧ f.length = 32 ∧ slice f 16 12 ≠ ownHello (sLink 1) 0
           ∧ field f 3 1 ≠ trayId (put (sLink 1) [(.axlTray, 0, 5)]))
      ∧ { sLink 1 with firstFinish := true }.firstFinish = true
      ∧ (linkState (sLink 3) 0 = 3 ∧ rdb (sLink 3) .stpCfg 0 29 = true ∧ lineOn (sLink 3) 0 = true
         ∧ activeOn (sLink 3) 0 = true)
      ∧ (let s := { sLink 2 with links := [(0, { Link.reset with syncRun := 4 })] }
         linkOn s 0 = true ∧ linkState s 0 = 2 ∧ 4 ≤ (linkAt s 0).syncRun ∧ s.run = true)
      ∧ (let s := { sLink 3 with links := [(0, { Link.reset with missRun := 3 })] }
         linkOn s 0 = true ∧ linkState s 0 = 3 ∧ rdf s .axlCfg 0 27 24 ≤ (linkAt s 0).missRun)
      ∧ rdb (put (sLink 3) [(.stpCfg, 0, 0x80000000)]) .stpCfg 0 29 = false := by decide +kernel
/-- A downstream DATA frame of link 0, 64 bytes long, with a stroke tag. -/
def dataFrame (tag : Nat) : List Byte :=
  sealed (bytesOf 1 1 ++ bytesOf 3 0 ++ bytesOf 4 tag ++ bytesOf 2 64 ++ bytesOf 48 0)
theorem test_witness_DownstreamFrames :
    (let s := { sLink 3 with strokeNo := 7 }
     linkOn s 0 = true ∧ linkState s 0 ≠ 0 ∧ s.run = true ∧ strokeNs s + 300 ≤ periodNs s ∧ strokeNat s = 7
       ∧ (linkAt s 0).win.onTime = none ∧ (linkAt s 0).win.lateFrame = none)
      ∧ (let s := { sLink 3 with now := 15326 }
         periodNs s < strokeNs s + 300 ∧ linkOn s 0 = true ∧ linkState s 0 ≠ 0)
      ∧ strokeNs { sLink 3 with now := 15325 } + 300 ≤ periodNs { sLink 3 with now := 15325 }
      ∧ (∀ tag ∈ [6, 7, 8], frameOk 0 (dataFrame tag) = true ∧ field (dataFrame tag) 0 1 = 1
          ∧ (dataFrame tag).length + 2 = rdf (sLink 3) .axlCfg 0 9 0 ∧ field (dataFrame tag) 4 4 = tag)
      ∧ (linkAt { sLink 3 with links := [(0, { Link.reset with win := ⟨some [], none, false⟩ })] } 0).win.onTime ≠ none
      ∧ frameOk 0 [] = false
      ∧ (let s := put sRun [(.axlTray, 0, 0x200), (.axlCfg, 2, 0xC3040040), (.axlStat, 2, 0x30003)]
         rdb s .axlTray 0 9 = true ∧ (∀ n < 12, linkOn s n = true → activeOn s n = false)
           ∧ linkOn s 2 = true ∧ rdb s .axlCfg 2 30 = true ∧ rdf s .axlStat 2 17 16 = 3)
      ∧ (let s := { put sRun [(.axlTray, 0, 0x200)] with
           img := some { Image.empty with chans := [mirrorChan] }, misses := [(1, 3)] }
         rdb s .axlTray 0 9 = true ∧ (∀ n < 12, linkOn s n = true → activeOn s n = false)
           ∧ (∃ c ∈ (image s).chans, c.typ = 1 ∧ c.src = rdf s .oplCfg 0 2 0 ∧ 3 ≤ Tab.get zeroDefault s.misses c.dst)) := by
  decide +kernel

/-! ## Witnesses: the sequencer and the stern core -/

/-- An instruction word below its major opcode, of form REG. -/
def rw_ (minor rd ra rb rc fn : Nat) : BitVec 56 :=
  BitVec.ofNat 56 (minor * 2 ^ 48 + rd * 2 ^ 42 + ra * 2 ^ 36 + rb * 2 ^ 30 + rc * 2 ^ 24 + fn)
/-- One of form IMM. -/
def im_ (minor rd ra imm : Nat) : BitVec 56 := BitVec.ofNat 56 (minor * 2 ^ 48 + rd * 2 ^ 42 + ra * 2 ^ 36 + imm)
/-- One STROKE model in context 1 on scull 15. -/
def g15 : Image := { Image.empty with models := [{ mStroke with mask := 0x8000 }] }
/-- Context 1 issues on scull 15: its window is 128 KiB of the scratchpad, and context addresses from 0x400000 on are the 2 MiB
at device address 0x200000. -/
def sI (c : Ctx) : State :=
  { sOn c { Scull.reset with windows := [(1, (0, 0x20000))] } with mem := [(16, 0x1F), (18, 0x20)], img := some g15 }
/-- Its scalar registers g1 and on. -/
def regs (l : List Nat) : Ctx := { Ctx.reset with g := l.zipIdx.map (fun e => (e.2 + 1, ⟨BitVec.ofNat 64 e.1, false⟩)) }
/-- Key of context 1 on scull 15. -/
def key : Nat := 961

theorem test_witness_ScalarArithmetic :
    (let w := rw_ 15 31 1 2 0 0
     ready (sI Ctx.reset) 15 key [iRa w, iRb w] [iRd w] ∧ iMinor w < 16 ∧ iRc w = 0 ∧ iFn w = 0)
      ∧ (let w := im_ 15 3 31 5
         ready (sI Ctx.reset) 15 key [iRa w] [iRd w] ∧ iMinor w < 16)
      ∧ (let w := im_ 0 3 0 5
         ready (sI Ctx.reset) 15 key [] [iRd w] ∧ iMinor w = 0 ∧ iRa w = 0)
      ∧ (let w := im_ 1 3 0 (2 ^ 28 - 1)
         ready (sI Ctx.reset) 15 key [iRd w] [iRd w] ∧ iMinor w = 1 ∧ iRa w = 0 ∧ iImmBits w < 2 ^ 28)
      ∧ (∀ m < 9, let w := rw_ m 3 1 (if m = 8 then 0 else 2) (if m = 3 then 4 else 0) 0
         ready (sI Ctx.reset) 15 key (fopSources w) [iRd w] ∧ iMinor w = m ∧ iFn w = 0 ∧ (m = 3 ∨ iRc w = 0)
           ∧ (m < 8 ∨ iRb w = 0))
      ∧ (let w := rw_ 9 3 1 0 0 0
         ready (sI Ctx.reset) 15 key [iRa w] [iRd w] ∧ iMinor w = 9 ∧ iFn w = 0 ∧ iRb w = 0 ∧ iRc w = 0)
      ∧ firstNan [f32 0x3F800000, f32 0xFFC00001] = some true ∧ f32 0x7FC00000 = .nan false ∧ f32 0x7F800000 = .inf false ∧ f32 0xFF800000 = .inf true ∧ f32 0x3F800000 = .fin false (2 ^ 23) (-23)
      ∧ mayRun (sI Ctx.reset) 15 key ∧ 16 ≤ iMinor (rw_ 16 0 0 0 0 0) ∧ 32 ≤ iRd (rw_ 0 32 0 0 0 0) ∧ iFn (rw_ 0 0 0 0 0 1) ≠ 0
      ∧ iMinor (im_ 1 0 0 (2 ^ 28)) = 1 ∧ 2 ^ 28 ≤ iImmBits (im_ 1 0 0 (2 ^ 28)) := by
  refine ⟨?_, ?_, ?_, ?_, ?_, ?_, ?_⟩ <;> (try unfold ready) <;> (try unfold mayRun) <;> decide +kernel
theorem test_witness_LoadsAndStores :
    (let s := sI (regs [0x40])
     let c := ctxAt s key
     let w := im_ 11 3 1 8
     ready s 15 key [iRa w] [iRd w] ∧ iMinor w < 16 ∧ accLocal w = true ∧ accAddr c w % accSize w = 0
       ∧ localAddr s 15 1 (accAddr c w) (accSize w) = some (spadAddr 15 0x48)
       ∧ mayIssue s key [] [] (some (granules (spadAddr 15 0x48) (accSize w))) none = true)
      ∧ (let s := sI (regs [0x400000])
         let c := ctxAt s key
         let w := im_ 7 3 1 8
         ready s 15 key [iRa w] [iRd w] ∧ iMinor w < 16 ∧ accLocal w = false ∧ accAddr c w % accSize w = 0
           ∧ accAddr c w < neverMapped ∧ walk s (rootOf s (eightOf 15) (spaceOf key)) (accAddr c w) = (some (0x20001F, 2 ^ 21), false)
           ∧ leafAddr 0x20001F (2 ^ 21) (accAddr c w) = 0x200008 ∧ placeOf s 0x200008 = .hbm)
      ∧ (∀ m ∈ [3, 8], let s := sI (regs [if m = 3 then 0x400000 else 0x1FFFF])
         let c := ctxAt s key
         let w := im_ m 3 1 0
         ready s 15 key [iRa w] [] ∧ iRd w < 32 ∧ iMinor w = m ∧ iMinor w / 4 % 2 = 0
           ∧ mayIssue s key [rnS c (iRd w)] [] none none = true ∧ accAddr c w % accSize w = 0
           ∧ (m = 8 → localAddr s 15 1 (accAddr c w) (accSize w) = some (spadAddr 15 0x1FFFF)
               ∧ poisonIn s (spadAddr 15 0x1FFFF) 1 = false
               ∧ mayIssue s key [] [] none (some (granules (spadAddr 15 0x1FFFF) (accSize w))) = true)
           ∧ (m = 3 → accLocal w = false ∧ pteW 0x20001F = true))
      ∧ (let s := sI (regs [0x41])
         let w := im_ 9 3 1 0
         ready s 15 key [iRa w] [iRd w] ∧ accAddr (ctxAt s key) w % accSize w ≠ 0)
      ∧ (let s := sI (regs [0x20000])
         let w := im_ 8 3 1 0
         ready s 15 key [iRa w] [iRd w] ∧ accLocal w = true ∧ accAddr (ctxAt s key) w % accSize w = 0
           ∧ (windowOf s 15 1).2 < accAddr (ctxAt s key) w + accSize w)
      ∧ (let s := { sI (regs [0x44]) with poisoned := [(spadAddr 15 0x40 / 8, true)] }
         let w := im_ 10 3 1 0
         ready s 15 key [iRa w] [] ∧ accLocal w = true ∧ accSize w < 8 ∧ poisonIn s (spadAddr 15 0x44) (accSize w) = true
           ∧ localAddr s 15 1 (accAddr (ctxAt s key) w) (accSize w) = some (spadAddr 15 0x44)) := by
  refine ⟨?_, ?_, ?_, ?_, ?_, ?_⟩ <;> (try unfold ready) <;> (try unfold mayRun) <;> decide +kernel

/-- A context in a handler with a spill area at 0x400000. -/
def inTrap : Ctx := { Ctx.reset with tw := true, live := 2, spillBase := 0x400000, spillPtr := 0x400080, spillLim := 0x400100 }
theorem test_witness_ControlTransfer :
    (∀ m < 8, let w := rw_ m 1 (if m < 4 then 0 else 2) 0 0 0
     iMinor w = m ∧ (4 ≤ m ∨ iRa w = 0) ∧ ready (sI Ctx.reset) 15 key (if 4 ≤ m then [iRd w, iRa w] else [iRd w]) [])
      ∧ (let w := im_ 0 0 0 8
         iMinor w = 0 ∧ iRd w = 0 ∧ iRa w = 0 ∧ ready (sI Ctx.reset) 15 key [] [] ∧ (ctxAt (sI Ctx.reset) key).pc.toNat % 8 = 0)
      ∧ (let w := im_ 1 0 1 0
         iMinor w = 1 ∧ iRd w = 0 ∧ iImmBits w = 0 ∧ ready (sI (regs [8])) 15 key [iRa w] []
           ∧ (sGet (ctxAt (sI (regs [8])) key) (iRa w)).val.toNat % 8 = 0
           ∧ (ctxAt (sI (regs [8])) key).live < 7 ∧ (ctxAt (sI (regs [8])) key).tw = false
           ∧ ready (sI (regs [12])) 15 key [iRa w] [] ∧ (sGet (ctxAt (sI (regs [12])) key) (iRa w)).val.toNat % 8 ≠ 0
           ∧ ready (sI { regs [8] with live := 7 }) 15 key [iRa w] []
           ∧ ready (sI (regs [8])) 15 key [] [] ∧ (ctxAt (sI (regs [8])) key).pc + BitVec.ofInt 64 (8 * iImm (im_ 0 0 0 5)) = 40)
      ∧ (let s := sI { Ctx.reset with live := 2 }
         ready s 15 key [31] [] ∧ (sGet (ctxAt s key) 31).val.toNat % 8 = 0 ∧ 2 ≤ (ctxAt s key).live)
      ∧ (let s := sI { inTrap with hd := 1 }
         ready s 15 key [31] [] ∧ (ctxAt s key).tw = true ∧ (ctxAt s key).hd = 1)
      ∧ (let s := sI inTrap
         ready s 15 key [31] [] ∧ (ctxAt s key).tw = true ∧ (ctxAt s key).hd = 0)
      ∧ (let s := sI { inTrap with tw := false, live := 1 }
         ready s 15 key [31] [] ∧ (ctxAt s key).spillBase.toNat < (ctxAt s key).spillPtr.toNat)
      ∧ (let s := sI Ctx.reset
         ready s 15 key [31] [] ∧ (ctxAt s key).live < 2 ∧ (ctxAt s key).spillPtr.toNat ≤ (ctxAt s key).spillBase.toNat) := by
  refine ⟨?_, ?_, ?_, ?_, ?_, ?_, ?_, ?_⟩ <;> (try unfold ready) <;> (try unfold mayRun) <;> decide +kernel
theorem test_witness_ControlTransfer_windows :
    (let s := sI inTrap
     let c := ctxAt s key
     ready s 15 key [] [] ∧ c.tw = true ∧ 1 < c.live ∧ c.live < 7 ∧ c.spillPtr ≠ c.spillBase ∧ c.spillPtr.toNat % 128 = 0
       ∧ c.spillPtr.toNat + 128 ≤ c.spillLim.toNat ∧ c.spillPtr.toNat < neverMapped
       ∧ walk s (rootOf s (eightOf 15) (spaceOf key)) c.spillPtr.toNat = (some (0x20001F, 2 ^ 21), false)
       ∧ leafAddr 0x20001F (2 ^ 21) c.spillPtr.toNat = 0x200080 ∧ placeOf s 0x200080 = .hbm ∧ pteW 0x20001F = true
       ∧ (∀ a ∈ tableWords s (rootOf s (eightOf 15) (spaceOf key)) c.spillPtr.toNat, a + 8 ≤ 0x200080 ∨ 0x200100 ≤ a)
       ∧ walk s (rootOf s (eightOf 15) (spaceOf key)) (c.spillPtr.toNat - 128) = (some (0x20001F, 2 ^ 21), false)
       ∧ leafAddr 0x20001F (2 ^ 21) (c.spillPtr.toNat - 128) = 0x200000 ∧ placeOf s 0x200000 = .hbm)
      ∧ (let s := sI { inTrap with spillLim := 0x400080 }
         ready s 15 key [] [] ∧ 1 < (ctxAt s key).live ∧ (ctxAt s key).spillLim.toNat < (ctxAt s key).spillPtr.toNat + 128) := by
  refine ⟨?_, ?_⟩ <;> (try unfold ready) <;> (try unfold mayRun) <;> decide +kernel

/-- The stern core on its context, whose first 2 MiB are mapped. -/
def sStern : State :=
  { sRun with mem := [(0, 0x1F), (18, 0x20)], ctxs := [(ctxKey 16 0, { Ctx.reset with released := true })] }
/-- Its fetch translates whether or not the TLB misses. -/
theorem test_stern_fetch : (fetchFault sStern 16 1024).2 = none := by
  have h : sStern.free = 0 := rfl
  unfold fetchFault translate tlbLookup
  simp only [h]
  generalize Config.tlbMiss 0 = b
  revert b
  decide +kernel
/-- A running step of instance 3 on scull 15 alone. -/
def sStep (x : StepKind) : State :=
  { sI { Ctx.reset with step := some ⟨3, x, 0⟩ } with insts := [(3, { Inst.reset with running := some ⟨0, 0, 0x8000, x, 0⟩ })] }
theorem test_witness_SystemInstructions :
    (∀ n ∈ [0, 4, 8, 15], let w := im_ 0 3 0 n
     iMinor w = 0 ∧ iRa w = 0 ∧ ready (sI Ctx.reset) 15 key [] [iRd w] ∧ iImmBits w = n)
      ∧ (let c := ctxAt (sI (regs [0x1000])) key
         let w := im_ 0 0 1 8
         iMinor w = 0 ∧ iRd w = 0 ∧ ready (sI (regs [0x1000])) 15 key [iRa w] [] ∧ (sGet c (iRa w)).val.toNat % 4096 = 0
           ∧ c.spillBase = 0 ∧ c.spillLim = 0 ∧ c.spillBase.toNat < 0x1000 ∧ c.tw = false)
      ∧ (let w := im_ 0 0 1 8
         ready (sI { regs [0x1001] with tw := true }) 15 key [iRa w] [])
      ∧ mayRun (sI Ctx.reset) 15 key ∧ 5 ≤ iImmBits (im_ 0 0 0 5) ∧ 16 ≤ iImmBits (im_ 0 0 0 16)
      ∧ (let w := im_ 0 0 0 63
         iMinor w = 0 ∧ iRd w = 0 ∧ iRa w = 0 ∧ iImmBits w < 64 ∧ ready (sI Ctx.reset) 15 key [] []
           ∧ inFlight (sI Ctx.reset) key = [])
      ∧ (let s := sOn Ctx.reset { Scull.reset with qVector := [qRun 0x50 0 .vector []] }
         ready s 15 key [] [] ∧ (∃ q ∈ inFlight s key, (iImmBits (im_ 0 0 0 16)).testBit (match q.engine with | .dma => 1 | .array => 2 | .schuss => 3 | .vector => 4 | .scan => 5) = true))
      ∧ (∀ x ∈ [StepKind.step, .coast], let s := sStep x
         ready s 15 key [] [] ∧ inFlight s key = [] ∧ (ctxAt s key).step = some ⟨3, x, 0⟩
           ∧ (instAt s 3).running = some ⟨0, 0, 0x8000, x, 0⟩ ∧ (scullAt s 15).ready = [] ∧ clsOf s 3 = some .stroke
           ∧ (0x8000#16 &&& ~~~ (1#16 <<< 15)) = 0)
      ∧ rdf (put sRun [(.coxStat, 0, 0x20)]) .coxStat 0 5 4 = 2 ∧ rdf (put sRun [(.coxStat, 0, 0x10)]) .coxStat 0 5 4 = 1
      ∧ (let w := im_ 3 3 0 0
         ib w 41 0 = 0 ∧ iMinor w < 4 ∧ iRd w < 32 ∧ ready (sI Ctx.reset) 15 key [] [iRd w]
           ∧ (chAt (scullAt (sI Ctx.reset) 15) 3).state = 0 ∧ (scullAt (sI Ctx.reset) 15).qDma = [])
      ∧ (let s := sOn Ctx.reset { Scull.reset with channels := [(3, { Channel.idle with state := 1 })] }
         ready s 15 key [] [] ∧ (chAt (scullAt s 15) 3).state ≠ 0) := by
  refine ⟨?_, ?_, ?_, ?_, ?_, ?_, ?_, ?_, ?_, ?_, ?_⟩ <;> (try unfold ready) <;> (try unfold mayRun) <;> decide +kernel
theorem test_witness_SystemInstructions_traps :
    (ready sStern 16 1024 [] [] ∧ inFlight sStern 1024 = [])
      ∧ (ready (sI Ctx.reset) 15 key [] [] ∧ (ctxAt (sI Ctx.reset) key).tw = false)
      ∧ (let s := sI { inTrap with hd := 0 }
         ready s 15 key [] [] ∧ (ctxAt s key).hd = 0 ∧ (ctxAt s key).live ≠ 0 ∧ (ctxAt s key).trecH.toNat % 8 = 0
           ∧ (ctxAt s key).held = [] ∧ (ctxAt s key).scan = none ∧ scanKey s 15 = none ∧ (∀ n < 4, (chAt (scullAt s 15) n).state ≠ 2)
           ∧ (scullAt s 15).qDma = []) := by
  refine ⟨⟨⟨⟨?_, ?_, ?_, test_stern_fetch⟩, ?_⟩, ?_⟩, ?_⟩ <;> (try unfold ready) <;> (try unfold mayRun) <;> decide +kernel
theorem test_witness_SystemInstructions_parity :
    (let s := sI Ctx.reset
     runKey s 15 = some key ∧ (ctxAt s key).halt = .none ∧ (∀ j < 16, (scullAt s j).ready = []) ∧ 15 ∈ unitsOf s 1
       ∧ s.chg.active = false)
      ∧ ends (.trapEntry 15 (some (.scalar 143))) (sI Ctx.reset) (fun t => (Tab.get sDefault (ctxAt t key).win 127).poison) = true
      ∧ ends (.trapEntry 15 (some .control)) (sI Ctx.reset) (fun t => (ctxAt t key).halt == .fault 6) = true := by decide +kernel
/-- A trap that is due. -/
def due_ (n : Nat) : DueTrap := ⟨n, .exec, 0, 0, none, none, [], false, 0⟩
theorem test_witness_SystemInstructions_entry :
    (let s := sI { Ctx.reset with due := [due_ 1], tvec := 0x1000 }
     runKey s 15 = some key ∧ nextTrap (ctxAt s key) = some (due_ 1) ∧ (ctxAt s key).halt = .none ∧ entryReady s 15 = true
       ∧ (ctxAt s key).tw = false ∧ (ctxAt s key).tvec ≠ 0)
      ∧ (let s := sI { Ctx.reset with due := [due_ 5] }
         nextTrap (ctxAt s key) = some (due_ 5) ∧ (∀ j < 16, (scullAt s j).ready = []) ∧ 15 ∈ unitsOf s 1 ∧ s.run = true
           ∧ coxHalted s = false ∧ mbState s 15 = 0)
      ∧ (let s := sI { Ctx.reset with tw := true, due := [{ due_ 1 with byHandler := true }] }
         nextTrap (ctxAt s key) = some { due_ 1 with byHandler := true } ∧ (ctxAt s key).tw = true) := by decide +kernel

/-! ## Witnesses: the engines -/

/-- Scalars g1 to g8: four numbers, and the descriptor of a scan of one step. -/
def sE : State := sI (regs [0x400, 0x1000, 0x2000, 4, 2 ^ 57 + 2 ^ 55, 0x400, 0, 0])
/-- The registers' descriptor names a stream. -/
def sEs : State := sI (regs [0, 0, 0, 0, 2 ^ 57 + 2 ^ 55 + 2 ^ 43, 0x400000, 0, 0x1000])
/-- The value of scalar g`n` there. -/
def gE (n : Nat) : Nat := (sGet (ctxAt sE key) n).val.toNat
/-- Local offset `o` of the window. -/
def at15 (o : Nat) : Nat := spadAddr 15 o
/-- The range of granules of `n` bytes at `o`. -/
def ra15 (o n : Nat) : Option (Nat × Nat) := some (granules (at15 o) n)
/-- The bytes at `o` lie in the window. -/
def inWin (o n : Nat) : Bool := localAddr sE 15 1 o n == some (at15 o)

theorem test_witness_EngineIssue_array :
    (let w := BitVec.ofNat 56 (4 * 2 ^ 48 + 2 ^ 44 + 6 * 2 ^ 16 + 6 * 2 ^ 12 + 2 ^ 8)
     mmOk w = true ∧ mmLocal w = true ∧ inWin (gE 1) (mmBytes w) = true
       ∧ joinOf (mmRange w (BitVec.ofNat 64 (gE 1))) (mmExpRange w (BitVec.ofNat 64 (gE 1))) = some (gE 1, mmBytes w)
       ∧ issues sE 15 key .array [tGA w] [rnG (tGA w)] ((mmDest w).map (fun a => rnT a (tTile w))) (ra15 (gE 1) (mmBytes w)) none)
      ∧ (let w := BitVec.ofNat 56 (2 ^ 44 + 2 ^ 23 + 6 * 2 ^ 16 + 6 * 2 ^ 12 + 4 * 2 ^ 8)
         mmOk w = true ∧ mmLocal w = false ∧ (∀ n ∈ mmSource w (gE 4), n < 64) ∧ tAcc w = true
           ∧ issues sE 15 key .array [tGA w] [rnG (tGA w), rnV 4, rnT 0 0] [rnT 0 0] none none)
      ∧ (let w := BitVec.ofNat 56 (6 * 2 ^ 26 + 2 ^ 22)
         wldOk w = true ∧ wldExpRange w 0 = none ∧ inWin (gE 1) (wN w * (rowBytes (wFmt w)).getD 0) = true
           ∧ issues sE 15 key .array [wGS w] [rnG (wGS w)] [] (ra15 (gE 1) (wN w * (rowBytes (wFmt w)).getD 0)) none)
      ∧ (let w := im_ 0 0 0 15
         iMinor w = 0 ∧ iRd w = 0 ∧ iRa w = 0 ∧ iImmBits w < 16 ∧ issues sE 15 key .array [] [] [] none none)
      ∧ (let w := BitVec.ofNat 56 (2 ^ 25)
         iMinor w = 0 ∧ ib w 42 29 = 0 ∧ ib w 24 0 = 0 ∧ inWin (gE 1) 16384 = true
           ∧ issues sE 15 key .array [dGS w] [rnG (dGS w)] [rnT (dA w) (dN w)] (ra15 (gE 1) 16384) none)
      ∧ (let w := BitVec.ofNat 56 (2 ^ 35 + 2 ^ 25 + 2 * 2 ^ 21 + 3 * 2 ^ 17)
         let h := sbHull (gE 2) (gE 3)
         iMinor w = 0 ∧ ib w 12 0 = 0 ∧ dFmt w ≤ 10 ∧ dSbv w = true ∧ tstExpRange w 0 = none ∧ inWin h.1 h.2 = true
           ∧ inWin (gE 1) (fmtBytes (dFmt w) 4096) = true
           ∧ issues sE 15 key .array (tstGs w) (rnT (dA w) (dN w) :: (tstGs w).map rnG) [] (ra15 h.1 h.2)
              (ra15 (gE 1) (fmtBytes (dFmt w) 4096)))
      ∧ (let w := im_ 0 0 0 (2 ^ 32 - 1)
         iMinor w = 0 ∧ iRd w = 0 ∧ iRa w = 0 ∧ iImmBits w < 2 ^ 32
           ∧ issues sE 15 key .array [] [] ((clrTiles w).map (fun i => rnT (i / 8) (i % 8))) none none) := by
  refine ⟨?_, ?_, ?_, ?_, ?_, ?_, ?_⟩ <;> unfold issues mayRun <;> decide +kernel
theorem test_witness_EngineIssue_vector :
    (let w := rw_ 0 5 1 6 0 0x66
     schOk w = true ∧ schXExps w 0 = none ∧ schWExps w 0 = none ∧ gE (iRa w) % 64 = 0 ∧ inWin (gE 1) (schBytes w) = true
       ∧ issues sE 15 key .schuss (schGs w) ((schGs w).map (rnS (ctxAt sE key)) ++ (schSrc w).map rnV) ((schDst w).map rnV)
          (ra15 (gE 1) (schBytes w)) none)
      ∧ (let w := rw_ 27 63 2 3 0 0
         iMinor w < 32 ∧ iMinor w % 16 < 12 ∧ iRc w = 0 ∧ iFn w = 0
           ∧ issues sE 15 key .vector [] [rnV (iRa w), rnV (iRb w)] [rnV (iRd w)] none none)
      ∧ (let w := rw_ 0 63 2 3 4 0
         iMinor w = 0 ∧ iFn w = 0 ∧ issues sE 15 key .vector [] [rnV 2, rnV 3, rnV 4] [rnV 63] none none)
      ∧ (let w := rw_ 1 5 1 4 0 0
         let c := ctxAt sE key
         vldOk w = true ∧ inWin (vldBase c w) (vldLen (vldPitch c w)) = true
           ∧ issues sE 15 key .vector (vldGs w) ((vldGs w).map (rnS c)) [rnV 5] (ra15 (vldBase c w) 512) none
           ∧ vldLen (vldPitch c w) = 512)
      ∧ (let w := rw_ 0 5 1 0 0 64
         let c := ctxAt sE key
         vldOk w = true ∧ inWin (vldBase c w) (vldLen (vldPitch c w)) = true
           ∧ issues sE 15 key .vector (vldGs w) (rnV (iRd w) :: (vldGs w).map (rnS c)) [] none (ra15 (vldBase c w) 512))
      ∧ (let w := rw_ 0 5 6 1 0 (2 ^ 13)
         vcvtOk w = true ∧ cvtMax w = true ∧ cvtSrcExps w 0 = none ∧ cvtDstExps w 0 = none ∧ inWin (gE 1) 4 = true
           ∧ issues sE 15 key .vector [iRb w] ((vcvtSrcs w).map rnV ++ [rnS (ctxAt sE key) (iRb w)]) [rnV 5] none (ra15 (gE 1) 4))
      ∧ (let w := rw_ 0 5 1 2 0 4
         vamaxOk w = true ∧ inWin (gE 1) 4 = true ∧ ib w 2 2 = 1
           ∧ issues sE 15 key .vector [iRa w, iRb w] [rnS (ctxAt sE key) 1, rnS (ctxAt sE key) 2] [rnS (ctxAt sE key) 5]
              (ra15 (gE 1) 4) (ra15 (gE 1) 4))
      ∧ (let w := im_ 0 0 0 0x81
         relOk w = true ∧ issues sE 15 key .scan [] [] ((relList w).map rnC) none none
           ∧ issues sE 15 key .vector [] []
              (((relList w).map (fun g => (List.range 8).map (fun i => rnV (8 * g + i)))).flatten) none none)
      ∧ (let w := rw_ 0 5 6 0 0 0
         sfuOk w = true ∧ issues sE 15 key .vector [] [rnV (iRa w)] [rnV (iRd w)] none none) := by
  refine ⟨?_, ?_, ?_, ?_, ?_, ?_, ?_, ?_, ?_⟩ <;> unfold issues mayRun <;> decide +kernel
theorem test_witness_EngineIssue_rows :
    (let w := rw_ 0 5 1 4 2 0
     let c := ctxAt sE key
     let gs := (if statLocal w then [iRa w] else []) ++ [iRb w, iRc w]
     iMinor w = 0 ∧ ib w 23 3 = 0 ∧ statNOk w (statN c w) = true ∧ statRange w (gE 1) (statN c w) (statBitmap c w) = some (0x400, 16)
       ∧ inWin 0x400 16 = true
       ∧ issues sE 15 key .vector gs (gs.map (rnS c) ++ (statVs w (statN c w)).map rnV) [rnV 5] (ra15 0x400 16) none)
      ∧ (let w := rw_ 0 5 60 4 0 2
         let c := ctxAt sE key
         iMinor w = 0 ∧ iRc w = 0 ∧ ib w 23 3 = 0 ∧ statLocal w = false ∧ statNOk w (statN c w) = true
           ∧ statRange w (gE 60) (statN c w) (statBitmap c w) = none)
      ∧ (let w := rw_ 0 5 1 4 0 0
         let c := ctxAt sE key
         let gs := (if statLocal w then [iRa w] else []) ++ [iRb w]
         iMinor w = 0 ∧ iRc w = 0 ∧ ib w 23 2 = 0 ∧ ib w 0 0 = 0 ∧ statNOk w (statN c w) = true
           ∧ statRange w (gE 1) (statN c w) (statBitmap c w) = some (0x400, 16)
           ∧ issues sE 15 key .vector gs (gs.map (rnS c) ++ (statVs w (statN c w)).map rnV) [rnV 5] (ra15 0x400 16) none)
      ∧ (let w := rw_ 0 5 1 2 4 0
         let c := ctxAt sE key
         vexpsOk w = true ∧ 0 < gE 4 ∧ gE 4 ≤ 16384 ∧ inWin (gE 1) 16 = true ∧ inWin (gE 2) 16 = true
           ∧ issues sE 15 key .vector [iRa w, iRb w, iRc w] [rnS c 1, rnS c 2, rnS c 4] [rnV 5] (ra15 (gE 1) 16) (ra15 (gE 2) 16))
      ∧ (let w := rw_ 0 5 1 2 0 (2 ^ 19)
         iMinor w = 0 ∧ iRc w = 0 ∧ ib w 23 20 = 0 ∧ ib w 18 0 = 0
           ∧ issues sE 15 key .vector [iRa w, iRb w] [rnS (ctxAt sE key) 1, rnS (ctxAt sE key) 2] [rnV 5] none none)
      ∧ (let w := rw_ 0 7 1 0 0 7
         let c := ctxAt sE key
         scnLdOk w = true ∧ inWin (gE 1) 512 = true ∧ issues sE 15 key .scan [iRa w] [rnS c 1] [rnC 7] (ra15 (gE 1) 512) none
           ∧ issues sE 15 key .scan [iRa w] [rnS c 1, rnC 7] [] none (ra15 (gE 1) 512)
           ∧ issues sE 15 key .scan [] [rnV 1] [rnC 7] none none)
      ∧ (let w := rw_ 0 5 7 0 0 7
         iMinor w = 0 ∧ iRb w = 0 ∧ iRc w = 0 ∧ iRa w < 8 ∧ ib w 23 3 = 0 ∧ issues sE 15 key .vector [] [rnC 7] [rnV 5] none none)
      ∧ (let w := rw_ 0 5 1 0 0 127
         let c := ctxAt sE key
         mvOk w (iRa w) = true ∧ mayIssue sE key [rnS c 1] [] none none = true
           ∧ issues sE 15 key .vector [] [rnS c 1] [rnV 5] none none ∧ mvOk w (iRd w) = true
           ∧ issues sE 15 key .vector [] [rnV 1] [rnS c 5] none none) := by
  refine ⟨?_, ?_, ?_, ?_, ?_, ?_, ?_, ?_⟩ <;> (try unfold issues) <;> (try unfold mayRun) <;> decide +kernel
theorem test_witness_EngineIssue_scan :
    (let w := rw_ 0 0 5 0 0 0
     let w0 := (sGet (ctxAt sE key) 5).val
     iMinor w = 0 ∧ iRd w = 0 ∧ ib w 35 0 = 0 ∧ iRa w ≤ 12 ∧ scanOk w0 0 = true ∧ gE 6 % 64 = 0 ∧ scOmode w0 = 0
       ∧ scStream w0 = false ∧ scN w0 * scRP w0 = 512 ∧ inWin (gE 6) 512 = true ∧ scRows w0 * scOP w0 = 0
       ∧ (scullAt sE 15).qScan = [] ∧ engineFree sE 15 key .scan = true
       ∧ issues sE 15 key .scan [5, 6, 7, 8] ([5, 6, 7, 8].map rnG ++ (if scReadsP w0 then [rnC (scCP w0)] else [])) [rnC (scCN w0)]
          (ra15 (gE 6) 512) none)
      ∧ (let w0 := (sGet (ctxAt sEs key) 5).val
         scanOk w0 0x1000 = true ∧ scStream w0 = true ∧ (chAt (scullAt sEs 15) 3).state = 0 ∧ (scullAt sEs 15).qScan = []
           ∧ engineFree sEs 15 key .scan = true ∧ scStaging w0 = 98304 ∧ inWin 0x1000 98304 = true
           ∧ issues sEs 15 key .scan [5, 6, 7, 8] ([5, 6, 7, 8].map rnG ++ (if scReadsP w0 then [rnC (scCP w0)] else []))
              [rnC (scCN w0)] none (ra15 0x1000 98304))
      ∧ (let s := putScull sE 15 { scullAt sE 15 with qScan := [qRun 0x71 0 .scan []] }
         (scullAt s 15).qScan ≠ []
           ∧ issues s 15 key .scan [5, 6, 7, 8] ([5, 6, 7, 8].map rnG ++ [rnC 2]) [rnC 1] (ra15 (gE 6) 512) none) := by
  refine ⟨?_, ?_, ?_⟩ <;> unfold issues mayRun <;> decide +kernel
/-- The descriptor at 0x400000 moves 64 bytes of the window from offset 0 to 0x1000. -/
def sGo (x : Scull) : State :=
  { sI (regs [0x400000]) with
    mem := [(16, 0x1F), (18, 0x20), (0x200009, 0x10), (0x200010, 64), (0x200014, 1), (0x200016, 3)]
    sculls := [(15, { x with running := some 1, windows := [(1, (0, 0x20000))] })] }
theorem test_witness_EngineIssue_dma :
    (let s := sGo Scull.reset
     let w := rw_ 3 0 1 0 0 0
     let g := chainRanges s 15 key 0x400000
     iMinor w < 4 ∧ iRd w = 0 ∧ ib w 35 0 = 0 ∧ (sGet (ctxAt s key) (iRa w)).val = 0x400000
       ∧ issues s 15 key .dma [iRa w] [rnS (ctxAt s key) (iRa w)] [] g.1 g.2 ∧ (scullAt s 15).qDma = []
       ∧ (chAt (scullAt s 15) 3).state = 0 ∧ (scullAt s 15).preempting = false ∧ streamRuns s 15 = false)
      ∧ (let s := sGo Scull.reset
         walk s (rootOf s (eightOf 15) (spaceOf key)) 0x400000 = (some (0x20001F, 2 ^ 21), false)
           ∧ leafAddr 0x20001F (2 ^ 21) 0x400000 = 0x200000 ∧ placeOf s 0x200000 = .hbm ∧ pteW 0x20001F = true
           ∧ ptePin 0x20001F = true ∧ poisonIn s 0x200000 64 = false
           ∧ descRules 15 (parseDesc (memRead s 0x200000 64)) true 0x200000 = .ok (parseDesc (memRead s 0x200000 64)) 0x200000)
      ∧ (let s := sGo { Scull.reset with channels := [(3, { Channel.idle with state := 1 })] }
         let g := chainRanges s 15 key 0x400000
         issues s 15 key .dma [1] [rnS (ctxAt s key) 1] [] g.1 g.2 ∧ (chAt (scullAt s 15) 3).state ≠ 0) := by
  refine ⟨?_, ?_, ?_⟩ <;> (try unfold issues) <;> (try unfold mayRun) <;> decide +kernel
theorem test_witness_EngineIssue_stern : (16 : Fin 17).val = 16 ∧ mayRun sStern 16 1024 := by
  refine ⟨rfl, ?_, ?_, ?_, test_stern_fetch⟩ <;> decide +kernel

/-- An engine of scull 15 runs one instruction. -/
def sEnd (c : Ctx) (x : Scull) (q : QEntry) : State :=
  { sI c with sculls := [(15, setQueue { x with running := some 1, windows := [(1, (0, 0x20000))] } q.engine [q])] }
/-- Whether `q` ends alone there (the premises of endsAlone that can be decided). -/
def alone (s : State) (q : QEntry) : Bool :=
  (q.engine != .dma) && queueOf (scullAt s 15) q.engine == [q] && q.started && live s 15 && runKey s 15 == some key
    && (ctxAt s key).held == []
theorem test_alone (s : State) (q : QEntry) (h : alone s q = true) : endsAlone s 15 q.engine q.major q := by
  simp only [alone, Bool.and_eq_true, bne_iff_ne, ne_eq, beq_iff_eq] at h
  obtain ⟨⟨⟨⟨⟨h1, h2⟩, h3⟩, h4⟩, h5⟩, h6⟩ := h
  refine ⟨h1, h2, h3, rfl, h4, fun j hj => ?_⟩
  rw [show (15 : Fin 16).val = 15 from rfl, h5] at hj
  cases hj
  exact h6
theorem test_witness_EngineCompletion :
    (let q := qRun 0x50 (rw_ 27 1 2 3 0 0) .vector []
     let s := sEnd Ctx.reset Scull.reset q
     alone s q = true ∧ 5 ≤ iMinor q.w ∧ iMinor q.w < 28 ∧ iMinor q.w % 16 < 12 ∧ iMinor q.w ≠ 10
       ∧ ∀ i < 128, (vGet (ctxAt s key) 2 i).poison = false ∧ (vGet (ctxAt s key) 3 i).poison = false)
      ∧ (∀ m ∈ [0x52, 0x53], let q := qRun m (rw_ 0 1 1 0 0 0) .vector [0x1FE00, 4]
         let s := sEnd Ctx.reset Scull.reset q
         alone s q = true ∧ vldStrided q.w = false ∧ localAddr s 15 1 (argOf q 0) (vldLen (argOf q 1)) = some (at15 0x1FE00)
           ∧ vldLen (argOf q 1) = 512 ∧ poisonIn s (at15 0x1FE00) 512 = false)
      ∧ (∀ p ∈ [(0x56, Engine.vector), (0x73, .scan), (0x35, .array)], let q := qRun p.1 (im_ 0 0 0 0x81) p.2 []
         alone (sEnd Ctx.reset Scull.reset q) q = true)
      ∧ (∀ p ∈ [(0x80, Engine.scan), (0x81, .vector), (0x82, .vector)], let q := qRun p.1 (rw_ 0 7 7 0 0 7) p.2 [5, 1]
         alone (sEnd Ctx.reset Scull.reset q) q = true ∧ iRd q.w < 8)
      ∧ (let q := qRun 0x83 (rw_ 0 31 1 0 0 127) .vector [31]
         let s := sEnd Ctx.reset Scull.reset q
         alone s q = true ∧ argOf q 0 = rnS (ctxAt s key) 31)
      ∧ (∀ m ∈ [0x71, 0x72], let q := qRun m (rw_ 0 7 1 0 0 7) .scan [0x1FE00]
         let s := sEnd Ctx.reset Scull.reset q
         alone s q = true ∧ iRd q.w < 8 ∧ localAddr s 15 1 (argOf q 0) 512 = some (at15 0x1FE00)
           ∧ poisonIn s (at15 0x1FE00) 512 = false) := by
  refine ⟨?_, ?_, ?_, ?_, ?_, ?_⟩ <;> decide +kernel
/-- A broadcast arr.mm of one vector of eight signed bytes at local offset 0x400, on array 0. -/
def qMm : QEntry := qRun 0x30 (BitVec.ofNat 56 (4 * 2 ^ 48 + 2 ^ 44 + 6 * 2 ^ 16 + 6 * 2 ^ 12 + 2 ^ 8)) .array [0x400]
theorem test_witness_EngineCompletion_arrays :
    (let q := qRun 0x32 (im_ 0 0 0 1) .array []
     let s := sEnd Ctx.reset { Scull.reset with arrays := [(0, { ArrayState.reset with shadow := 2, loader1 := 1 })] } q
     alone s q = true ∧ (∀ a < 4, (iImmBits q.w).testBit a = true →
        (arrAt (scullAt s 15) a).shadow = 2 ∧ (arrAt (scullAt s 15) a).shadowOwner = key % 64)
       ∧ (let t := sEnd Ctx.reset Scull.reset q
          alone t q = true ∧ (iImmBits q.w).testBit 0 = true ∧ ¬ (arrAt (scullAt t 15) 0).shadow = 2))
      ∧ (let q := qRun 0x31 (BitVec.ofNat 56 (3 * 2 ^ 46 + 255 * 2 ^ 38 + 6 * 2 ^ 26 + 2 ^ 22)) .array [0x400]
         let s := sEnd Ctx.reset Scull.reset q
         alone s q = true ∧ wldOk q.w = true ∧ wN q.w * (rowBytes (wFmt q.w)).getD 0 = 128
           ∧ localAddr s 15 1 (argOf q 0) 128 = some (at15 0x400) ∧ poisonIn s (at15 0x400) 128 = false)
      ∧ (let q := qRun 0x31 (BitVec.ofNat 56 (3 * 2 ^ 46 + 255 * 2 ^ 38 + 10 * 2 ^ 26 + 2 ^ 22)) .array [0x400]
         wldOk q.w = true ∧ wFmt q.w = 10)
      ∧ (let q := { qMm with started := false }
         let s := { sEnd Ctx.reset { Scull.reset with arrays := [(0, { ArrayState.reset with activeOwner := some 1 })] } q with poisoned := [] }
         (scullAt s 15).qArray = [q] ∧ live s 15 = true ∧ stopping s 15 = false ∧ mmArrays q.w = [0] ∧ mmLocal q.w = true
           ∧ (arrAt (scullAt s 15) 0).activeOwner = some (key % 64) ∧ tM q.w * tK q.w = 8
           ∧ localAddr s 15 1 (argOf q 0 % 2 ^ 32) 8 = some (at15 0x400) ∧ poisonIn s (at15 0x400) 8 = false)
      ∧ (let q := { qMm with started := false }
         let s := sEnd Ctx.reset Scull.reset q
         (scullAt s 15).qArray = [q] ∧ stopping s 15 = false ∧ (arrAt (scullAt s 15) 0).activeOwner ≠ some (key % 64))
      ∧ (let q := qMm
         let s := sEnd Ctx.reset { Scull.reset with feed := [⟨q.seq, 1, [1, 2, 3, 4, 5, 6, 7, 255], []⟩] } q
         alone s q = true ∧ mmOk q.w = true ∧ mmMode q.w = 0 ∧ tAfmt q.w = 6 ∧ tWfmt q.w = 6
           ∧ tAcc q.w = false ∧ tVme q.w = false ∧ mmArrays q.w = [0] ∧ (feedOf (scullAt s 15) q).xs.length = tM q.w * tK q.w
           ∧ (∀ r < 256, planeBad (scullAt s 15) 0 r = false))
      ∧ (let q := qRun 0x56 0 .vector []
         let q2 := { qRun 0x50 0 .vector [] with started := false }
         let s := { sI Ctx.reset with sculls := [(15, { Scull.reset with qVector := [q, q2], running := some 1 })] }
         q.started = true ∧ q.major = 0x56 ∧ live s 15 = true ∧ queueOf (scullAt s 15) .vector = [q, q2] ∧ runKey s 15 = some key
           ∧ (ctxAt s key).held = [] ∧ nextTrap (ctxAt s key) = none ∧ (ctxAt s key).halt = .none
           ∧ (scullAt s 15).preempting = false) := by
  refine ⟨?_, ?_, ?_, ?_, ?_, ?_, ?_⟩ <;> decide +kernel

/-! ## Witnesses: scans, transfers, the scheduler, releases -/

/-- A scan on scull 15, of one step or with fields given. -/
def scan_ (w0 w1 w3 : DWord) (staged : Nat) : Scan := ⟨w0, w1, 0, w3, qRun 0x70 0 .scan [], 0, true, staged, 0⟩
def sScan (k : Scan) : State := sI { Ctx.reset with scan := some k }
theorem test_witness_ScansAndTransfers_scan :
    (let k := scan_ (2 ^ 57 + 2 ^ 55) 0x400 0 0
     let s := sScan k
     let c := ctxAt s key
     let rec_ := localBytes s 15 key (chunkAt k) (1 * scRP k.w0)
     scanKey s 15 = some key ∧ c.scan = some k ∧ scStream k.w0 = false ∧ scOmode k.w0 = 0 ∧ chunkLen k.w0 k.prog = 1
       ∧ localPoison s 15 key (chunkAt k) (1 * scRP k.w0) = none
       ∧ (∀ i < scW k.w0, (cGet c (scCN k.w0) i).poison = false ∧ (cGet c (scCP k.w0) i).poison = false)
       ∧ (∀ i < scW k.w0, isNan ((scanStates 0 (chanCoefs k.w0 rec_ 1 0 i)).getD 0 0) = false)
       ∧ (scullAt s 15).qScan = [] ∧ runKey s 15 = some key ∧ c.held = [] ∧ k.prog + 1 = scChunks k.w0 ∧ k.entry.nte = true)
      ∧ (let k := scan_ (2 ^ 57 + 2 ^ 55 + 64) 0x400 0 0
         scN k.w0 = 65 ∧ chunkLen k.w0 k.prog = 64 ∧ k.prog + 1 ≠ scChunks k.w0)
      ∧ (let k := scan_ (2 ^ 57 + 2 ^ 55 + 2 ^ 43) 0x400000 0x1000 0
         let s := sScan k
         scanKey s 15 = some key ∧ (ctxAt s key).scan = some k ∧ scStream k.w0 = true ∧ k.staged = 0
           ∧ feedNext k = some (0x400000, 8) ∧ mayBind s 15 = true ∧ feedFault s 15 key 0x400000 8 = none
           ∧ walk s (rootOf s (eightOf 15) (spaceOf key)) 0x400000 = (some (0x20001F, 2 ^ 21), false)
           ∧ leafAddr 0x20001F (2 ^ 21) 0x400000 = 0x200000 ∧ placeOf s 0x200000 = .hbm ∧ 0x400000 % 65536 + 64 * 8 ≤ 65536
           ∧ localAddr s 15 1 (0x1000 + 0 % 3 * (64 * scRP k.w0)) (64 * 8) = some (at15 0x1000)
           ∧ ∀ y ∈ tableWords s (rootOf s (eightOf 15) (spaceOf key)) 0x400000, y + 8 ≤ at15 0x1000 ∨ at15 0x1000 + 512 ≤ y) := by
  refine ⟨?_, ?_, ?_⟩ <;> decide +kernel
theorem test_witness_ScansAndTransfers_dma :
    (let raw := memRead (sGo Scull.reset) 0x200000 64
     let s := sGo { Scull.reset with channels := [(3, ⟨1, 1, 0x400000, 0, 0, none, 0, raw⟩)] }
     let d := parseDesc raw
     let c := chAt (scullAt s 15) 3
     c.state = 1 ∧ c.row = 0 ∧ c.bytes = 0 ∧ ctxKey 15 c.ctx = key ∧ d.srcLocal = true ∧ d.dstLocal = true ∧ d.chain = false
       ∧ d.rows = 1 ∧ d.len = 64 ∧ localAddr s 15 1 d.src d.len = some (at15 0) ∧ localAddr s 15 1 d.dst d.len = some (at15 0x1000)
       ∧ poisonIn s (at15 0) 64 = false ∧ c.desc.toNat = 0x400000
       ∧ walk s (rootOf s (eightOf 15) (spaceOf key)) 0x400000 = (some (0x20001F, 2 ^ 21), false) ∧ placeOf s 0x200000 = .hbm
       ∧ (∀ y ∈ tableWords s (rootOf s (eightOf 15) (spaceOf key)) 0x400000, y + 8 ≤ at15 0x1000 ∨ at15 0x1000 + 64 ≤ y)
       ∧ (scullAt s 15).qDma = [] ∧ (ctxAt s key).held = [] ∧ streamRuns s 15 = false ∧ 0 < granLeft d c.row c.bytes)
      ∧ (let raw := memRead (sGo Scull.reset) 0x200000 64
         let s := { sGo { Scull.reset with channels := [(3, ⟨1, 1, 0x400000, 0, 0, none, 0, raw⟩)] } with
           sculls := [(15, { Scull.reset with channels := [(3, ⟨1, 1, 0x400000, 0, 0, none, 0, raw⟩)] })] }
         (chAt (scullAt s 15) 3).state = 1 ∧ localAddr s 15 1 0 64 = none)
      ∧ (chAt (scullAt sRun 15) 3).state ≠ 1 ∧ hbmEnd - 8 < hbmEnd ∧ stackOf (hbmEnd - 8) = 1 ∧ hbmEnd ≤ 2 ^ 47
      ∧ (Tab.get (fun _ => ([] : List Nat)) sRun.ceTimes 0).length < 1000 ∧ hbmEnd < spadBase
      ∧ placeOf sRun (at15 (spadLen - 1)) = .spad 15 := by
  refine ⟨?_, ?_, ?_⟩ <;> decide +kernel

/-- An image with one instance of a class in context 1 on scull 15, and a second context of class STROKE. -/
def gOf (c : Class) : Image :=
  { Image.empty with models := [{ mStroke with cls := c, mask := 0x8000 }, { mStroke with inst := 4, ctx := 2, mask := 0x8000 }] }
/-- Context 1 runs instance 3 there; a step of instance 4 is ready. -/
def rdy (c : Nat) (cls : Class) (resume : Bool) : Ready := ⟨if c = 1 then 3 else 4, c, cls, .step, 0, 0, 0x100, resume, false⟩
def sSched (c : Class) (x : Scull) : State :=
  { sOn { Ctx.reset with step := some ⟨3, .step, 0⟩ } x with img := some (gOf c) }
theorem test_witness_Scheduling :
    (let s := sSched .trend { Scull.reset with ready := [rdy 2 .stroke false] }
     runningRank s 15 = some 3 ∧ bestReady s 15 = some (rdy 2 .stroke false) ∧ ctxRank s 2 = 1)
      ∧ (let s := sSched .stroke { Scull.reset with ready := [rdy 2 .stroke false] }
         runningRank s 15 = some 1)
      ∧ (let s := sSched .trend { Scull.reset with preempting := true }
         (scullAt s 15).running = some 1 ∧ (scullAt s 15).preempting = true ∧ enginesStopped s 15 = true
           ∧ (ctxAt s key).step = some ⟨3, .step, 0⟩ ∧ (∀ n < 4, (chAt (scullAt s 15) n).state = 0) ∧ (scullAt s 15).ready = [])
      ∧ enginesStopped (sSched .trend { Scull.reset with qVector := [qRun 0x50 0 .vector []] }) 15 = false
      ∧ (let s := { sSched .stroke Scull.reset with sculls := [(15, { Scull.reset with ready := [rdy 1 .stroke true] })] }
         s.run = true ∧ live s 15 = true ∧ (scullAt s 15).running = none ∧ bestReady s 15 = some (rdy 1 .stroke true)
           ∧ (ctxAt s key).saved = [] ∧ (ctxAt s key).savedCh = [] ∧ (ctxAt s key).scan = none
           ∧ 15 ∈ unitsOf s 1 ∧ (ctxAt s key).halt = .none
           ∧ (ctxAt { s with ctxs := [(key, { Ctx.reset with released := true })] } key).released = true)
      ∧ (let s := sSched .stroke Scull.reset
         (scullAt s 15).running = some 1 ∧ (ctxAt s (ctxKey 15 1)).step = some ⟨3, .step, 0⟩ ∧ (ctxAt s key).suspended = false
           ∧ clsOf s 3 = some .stroke)
      ∧ clsOf (sSched .reflex Scull.reset) 3 = some .reflex := by decide +kernel
/-- Instance 3 of a class, placed, in Run. -/
def sInst (c : Class) (x : Inst) : State :=
  { sRun with img := some (gOf c), insts := [(3, { x with placed := true, mask := 0x8000 })], now := 2000000 }
/-- An event raised at 1 ms. -/
def evt : Event := ⟨1, 9, 1000000, 1000000, [1, 2]⟩
/-- Its schedule: channel 56 feeds it, and every word must be valid. -/
def sLow (c : Class) (x : Inst) : State :=
  put { sInst c x with img := some { gOf c with
    sched := [⟨3, false, 256, 0, 0, 0, 1000000, 0, 0, 0, 0, 0, 0, []⟩], sense := [⟨56, 3, 0⟩] } }
    [(.snsVibCfg, 0, 0x80000000), (.snsVibRate, 0, 4)]
theorem test_witness_ReleasesByClass :
    (let s := sInst .reflex Inst.reset
     clsOf s 3 = some .reflex ∧ mayStep s 3 = true ∧ releaseBank s 3 = none ∧ reflexQueues s 3 = false)
      ∧ (let s := sInst .reflex { Inst.reset with running := some ⟨0, 0, 0x8000, .step, 0⟩, queued := 7 }
         mayStep s 3 = true ∧ reflexQueues s 3 = true ∧ (instAt s 3).queued < 8)
      ∧ (let s := sInst .reflex { Inst.reset with running := some ⟨0, 0, 0x8000, .step, 0⟩, queued := 8 }
         mayStep s 3 = true ∧ reflexQueues s 3 = true ∧ 8 ≤ (instAt s 3).queued ∧ (instAt s 3).overrun = false)
      ∧ (let s := sInst .guard { Inst.reset with pending := [evt] }
         (instAt s 3).pending = evt :: [] ∧ clsOf s 3 = some .guard ∧ mayStep s 3 = true ∧ (instAt s 3).running = none
           ∧ oldestEvent s 3 evt = true ∧ (modelOf s 3).isSome = true ∧ fewValid s 3 (validIn s 3 [evt.block]) = false)
      ∧ (let s := sLow .guard { Inst.reset with pending := [evt] }
         mayStep s 3 = true ∧ oldestEvent s 3 evt = true ∧ (modelOf s 3).isSome = true ∧ fewValid s 3 (validIn s 3 [evt.block]) = true
           ∧ evt.caught + limitOf s 3 ≤ s.now)
      ∧ (let s := sLow .guard { Inst.reset with running := some ⟨9, 1500000, 0x8000, .step, 1000000⟩ }
         ∃ r, (instAt s 3).running = some r ∧ r.event + limitOf s 3 ≤ s.now) := by
  refine ⟨?_, ?_, ?_, ?_, ?_, ⟨_, rfl, ?_⟩⟩ <;> decide +kernel
theorem test_witness_ReleasesByClass_trend :
    (let s := sInst .trend { Inst.reset with framesDue := 1 }
     clsOf s 3 = some .trend ∧ 0 < (instAt s 3).framesDue ∧ mayStep s 3 = true ∧ (instAt s 3).running = none
       ∧ fewValid s 3 (validIn s 3 (frameBlocks s 3)) = false)
      ∧ (let s := sLow .trend { Inst.reset with framesDue := 1, given := false, block := [1] }
         mayStep s 3 = true ∧ fewValid s 3 (validIn s 3 (frameBlocks s 3)) = true)
      ∧ (instAt (sInst .trend Inst.reset) 3).framesDue = 0
      ∧ (let s := sInst .trend { Inst.reset with framesDue := 1, running := some ⟨0, 0, 0x8000, .step, 0⟩ }
         mayStep s 3 = true ∧ (instAt s 3).running ≠ none ∧ (0 : Nat) + limitOf s 3 ≤ s.now)
      ∧ (let s := sLow .trend { Inst.reset with running := some ⟨0, 1500000, 0x8000, .step, 0⟩ }
         s.now < 1500000 + limitOf s 3) := by decide +kernel
/-- R453: poison in the fixed part of a save area is a context fault when the context is restored. -/
theorem test_restore_poison :
    (match exec (.contextResume ⟨15, true⟩) { sSched .stroke Scull.reset with
        sculls := [(15, { Scull.reset with ready := [rdy 1 .stroke true] })], ctxs := [(key, { Ctx.reset with released := true })] } with
     | .next t => (ctxAt t key).halt == .fault tPoison && (scullAt t 15).running == none
     | _ => false) = true := by decide +kernel

/-! ## Witnesses: the reflex banks -/

/-- A layer of a bank for instance 3 whose one weight is that of row 0: its source, its place in a tight chain, its stop row. -/
def lay (bank order src stopRow : Nat) : Layer :=
  ⟨bank, 3, order, src, 0, stopRow, 0, 0, 0, [127], [], [0], 0, 64⟩
/-- Banks of an image with layers, in Run: bank `b` in state `st`. -/
def sBank (ls : List Layer) (b st : Nat) (x : Bank) : State :=
  put { sRun with
    img := some { gOf .reflex with layers := ls }, banks := [(b, x)]
    insts := [(3, { Inst.reset with placed := true, mask := 0x8000, inBase := 0x100000, outBase := 0x110000 })] }
    [(.rfxBankStat, b, BitVec.ofNat 32 (st * 2 ^ 29)), (.rfxCfg, 0, 0x0A000010)]
/-- A job of bank 0. -/
def job (fallback : Bool) (outs : List Int) : Job := ⟨List.replicate 32 0, outs, fallback, false, 0, 0⟩
theorem test_witness_ReflexPasses :
    (let s := sBank [lay 0 0 0 32] 0 1 Bank.reset
     layerOfBank s 0 = some (lay 0 0 0 32) ∧ s.run = true ∧ tightAfter s (lay 0 0 0 32) = none
       ∧ (∀ j ∈ (bankAt s 0).jobs, j.fallback = false) ∧ bankState s 0 = 1 ∧ (bankAt s 0).swap = none
       ∧ orphanOf (bankAt s 0) = none ∧ (bankAt s 0).heat = none)
      ∧ (let s := sBank [lay 0 0 0 31] 0 1 Bank.reset
         layerOfBank s 0 = some (lay 0 0 0 31) ∧ tightAfter s (lay 0 0 0 31) = none
           ∧ (lay 0 0 0 31).stopThr ≤ nearSpec (lay 0 0 0 31) ((lay 0 0 0 31).chans.map (fun c => (sampleCode s (lay 0 0 0 31) c).1)) [] 31)
      ∧ (let s := sBank [lay 0 0 0 32] 0 2 Bank.reset
         bankState s 0 = 2 ∧ onBank s (lay 0 0 0 32) = false)
      ∧ bankState (sBank [lay 0 0 0 32] 0 0 Bank.reset) 0 = 0 ∧ layerOfBank sRun 0 = none
      ∧ (∃ j ∈ (bankAt (sBank [] 0 1 { Bank.reset with jobs := [job true []] }) 0).jobs, j.fallback = true)
      ∧ (let s := sBank [lay 0 0 1 32] 0 2 { Bank.reset with goWaiting := true }
         layerOfBank s 0 = some (lay 0 0 1 32) ∧ (lay 0 0 1 32).src = 1 ∧ bankState s 0 = 2 ∧ (bankAt s 0).goWaiting = true)
      ∧ (let s := put { sBank [lay 0 0 0 32, lay 1 1 2 32] 0 1 { Bank.reset with fresh := true } with run := true }
          [(.rfxBankStat, 1, 0x40000000)]
         layerOfBank s 1 = some (lay 1 1 2 32) ∧ tightBefore s (lay 1 1 2 32) = some (lay 0 0 0 32) ∧ bankState s 1 = 2
           ∧ (bankAt s 0).fresh = true)
      ∧ (bankAt (sBank [lay 0 0 0 32, lay 1 1 2 32] 0 1 Bank.reset) 0).fresh = false
      ∧ (let s := put (sBank [lay 0 0 0 32, lay 1 1 2 32] 0 1 Bank.reset) [(.rfxBankStat, 1, 0x20000000)]
         tightAfter s (lay 0 0 0 32) = some (lay 1 1 2 32) ∧ onBank s (lay 0 0 0 32) = true) := by
  refine ⟨?_, ?_, ?_, ?_, ?_, ⟨job true [], ?_, rfl⟩, ?_, ?_, ?_, ?_⟩ <;> decide +kernel
theorem test_witness_ReflexPasses_jobs :
    (let j := job false (List.replicate 32 0)
     let s := put (sBank [lay 0 0 0 32] 0 1 { Bank.reset with jobs := [j] }) [(.rfxBankCfg, 0, 0x0F0F0000)]
     (bankAt s 0).jobs = j :: [] ∧ (servingOf s 0).isSome = true ∧ j.outputs.length = 32
       ∧ missSpec (lay 0 0 0 32) j.inputs (fun r => j.outputs.getD r 0) = false ∧ (bankAt s 0).history = [])
      ∧ (let j := job false (List.replicate 32 100)
         let s := sBank [lay 0 0 0 32] 0 1 { Bank.reset with jobs := [j], history := [true, true] }
         missSpec (lay 0 0 0 32) j.inputs (fun r => j.outputs.getD r 0) = true ∧ 3 ≤ ([true, true] ++ [true]).countP (· == true)
           ∧ bankState s 0 = 1 ∧ (bankAt s 0).heat = none)
      ∧ (bankAt (sBank [lay 0 0 0 32] 0 1 Bank.reset) 0).jobs = []
      ∧ (let p := probeCodes 32 0xACE1
         missSpec (lay 0 0 0 32) p.1 (nearSpec (lay 0 0 0 32) p.1 []) = false
           ∧ missSpec (lay 0 0 0 32) p.1 (nearSpec (lay 0 0 0 32) p.1 [9]) = true)
      ∧ (let s := sBank [lay 0 0 0 32] 0 3 Bank.reset
         bankState s 0 = 3 ∧ (bankAt s 0).probes + 1 < 64 ∧ rdf s .rfxBankStat 0 19 18 = 0 ∧ (bankAt s 0).heat = none)
      ∧ 64 ≤ (bankAt (sBank [] 0 3 { Bank.reset with probes := 63 }) 0).probes + 1
      ∧ rdf (put (sBank [] 0 3 Bank.reset) [(.rfxBankStat, 0, 0x60080000)]) .rfxBankStat 0 19 18 = 2 := by
  refine ⟨?_, ?_, ?_, ?_, ?_, ?_, ?_⟩ <;> decide +kernel

/-- Bank 0 with its 34 lanes: 32 in service with inputs 0 to 31, two spare. -/
def lanes34 (f : Nat → Lane → Lane) : Table Nat Lane :=
  (List.range 34).map (fun i => (i, f i ⟨if i < 32 then 0 else 1, if i < 32 then i else 32, some (1000 + i), 0, 0x4000⟩))
def sLanes (st : Nat) (x : Bank) (f : Nat → Lane → Lane) : State :=
  { sBank [lay 0 0 0 32] 0 st { x with lanes := lanes34 f } with now := 20000000000, lightX := true }
/-- A recovery with nothing left to do. -/
def sQuiet (s : State) : State := { s with timerOn := true, phase := .recovery, recovery := [] }
theorem test_witness_BankConditions :
    bankState (sBank [] 0 1 Bank.reset) 0 = 1 ∧ 3 ∉ Bank.reset.causes
      ∧ 3 ∈ (bankAt (sBank [] 0 2 { Bank.reset with causes := [3] }) 0).causes
      ∧ (let s := sLanes 1 Bank.reset (fun _ l => l)
         let y := laneAt (bankAt s 0) 0
         y.st = 0 ∧ y.heatedAt = some 1000 ∧ ¬ s.now < 1000 + 10000000000 ∧ bankState s 0 = 1 ∧ (bankAt s 0).heat = none
           ∧ (bankAt s 0).swap = none ∧ freeSpares (bankAt s 0) = [32, 33] ∧ y.input < 32
           ∧ (∀ m < 34, m ≠ 0 → (laneAt (bankAt s 0) m).st = 3 → 32 ≤ (laneAt (bankAt s 0) m).input)
           ∧ (∀ m < 34, m ≠ 0 → (laneAt (bankAt s 0) m).st = 0 → (laneAt (bankAt s 0) m).input ≠ y.input)
           ∧ (laneAt (bankAt s 0) 32).st ≠ 0 ∧ 32 ≤ (workingLanes (bankAt s 0)).length)
      ∧ (let s := sLanes 1 Bank.reset (fun _ l => { l with heatedAt := some 15000000000 })
         s.now < 15000000000 + 10000000000 ∧ (laneAt (bankAt s 0) 0).heatedAt = some 15000000000)
      ∧ (laneAt (bankAt (sLanes 1 Bank.reset (fun i l => if i = 0 then { l with st := 3 } else l)) 0) 0).st = 3
      ∧ (let s := sLanes 1 { Bank.reset with swap := some (0, 32) } (fun i l => if i = 0 then { l with st := 3 } else l)
         (bankAt s 0).swap = some (0, 32) ∧ (∀ m < 34, m ≠ 0 → (laneAt (bankAt s 0) m).st = 3 → 32 ≤ (laneAt (bankAt s 0) m).input))
      ∧ (let s := sBank [] 0 4 Bank.reset
         bankState s 0 = 4 ∧ (∀ m < 4, m ∈ s.chg.retuning → bankState s m ≠ 3))
      ∧ bankState sRun 0 ≠ 4 := by
  refine ⟨?_, ?_, ?_, ?_, ?_, ?_, ?_, ?_, ?_⟩ <;> decide +kernel
theorem test_witness_BankConditions_heats :
    (let s := sQuiet (sLanes 1 Bank.reset (fun _ l => l))
     s.recovery = [] ∧ s.phase = .recovery ∧ ticking s = true
       ∧ (∀ m < 34, m ≠ 0 → heatRank (laneAt (bankAt s 0) 0) < heatRank (laneAt (bankAt s 0) m))
       ∧ (bankAt s 0).heat = none ∧ (bankAt s 0).swap = none ∧ s.lightX = true ∧ bankState s 0 = 1
       ∧ freeSpares (bankAt s 0) = [32, 33] ∧ (laneAt (bankAt s 0) 0).st = 0)
      ∧ (let s := sQuiet (sLanes 1 Bank.reset (fun i l => if i < 32 then l else { l with st := 3 }))
         freeSpares (bankAt s 0) = [] ∧ (∀ m < 34, m ≠ 0 → heatRank (laneAt (bankAt s 0) 0) < heatRank (laneAt (bankAt s 0) m)))
      ∧ (let s := sQuiet (sLanes 2 Bank.reset (fun i l => if i = 33 then { l with heatedAt := none } else l))
         bankState s 0 = 2 ∧ (laneAt (bankAt s 0) 33).st = 1
           ∧ (∀ m < 34, m ≠ 33 → heatRank (laneAt (bankAt s 0) 33) < heatRank (laneAt (bankAt s 0) m)))
      ∧ (bankAt sRun 0).heat = none
      ∧ (∀ n ∈ [2, 4, 5], let h : Heat := ⟨0, some 32, n, 31, List.replicate 31 0, 0⟩
         let s := sLanes 1 { Bank.reset with heat := some h } (fun _ l => l)
         (bankAt s 0).heat = some h ∧ h.lane < 34 ∧ h.trims.length = 31 ∧ rdf s .rfxCfg 0 31 24 = 10)
      ∧ (let s := sLanes 2 { Bank.reset with heatedSince := List.range 33, heat := some ⟨33, none, 5, 31, List.replicate 31 0, 1⟩ } (fun _ l => l)
         bankState s 0 = 2 ∧ (bankAt s 0).causes = [] ∧ rdf s .rfxBankStat 0 19 18 < 3
           ∧ (∀ m < 34, m ≠ 33 → (laneAt (bankAt s 0) m).st ≠ 3 → m ∈ (bankAt s 0).heatedSince))
      ∧ (let s := sLanes 2 Bank.reset (fun _ l => l)
         ∃ m < 34, m ≠ 0 ∧ (laneAt (bankAt s 0) m).st ≠ 3 ∧ m ∉ (bankAt s 0).heatedSince)
      ∧ (let s := sLanes 1 { Bank.reset with heat := some ⟨0, some 32, 5, 31, List.replicate 31 0, 0⟩ } (fun _ l => { l with heatedAt := some 15000000000 })
         s.now < 15000000000 + 10000000000 ∧ ∀ m < 34, (laneAt (bankAt s 0) m).heatedAt = some 15000000000)
      ∧ (-2048 : Int).natAbs ≤ 2048 ∧ 2048 < (-2049 : Int).natAbs := by
  refine ⟨?_, ?_, ?_, ?_, ?_, ?_, ⟨1, ?_⟩, ?_, ?_⟩ <;> decide +kernel
/-- Wax codes of bank 0: those of lane 0 in row 0, the others 0. -/
def wax (v : Nat) : Wax := ⟨0, List.replicate 16 v, List.replicate 256 0⟩
/-- Bank 0 in service with its wax codes. -/
def sWax (v : Nat) : State :=
  let s := sLanes 1 Bank.reset (fun _ l => l)
  { s with img := s.img.map (fun g => { g with waxes := [wax v] }) }
/-- H of lane `l` in row 0 before its clamp, at 0 °C. -/
def sumOf (s : State) (v l : Nat) : Int :=
  waxAt (wax v) l 0 (rowTemp [0, 0, 0, 0] (roundEven 0 (2 ^ 20)) 0) + signed 16 (rdf s .rfxTrim (l * 32) 15 0)
    + roundEven (((laneAt (bankAt s 0) l).gain : Int)
        * (wax v).curve.getD (ringCode (lay 0 0 0 32) (laneAt (bankAt s 0) l) 0 + 128).toNat 0) 16384
theorem test_witness_BankConditions_heaters :
    (∀ v ∈ [0, 16383], let s := sWax v
     layerOfBank s 0 = some (lay 0 0 0 32) ∧ (image s).waxes.find? (fun w => w.bank == 0) = some (wax v) ∧ bankState s 0 ≠ 0
       ∧ ∀ l < 34, (laneAt (bankAt s 0) l).st = 0 → 0 ≤ sumOf s v l ∧ sumOf s v l ≤ 16383)
      ∧ (∀ p ∈ [(([0, 0, 0, 0] : List Int), 0), ([0, 161, 0, 0], 1), ([161, 0, 0, -161], 2)],
          p.1.countP (fun t => decide (160 < (t - medianOf p.1).natAbs)) = p.2)
      ∧ sumOf (sWax 16383) 16383 0 = 16383
      ∧ (let s := put (sWax 16383) [(.rfxTrim, 0, 1)]
         16383 < sumOf s 16383 0 ∧ (laneAt (bankAt s 0) 0).st = 0)
      ∧ sumOf (put (sWax 0) [(.rfxTrim, 0, 0xFFFF)]) 0 0 < 0 := by
  refine ⟨?_, ?_, ?_, ?_, ?_⟩ <;> decide +kernel
theorem test_witness_ReleasesByClass_bank :
    ∀ n ∈ [0, 1], let s := sBank [lay 0 0 0 32] 0 1 { Bank.reset with toRelease := n }
      releaseBank s 3 = some 0 ∧ (bankAt s 0).toRelease = n := by decide +kernel

/-! ## Witnesses: the regatta, changeover, re-admission -/

/-- Member 0 of the ring 0, 1, 2, its port A in state `st` with the lanes 0 to 7. -/
def sPort (st : Nat) (x : Port) : State :=
  put { sRun with ports := [(0, x)], strokeNo := 10, timerOn := true, now := 1000 }
    [(.oplCfg, 0, 0x80070000), (.oplStat, 0, 0x00070000), (.oplPStat, 0, BitVec.ofNat 32 (st * 2 ^ 29 + 8 * 2 ^ 25 + 8 * 2 ^ 21 + 0x100)),
     (.oplPTxmap, 0, 0x76543210), (.oplPRxmap, 0, 0x76543210)]
/-- A LANE message that names lane `l`. -/
def laneMsg (l : Nat) : Message := sealMessage (bytesOf 1 3 ++ bytesOf 3 1 ++ bytesOf 4 (2 ^ l))
/-- A HELLO of member 1 with the configuration of `s`. -/
def helloMsg (s : State) (members : Nat) : Message :=
  sealMessage (bytesOf 1 1 ++ bytesOf 1 1 ++ bytesOf 2 members ++ bytesOf 4 (periodNs s) ++ bytesOf 8 0
    ++ bytesOf 4 (rd s .oplRid 0).toNat ++ bytesOf 4 (rd s .oplRid 1).toNat)
/-- A STROKE message of member 1 that answers the one sent at 500 ns. -/
def strokeMsg (echo : Nat) : Message :=
  sealMessage (bytesOf 1 2 ++ bytesOf 1 1 ++ bytesOf 2 3 ++ bytesOf 4 600 ++ bytesOf 4 echo ++ bytesOf 4 800 ++ bytesOf 8 10 ++ bytesOf 4 4)
theorem test_witness_RegattaPortsAndMessages :
    (let s := sPort 3 Port.reset
     portState s 0 ≠ 0 ∧ laneFailed s false 0 7 = false ∧ rxLanes s 0 = List.range 8 ∧ spareLanes s false 0 = [8, 9]
       ∧ spareLanes s true 0 = [8, 9] ∧ txLanes s 0 = List.range 8 ∧ (portAt s 0).heat = none)
      ∧ (let s := put (sPort 3 Port.reset) [(.oplPLane, 0, 0x03000300)]
         spareLanes s false 0 = [] ∧ spareLanes s true 0 = [] ∧ laneFailed s false 0 9 = true)
      ∧ portState sRun 0 = 0
      ∧ (∀ l < 10, messageOk (laneMsg l) 3 = true ∧ field (laneMsg l) 4 4 = 2 ^ l) ∧ messageOk [] 3 = false
      ∧ portState (sPort 2 Port.reset) 0 = 2
      ∧ (let s := sPort 3 Port.reset
         s.timerOn = true ∧ s.refLost = false ∧ 1000 ≤ strokeNs s ∧ strokeNs { s with now := 999 } < 1000)
      ∧ (let s := sPort 3 { Port.reset with txNs := 500 }
         messageOk (strokeMsg 500) 2 = true ∧ portState s 0 = 3 ∧ field (strokeMsg 500) 8 4 = (portAt s 0).txNs ∧ (portAt s 0).txNs ≠ 0
           ∧ rdf s .oplStat 0 26 24 = selfId s)
      ∧ (let s := put (sPort 3 { Port.reset with txNs := 500 }) [(.oplStat, 0, 0x01070000)]
         rdf s .oplStat 0 26 24 ≠ selfId s ∧ rdf s .oplStat 0 26 24 = neighbour s 0 ∧ (aliveMask s).testBit 1 = true)
      ∧ field (strokeMsg 499) 8 4 ≠ 500 := by
  refine ⟨?_, ?_, ?_, ?_, ?_, ?_, ?_, ?_, ?_, ?_⟩ <;> decide +kernel
theorem test_witness_RegattaPortsAndMessages_ports :
    (let s := sPort 2 Port.reset
     let m := helloMsg s 7
     messageOk m 1 = true ∧ field m 0x10 4 = (rd s .oplRid 0).toNat ∧ field m 0x14 4 = (rd s .oplRid 1).toNat
       ∧ field m 2 1 = membersMask s ∧ field m 4 4 = periodNs s ∧ field m 1 1 = neighbour s 0 ∧ portState s 1 ≠ 3
       ∧ field (helloMsg s 3) 2 1 ≠ membersMask s ∧ messageOk (helloMsg s 3) 1 = true)
      ∧ (let s := { sPort 3 Port.reset with misses := [(1, 3)] }
         oplOn s = true ∧ 1 ≠ selfId s ∧ (aliveMask s).testBit 1 = true ∧ 3 ≤ Tab.get zeroDefault s.misses 1)
      ∧ (let b : Bundle := ⟨1, 0, [], 1, 8⟩
         let s := { sPort 3 { Port.reset with unacked := [b] } with phase := .recovery }
         s.phase = .recovery ∧ portState s 0 = 3 ∧ (portAt s 0).unacked = b :: [] ∧ b.sentAt + 2 ≤ strokeNat s ∧ (portAt s 0).started < 4)
      ∧ (∀ n ∈ [2, 3, 4], (portAt (sPort 3 { Port.reset with heat := some ⟨9, none, n, 0, [], 1⟩ }) 0).heat = some ⟨9, none, n, 0, [], 1⟩)
      ∧ excluded (sPort 3 Port.reset) 0 9 = false
      ∧ (let s := { sPort 3 Port.reset with strokeNo := 7 }
         portState s 0 = 3 ∧ ¬ (portAt s 0).lastHeard + 8 ≤ strokeNat s ∧ ¬ (txLanes s 0).length < 4 ∧ ¬ (rxLanes s 0).length < 4
           ∧ (portAt s 0).unacked = [])
      ∧ (let s := { sPort 3 Port.reset with strokeNo := 8 }
         (portAt s 0).lastHeard + 8 ≤ strokeNat s)
      ∧ (let s := { sPort 4 Port.reset with now := 100000000 }
         portState s 0 = 4 ∧ (portAt s 0).downAt + 100000000 ≤ s.now)
      ∧ portState (sPort 1 Port.reset) 0 = 1
      ∧ (let s := { sPort 3 Port.reset with slipRun := 16 }
         oplOn s = true ∧ inSlip s = false ∧ 16 ≤ s.slipRun)
      ∧ (let s := put { sPort 3 Port.reset with okRun := 64 } [(.oplStat, 0, 0x20070000)]
         inSlip s = true ∧ 64 ≤ s.okRun) := by
  refine ⟨?_, ?_, ?_, ?_, ?_, ?_, ?_, ?_, ?_, ?_, ?_⟩ <;> decide +kernel
/-- A bundle of 4,096 bytes for channel 63. -/
def bundle_ (dst part : Nat) (data : List Byte) : List Byte := bundleBytes 63 1 dst 1 ⟨0, 0, 0, 0, part, slice data 0 4096⟩
/-- A mirror of the 64 bytes of slot 0: contents, then header. -/
def mirror_ : List Byte := bytesOf 64 0 ++ bytesOf 8 5 ++ bytesOf 8 2 ++ bytesOf 4 64 ++ bytesOf 4 (crc32 (bytesOf 64 0)).toNat
/-- Channels 62 (of data) and 63 (a mirror) into this member, whose instance 3 has one slot. -/
def sBundle : State :=
  { sPort 3 Port.reset with
    img := some { Image.empty with models := [mSlot], chans := [⟨62, 0, 1, 0, 3, 3, 0, 64, 4096, 0, 0⟩, { mirrorChan with src := 1, dst := 0 }] } }
theorem test_witness_RegattaPortsAndMessages_bundles :
    bundleData (bundle_ 0 0 mirror_) = some (slice mirror_ 0 4096)
      ∧ (let b := bundle_ 0 0 mirror_
         field b 4 4 = ((portAt sBundle 0).rxSeq + 1) % 2 ^ 32 ∧ field b 2 1 = selfId sBundle
           ∧ field b 0 1 = 63 ∧ field b 0x20 1 = 0 ∧ field b 0x1C 4 = 0)
      ∧ bundleData [] = none
      ∧ (let d := slice mirror_ 0 4096
         channelOf sBundle 63 = some { mirrorChan with src := 1, dst := 0 } ∧ mirrorEnd sBundle { mirrorChan with src := 1, dst := 0 } = some (3, 1)
           ∧ (modelOf sBundle 3).bind (fun m => m.slots[0]?) = some ⟨0x10000, 64, 1, false⟩ ∧ 64 + 64 ≤ d.length
           ∧ field (slice d 64 64) 16 4 = 64 ∧ field (slice d 64 64) 20 4 = (crc32 (d.take 64)).toNat)
      ∧ (channelOf sBundle 62 = some ⟨62, 0, 1, 0, 3, 3, 0, 64, 4096, 0, 0⟩) ∧ portState sBundle 1 ≠ 3
      ∧ portState (put sBundle [(.oplPStat, 1, 0x60000000)]) 1 = 3 ∧ field (bundle_ 2 0 []) 2 1 ≠ selfId sBundle := by
  refine ⟨bundleData_bundleBytes _ _ _ _ 1 _ (by decide) (by decide) (length_slice _ _ _), ?_, ?_, ?_, ?_, ?_, ?_, ?_⟩ <;> decide +kernel

/-- A changeover in Run, in phase `p`. -/
def sChg (p : Nat) (c : Changeover) : State :=
  put { sRun with img := some Image.empty, chg := { c with active := true, slot := 1 } }
    [(.chgCfg, 0, 1), (.chgStat, 0, BitVec.ofNat 32 (p * 2 ^ 29))]
/-- A target with no instances, and one whose axis map differs. -/
def gNext : Image := { Image.empty with slot := 1, buildId := 7 }
def gOther : Image := { gNext with chans := [mirrorChan] }
/-- A staged changeover at its first switch edge, with one group. -/
def sStaged (grp : Group) : State :=
  { sChg 4 { Changeover.idle with target := some gNext, old := some Image.empty, staged := true, groups := [grp] } with
    phase := .catch_, strokeNo := 20, timerOn := true }
theorem test_witness_ChangeoverAndReadmission :
    (let s := put sRun [(.chgCfg, 0, 1)]
     s.run = true ∧ rdb s .chgCfg 0 0 = true ∧ s.chg.active = false ∧ coxHalted s = false) ∧ rdb sRun .chgCfg 0 0 = false
      ∧ (let s := sChg 1 Changeover.idle
         coxHalted s = false ∧ s.chg.active = true ∧ s.long = none ∧ chgPhase s = 1 ∧ s.chg.slot < 2)
      ∧ (let s := sChg 2 { Changeover.idle with target := some gNext }
         chgPhase s = 2 ∧ s.chg.target = some gNext ∧ crossRefusal s gNext = none ∧ s.chg.checkOnly = false)
      ∧ (sChg 2 { Changeover.idle with target := some gNext, checkOnly := true }).chg.checkOnly = true
      ∧ (let s := sChg 2 { Changeover.idle with target := some gOther }
         crossRefusal s gOther = some cChgFixed)
      ∧ (let s := { sChg 3 { Changeover.idle with target := some gNext } with phase := .drive }
         s.chg.active = true ∧ chgPhase s = 3 ∧ s.chg.target = some gNext ∧ s.phase ≠ .recovery)
      ∧ (let grp : Group := ⟨[3], 20, true, false⟩
         let s := sStaged grp
         s.chg.active = true ∧ s.chg.staged = true ∧ s.chg.paused = false ∧ s.chg.rollbackAt = none ∧ s.phase = .catch_
           ∧ (∀ i ∈ grp.insts, (instAt s i).closing = none) ∧ s.chg.target = some gNext ∧ s.chg.old = some Image.empty ∧ s.chg.groups[(0 : Fin 256).val]? = some grp
           ∧ grp.switched = false ∧ grp.edge ≤ strokeNat s ∧ grp.prepared = true ∧ grp.insts.Nodup)
      ∧ (let grp : Group := ⟨[3], 20, false, false⟩
         groupIdle { sStaged grp with insts := [(3, { Inst.reset with queued := 1 })] } grp = false ∧ grp.edge ≤ strokeNat (sStaged grp)
           ∧ groupIdle (sStaged grp) grp = true)
      ∧ (let grp : Group := ⟨[3], 20, false, false⟩
         let s := { sStaged grp with img := some (gOf .reflex), phase := .drive }
         reflexGroup s grp = true ∧ reflexGroup (sStaged grp) grp = false)
      ∧ (match verifyTarget (sChg 1 Changeover.idle) with
         | .inl f => decide (f.code < 65536) && f.code != cChgCox
         | .inr _ => false) = true := by
  refine ⟨?_, ?_, ?_, ?_, ?_, ?_, ?_, ?_, ?_, ?_, ?_⟩ <;> decide +kernel
theorem test_witness_ChangeoverAndReadmission_ends :
    (let s := sStaged ⟨[3], 20, true, true⟩
     s.chg.target = some gNext ∧ s.chg.active = true ∧ s.chg.staged = true ∧ s.chg.rollbackAt = none ∧ allSwitched s = true
       ∧ retuneDone s = true ∧ coxHalted s = false)
      ∧ (let s := { sStaged ⟨[3], 20, true, true⟩ with now := 1 }
         s.chg.active = true ∧ s.chg.paused = false ∧ s.chg.rollbackAt = none ∧ s.chg.since + s.chg.bound + s.chg.pausedNs < s.now
           ∧ s.chg.staged = true)
      ∧ (let s := { sChg 3 Changeover.idle with now := 1 }
         s.chg.active = true ∧ s.chg.since + s.chg.bound + s.chg.pausedNs < s.now ∧ s.chg.staged = false)
      ∧ (let grp : Group := ⟨[3], 18, true, true⟩
         let s := { sStaged grp with chg := { (sStaged grp).chg with rollbackAt := some 20, cause := cChgTimeout } }
         s.chg.rollbackAt = some 20 ∧ s.chg.old = some Image.empty ∧ s.chg.target = some gNext ∧ s.phase = .catch_ ∧ 20 ≤ strokeNat s
           ∧ s.chg.groups = [grp] ∧ grp.prepared = true ∧ grp.switched = true ∧ grp.insts.Nodup
           ∧ ∀ i ∈ grp.insts, (instAt s i).running = none)
      ∧ (let s := sStaged ⟨[3], 22, false, false⟩
         ∀ grp ∈ s.chg.groups, grp.prepared = false ∧ grp.switched = false)
      ∧ (let s := { sInst .stroke { Inst.reset with placed := true } with readmit := some ⟨0x8000, 0, none⟩ }
         s.readmit = some ⟨0x8000, 0, none⟩ ∧ s.run = true ∧ coxHalted s = false ∧ 3 ∈ instances s ∧ (instAt s 3).placed = true
           ∧ (instAt s 3).mask &&& 0x8000 ≠ 0 ∧ (instAt s 0).closing = none)
      ∧ sRun.readmit = none := by
  refine ⟨?_, ?_, ?_, ?_, ?_, ?_, ?_⟩ <;> decide +kernel

/-! ## Single steps with results worked out in the spec or by hand from its rules -/

/-- 11_functions_norms_softmax.md, the worked case of EXP2: 5/1024 gives 1 + 28,439 units. -/
theorem test_exp2_worked : (fnExp2 false 0x3BA00000).bits = 0x3F800000 + 28439 := by decide +kernel
/-- The same file, R344: the excerpt of RCP, segment 0. -/
theorem test_table_rcp : tabCoef 2 0 = (0x3F800000, 0xBC7FF7C0, 0x397A0000) := by decide +kernel
/-- 10_number_formats.md, the worked case of a B16 group: 393,270 × 2^−15. -/
theorem test_group_worked :
    groupSum 16 0 [(f32 0x41400000, f32 0x3F800000), (f32 0x3FE00000, f32 0x3A800000), (f32 0xB8800000, f32 0x3F800000),
      (f32 0x3FC00000, f32 0x37000000)] = ⟨0x4140_06C0, 0, false, 0⟩ := by decide +kernel
/-- The check value of CRC-32 of IEEE 802.3 (R117): the nine digits. -/
theorem test_crc : crc32 ([0x31, 0x32, 0x33, 0x34, 0x35, 0x36, 0x37, 0x38, 0x39] : List Byte) = 0xCBF43926 := by decide +kernel
/-- SHA-384 of FIPS 180-4 (R153): the digest of "abc". -/
theorem test_sha384 :
    beNat (sha384 [0x61, 0x62, 0x63])
      = 0xcb00753f45a35e8bb5a03d699ac65007272c32ab0eded1631a8b605a43ff5bed8086072ba1e7cc2358baeca134c825a7 := by decide +kernel
/-- AES-256-GCM of SP 800-38D (R169): key, initialisation vector and plaintext of zeros. -/
theorem test_gcm :
    gcmOpen (List.replicate 32 0) (List.replicate 12 0) []
        (beBytes 32 0xcea7403d4d606b6e074ec5d3baf39d18d0d1c8a799996bf0265b98b5d48ab919) = some (List.replicate 16 0) := by
  decide +kernel
/-- P-384 of FIPS 186-5 (R153): the base point is on the curve, and 5 G + 7 G is 12 G. -/
theorem test_p384 :
    p384g.map (fun e => keyPoint (beBytes 48 e.1 ++ beBytes 48 e.2)) = some p384g
      ∧ addPoint (mulPoint 3 5 p384g) (mulPoint 3 7 p384g) = mulPoint 4 12 p384g := by decide +kernel
/-- 03_sense_inputs.md, the worked case of a modulator channel: ten outputs at these instants, and its group delay. -/
theorem test_mod_instants :
    let s := put sRun [(.snsMclk, 0, 320), (.snsModCfg, 0, 0x80000005)]
    outputsOf s 0 = 10 ∧ (List.range 10).map (instantOf s 0) = [0, 1562, 3125, 4687, 6250, 7812, 9375, 10937, 12500, 14062]
      ∧ groupDelay s 0 = 2271 := by decide +kernel
/-- 17_regatta_links.md, the worked case of the time exchange: the neighbour's catch is 40 ns late over a delay of 115 ns. -/
theorem test_regatta_offset :
    ends (.strokeMessage 0 (sealMessage (bytesOf 1 2 ++ bytesOf 1 1 ++ bytesOf 2 3 ++ bytesOf 4 1004 ++ bytesOf 4 1000 ++ bytesOf 4 1075)))
      { sPort 3 { Port.reset with txNs := 1000 } with now := 1159 }
      (fun t => (portAt t 0).delta == 40 && rdf t .oplPDelay 0 19 0 == 115 && rd t .oplOfs 0 == 0) = true := by decide +kernel
/-- 19_host_port_and_telemetry.md, the worked case of RETRY_AFTER: 45 strokes remain. -/
theorem test_retry_after : windowLeft { sRun with winOpen := some 0, now := 300000 } = 45 := by decide +kernel
/-- 13_instruction_set.md, the worked case of spilling: the 7th call traps, and the handler's wspill moves PTR by 128. -/
theorem test_window_overflow :
    ends (.call 15 (im_ 1 0 1 0)) (sI { regs [8] with live := 7 }) (fun t => (ctxAt t key).due.map (·.num) == [0x09]) = true
      ∧ ends (.wspill 15 0) (sI { inTrap with spillPtr := 0x400000, live := 7 })
          (fun t => (ctxAt t key).spillPtr == 0x400080 && (ctxAt t key).live == 6) = true := by decide +kernel
/-- fop, R316: half an ulp goes to the even neighbour; infinity times zero is the quiet NaN. -/
theorem test_fop :
    fadd 0x3F800000 0x33800000 = 0x3F800000 ∧ fadd 0x3F800001 0x33800000 = 0x3F800002
      ∧ rn (mulNum (f32 0x7F800000) (f32 0)) = 0x7FC00000 := by decide +kernel
/-- alu and ld: a sum that wraps, and a sign-extended byte. -/
theorem test_alu_ld :
    ends (.alu 15 (rw_ 0 3 1 2 0 0)) (sI (regs [2 ^ 64 - 1, 2])) (fun t => (sGet (ctxAt t key) 3).val == 1) = true
      ∧ ends (.ld 15 (im_ 12 3 1 0) .clean) { sI (regs [0x40]) with mem := [(spadAddr 15 0x40, 0x80)] }
          (fun t => (sGet (ctxAt t key) 3).val == 0xFFFFFFFFFFFFFF80) = true := by decide +kernel
/-- trap and the entry into its handler: the record's PC is that of the next instruction, and the handler stands at
TVEC + 64 × 0x0D. -/
theorem test_trap_entry :
    ends (.trap 15 (im_ 0 0 0 5)) (sI { Ctx.reset with tvec := 0x1000, pc := 0x200 })
      (fun t => ends (.trapEntry 15 none) t (fun r => (ctxAt r key).pc == 0x1340 && (ctxAt r key).trecH == 0x0D00000000000208
        && (ctxAt r key).trecD.getD 1 0 == 5)) = true := by decide +kernel
/-- brk without a grant is noted and goes on. -/
theorem test_brk : ends (.brk 15 0) (sI Ctx.reset) (fun t => rdb t .seqSticky 15 1 && (ctxAt t key).pc == 8) = true := by decide +kernel
/-- arr.mm: its block is fetched, then a dot product of signed bytes, 3 × (−2) + (−1) × 5 = −11. -/
theorem test_arr_mm :
    (let q := qRun 0x30 (BitVec.ofNat 56 (4 * 2 ^ 48 + 2 ^ 44 + 6 * 2 ^ 16 + 6 * 2 ^ 12 + 2 ^ 8)) .array [0x400]
     let x := { Scull.reset with arrays := [(0, { ArrayState.reset with activeOwner := some 1 })], planes := [(0, 0xFE), (1, 5)] }
     ends (.engineComplete 15 .array .none)
       { sEnd Ctx.reset x { q with started := false } with mem := [(at15 0x400, 3), (at15 0x401, 0xFF)] } (fun r =>
       ends (.engineComplete 15 .array .none) r (fun t => (tGet (ctxAt t key) 0 0 0 0).val == 0xFFFFFFF5))) = true := by decide +kernel
/-- vrel frees a group: its lanes read zero and its in-use flag is clear. -/
theorem test_vrel :
    (let q := qRun 0x56 (im_ 0 0 0 1) .vector []
     ends (.engineComplete 15 .vector .none) (sEnd { Ctx.reset with v := [(5, ⟨7, false⟩)], inuseV := 3 } Scull.reset q)
       (fun t => (vGet (ctxAt t key) 0 5).val == 0 && (ctxAt t key).inuseV == 2)) = true := by decide +kernel
/-- A register of the STK block: a write before Run takes, a write in Run leaves it and is flagged (R8). -/
theorem test_rwl :
    ends (.registerWrite .cox (regAddr .stkFinish 0) 4 5000) { State.reset with inReset := false } (fun t => rd t .stkFinish 0 == 5000)
      = true
      ∧ ends (.registerWrite .cox (regAddr .stkFinish 0) 4 5000) sRun
          (fun t => rd t .stkFinish 0 == 2500 && rdb t .fltSticky 0 0) = true := by decide +kernel
/-- STK_COUNT: a read of the low word gives it and freezes the high word (R37). -/
theorem test_count_snapshot :
    ends (.stkCountLoRead .stern) { sRun with strokeNo := 2 ^ 32 + 5 } (fun t => t.rdData == 5 && rd t .stkCountHi 0 == 1) = true := by
  decide +kernel
/-- A stop line set by its command stays set; STOP_ANY shows. -/
theorem test_stop_any :
    ends (.linkLost 0) { sLink 3 with links := [(0, { Link.reset with missRun := 3 })] }
      (fun t => rdb t .stpState 0 0 && rdb t .stpState 0 12 && linkState t 0 == 0) = true := by decide +kernel
/-- The 17th bridge error of a stroke raises SENSE_LINK, the 16th does not. -/
theorem test_sense_link :
    ends (.bridgeParityError (.frame 0)) { sRun with bridgeStroke := 15 } (fun t => rd t .fltEvtCnt 0 == 0) = true
      ∧ ends (.bridgeParityError (.frame 0)) { sRun with bridgeStroke := 16 } (fun t => rd t .fltEvtCnt 0 == 1) = true := by decide +kernel
/-- A bank in use that loses LIGHT_X is SUSPECT with cause 3; one not in use stays so. -/
theorem test_light_loss :
    ends .lightXLoss (sBank [] 2 1 Bank.reset) (fun t => bankState t 2 == 2 && rdf t .rfxBankStat 2 23 20 == 3 && bankState t 1 == 0)
      = true := by decide +kernel
/-- A heat that finds the lane dark goes on, one that does not is aborted. -/
theorem test_heat_dark :
    (let s := sLanes 1 { Bank.reset with heat := some ⟨33, none, 4, 0, [], 1⟩ } (fun i l => if i = 33 then { l with st := 2 } else l)
     ends (.bankHeatTimer 0 (.dark 10)) s (fun t => ((bankAt t 0).heat.map (·.step)) == some 5)
      && ends (.bankHeatTimer 0 (.dark 11)) s (fun t => (bankAt t 0).heat == none && rd t .rfxHeatAbortCnt 0 == 1)) = true := by
  decide +kernel
end Sys2Proof.Machine.Tests
end

section
/-! The reads of STK_COUNT (01_stroke.md R37): where a device address of a register block leads, that every requester but
JTAG may read the STK block, and what the read of the low half gives and leaves. -/

namespace Sys2Proof.Machine

/-! ## The register blocks -/

theorem allBlocks_getElem_blockNum (b : Block) : allBlocks[blockNum b]? = some b := by
  cases b <;> rfl

theorem blockNum_lt (b : Block) : blockNum b < 26 := by
  cases b <;> decide

/-- Each block takes 64 KiB at its number (R61, R62). -/
theorem placeOf_block (s : State) (b : Block) {o : Nat} (ho : o < 0x10000) :
    placeOf s (regBase + blockNum b * 0x10000 + o) = if mapped s b o then .reg b o else .none := by
  have hlt := blockNum_lt b
  have hdiv : (regBase + blockNum b * 0x10000 + o - regBase) / 0x10000 = blockNum b := by omega
  have hmod : (regBase + blockNum b * 0x10000 + o - regBase) % 0x10000 = o := by omega
  have hhbm : ¬ regBase + blockNum b * 0x10000 + o < hbmEnd := by simp only [regBase, hbmEnd]; omega
  have hspad : ¬ regBase + blockNum b * 0x10000 + o < spadBase + 16 * spadPitch := by
    simp only [regBase, spadBase, spadPitch]; omega
  have hreg : regBase ≤ regBase + blockNum b * 0x10000 + o
      ∧ regBase + blockNum b * 0x10000 + o < regBase + 26 * 0x10000 := by omega
  simp only [placeOf, hhbm, hspad, hreg, hdiv, hmod, allBlocks_getElem_blockNum, if_false, if_true, and_false, and_self]

/-- An access inside one block satisfies what all its bytes, mapped, satisfy. -/
theorem touches_block {s : State} {b : Block} {o n : Nat} {ok : Block → Nat → Bool} (hn : 0 < n) (hle : o + n ≤ 0x10000)
    (hok : ∀ k, o ≤ k → k < o + n → mapped s b k = true ∧ ok b k = true) :
    touches s (regBase + blockNum b * 0x10000 + o) n ok = true := by
  simp only [touches, List.all_eq_true, List.mem_range]
  intro i hi
  have hin : i < n := by simpa [Nat.max_eq_right hn] using hi
  obtain ⟨hmap, hbyte⟩ := hok (o + i) (by omega) (by omega)
  rw [Nat.add_assoc, placeOf_block s b (by omega), if_pos hmap]
  exact hbyte

/-- An access inside one block, all of whose bytes are mapped and reached, starts at its offset. -/
theorem busAllowed_block {s : State} {rq : Requester} {b : Block} {o n : Nat} {write : Bool} (hn : 0 < n)
    (hle : o + n ≤ 0x10000)
    (hok : ∀ k, o ≤ k → k < o + n → mapped s b k = true ∧ mayReach s rq b k write = true) :
    busAllowed s rq (regBase + blockNum b * 0x10000 + o) n write = some (b, o) := by
  have hmap : mapped s b o = true := (hok o le_rfl (by omega)).1
  simp only [busAllowed, touches_block (ok := fun b o => mayReach s rq b o write) hn hle hok,
    placeOf_block s b (show o < 0x10000 by omega), hmap, if_true]

/-! ## Reads of the STK block (R208) -/

theorem mapped_stk (s : State) (o : Nat) : mapped s .stk o = true := rfl

theorem mayReach_stk_read (s : State) {rq : Requester} (o : Nat) (h : rq ≠ .jtag) : mayReach s rq .stk o false = true := by
  cases rq with
  | jtag => exact absurd rfl h
  | ctx | stern | host | cox => rfl

theorem hostByte_stk_read {s : State} (o : Nat) (hrun : s.run = true) : hostByte s false .stk o = true := by
  simp [hostByte, mayReach_stk_read, hrun]

/-! ## STK_COUNT_LO (R37) -/

theorem regAddr_stkCountLo : regAddr .stkCountLo 0 = regBase + blockNum .stk * 0x10000 + 0x18 := rfl

theorem regAt_stkCountLo : regAt .stk 0x18 = some (.stkCountLo, 0) := rfl

theorem busRead_stkCountLo (s : State) {rq : Requester} (h : rq ≠ .jtag) :
    busRead s rq (regAddr .stkCountLo 0) 4 = (readEffect s .stkCountLo 0, regValue s .stkCountLo 0, true) := by
  have hallowed : busAllowed s rq (regAddr .stkCountLo 0) 4 false = some (.stk, 0x18) :=
    regAddr_stkCountLo ▸ busAllowed_block (by omega) (by omega)
      fun k _ _ => ⟨mapped_stk s k, mayReach_stk_read s k h⟩
  have haligned : aligned32 (regAddr .stkCountLo 0) 4 = true := by decide
  simp [busRead, hallowed, haligned, regAt_stkCountLo]

theorem hostBar0_stkCountLo {s : State} (hrun : s.run = true) :
    hostBar0 s (regAddr .stkCountLo 0 - regBase) 4 false = true :=
  touches_block (b := .stk) (o := 0x18) (by omega) (by omega) fun k _ _ => ⟨mapped_stk s k, hostByte_stk_read k hrun⟩

theorem regValue_stkCountLo (s : State) : regValue s .stkCountLo 0 = s.strokeNo.truncate 32 := by
  have hmask : regMask .stkCountLo = BitVec.allOnes 32 := rfl
  calc regValue s .stkCountLo 0
      = BitVec.ofNat 32 s.strokeNo.toNat &&& regMask .stkCountLo := rfl
    _ = s.strokeNo.truncate 32 := by rw [hmask, BitVec.and_allOnes, BitVec.ofNat_toNat]

theorem readEffect_stkCountLo (s : State) :
    readEffect s .stkCountLo 0 = wr s .stkCountHi 0 ((s.strokeNo >>> 32).truncate 32) := by
  have hhigh : BitVec.ofNat 32 (strokeNat s / 2 ^ 32) = (s.strokeNo >>> 32).truncate 32 := by
    rw [BitVec.truncate, ← BitVec.ofNat_toNat, BitVec.toNat_ushiftRight, Nat.shiftRight_eq_div_pow, strokeNat]
  simp only [readEffect, hhigh]

theorem regValue_stkCountHi (s : State) (i : Nat) : regValue s .stkCountHi i = rd s .stkCountHi i := rfl

/-- The state a read of STK_COUNT_LO leaves: the snapshot, the data and the EP bit of the completion. -/
def strokeCountRead (s : State) (ep : Bool) : State :=
  { wr s .stkCountHi 0 ((s.strokeNo >>> 32).truncate 32) with
    rdData := (s.strokeNo.truncate 32 : Word).zeroExtend 64, rdEp := ep }

theorem rd_strokeCountRead (s : State) (ep : Bool) (r : Reg) (i : Nat) :
    rd (strokeCountRead s ep) r i = rd (wr s .stkCountHi 0 ((s.strokeNo >>> 32).truncate 32)) r i := rfl

theorem regsKept_strokeCountRead (s : State) (ep : Bool) : regsKept s (strokeCountRead s ep) [(.stkCountHi, 0)] := by
  intro r i hne
  have hkey : ¬ (r = .stkCountHi ∧ i = 0) := by simpa using hne
  rw [rd_strokeCountRead, rd_wr, if_neg hkey]

theorem readReg_stkCountLo_of_ne_host (s : State) {rq : Requester} (hj : rq ≠ .jtag) (hh : rq ≠ .host) :
    readReg s rq .stkCountLo 0 = strokeCountRead s s.rdEp := by
  simp only [readReg, if_neg hh, busRead_stkCountLo s hj, readEffect_stkCountLo, regValue_stkCountLo, strokeCountRead, wr_rdEp]

theorem readReg_stkCountLo_host {s : State} (hrun : s.run = true) :
    readReg s .host .stkCountLo 0 = strokeCountRead s false := by
  have hbar : hostBar0 { s with rdEp := false } (regAddr .stkCountLo 0 - regBase) 4 false = true := hostBar0_stkCountLo hrun
  have haddr : regBase + (regAddr .stkCountLo 0 - regBase) = regAddr .stkCountLo 0 := rfl
  simp only [readReg, hostRead, hbar, haddr, busRead_stkCountLo _ (show Requester.host ≠ .jtag by decide),
    readEffect_stkCountLo, regValue_stkCountLo, if_true]
  rfl

theorem exec_stkCountLoRead (rq : Requester) (s : State) :
    exec (.stkCountLoRead rq) s = .next (readReg s rq .stkCountLo 0) := rfl

theorem exec_stkCountLoRead_eq_next {rq : Requester} {s : State} (hj : rq ≠ .jtag) (hrun : rq = .host → s.run = true) :
    ∃ ep, exec (.stkCountLoRead rq) s = .next (strokeCountRead s ep) := by
  by_cases hh : rq = .host
  · subst hh
    exact ⟨false, by rw [exec_stkCountLoRead, readReg_stkCountLo_host (hrun rfl)]⟩
  · exact ⟨s.rdEp, by rw [exec_stkCountLoRead, readReg_stkCountLo_of_ne_host s hj hh]⟩

/-- Settles O9: every requester but JTAG, the host in Run, reads the low half and leaves the high half, and it alone, in
STK_COUNT_HI (R37). -/
theorem strokeCountSnapshot : Obligations.StrokeCountSnapshot := by
  intro rq s hj hrun
  obtain ⟨ep, hexec⟩ := exec_stkCountLoRead_eq_next hj hrun
  have hhi : rd (strokeCountRead s ep) .stkCountHi 0 = (s.strokeNo >>> 32).truncate 32 := by
    rw [rd_strokeCountRead, rd_wr_self]
  exact ⟨strokeCountRead s ep, hexec, rfl, hhi, (regValue_stkCountHi _ 0).trans hhi, rfl, regsKept_strokeCountRead s ep⟩

end Sys2Proof.Machine
end

section
/-! The fields of a register word: what reading a field or a bit gives after a field or a bit was written. -/

namespace Sys2Proof.Machine

theorem getLsbD_fmask (hi lo n : Nat) : (fmask hi lo).getLsbD n = decide (n < 32 ∧ lo ≤ n ∧ n ≤ hi) := by
  simp only [fmask, BitVec.getLsbD_shiftLeft, BitVec.getLsbD_ofNat, Nat.testBit_two_pow_sub_one]
  rw [Bool.eq_iff_iff]
  simp only [Bool.and_eq_true, decide_eq_true_eq, Bool.not_eq_true', decide_eq_false_iff_not]
  omega

/-- Every bit of a word after a field of it was written. -/
theorem getLsbD_fput (w : Word) (hi lo v n : Nat) :
    (fput w hi lo v).getLsbD n = if n < 32 ∧ lo ≤ n ∧ n ≤ hi then v.testBit (n - lo) else w.getLsbD n := by
  simp only [fput, BitVec.getLsbD_or, BitVec.getLsbD_and, BitVec.getLsbD_not, getLsbD_fmask, BitVec.getLsbD_shiftLeft,
    BitVec.getLsbD_ofNat]
  by_cases h : n < 32 ∧ lo ≤ n ∧ n ≤ hi
  · have hlo : ¬ n < lo := by omega
    have hsub : n - lo < 32 := by omega
    simp [h, hlo, hsub]
  · by_cases hn : n < 32
    · rw [decide_eq_false h, if_neg h]
      simp [hn]
    · simp [hn, BitVec.getLsbD_of_ge w n (by omega)]

theorem testBit_fget (w : Word) (hi lo i : Nat) :
    (fget w hi lo).testBit i = (decide (i < hi + 1 - lo) && w.getLsbD (lo + i)) := by
  simp only [fget, Nat.testBit_mod_two_pow, BitVec.testBit_toNat, BitVec.getLsbD_ushiftRight]

theorem fget_fput_self (w : Word) {hi : Nat} (lo v : Nat) (h : hi < 32) :
    fget (fput w hi lo v) hi lo = v % 2 ^ (hi + 1 - lo) := by
  apply Nat.eq_of_testBit_eq
  intro i
  rw [testBit_fget, getLsbD_fput, Nat.testBit_mod_two_pow]
  by_cases hi' : i < hi + 1 - lo
  · rw [if_pos (by omega), Nat.add_sub_cancel_left]
  · simp [hi']

/-- A field apart from the one written reads as before. -/
theorem fget_fput_of_apart (w : Word) {hi lo hi' lo' : Nat} (v : Nat) (h : hi' < lo ∨ hi < lo') :
    fget (fput w hi lo v) hi' lo' = fget w hi' lo' := by
  apply Nat.eq_of_testBit_eq
  intro i
  rw [testBit_fget, testBit_fget, getLsbD_fput]
  by_cases hi' : i < hi' + 1 - lo'
  · rw [if_neg (by omega)]
  · simp [hi']

theorem bget_fput_of_apart (w : Word) {hi lo n : Nat} (v : Nat) (h : n < lo ∨ hi < n) :
    bget (fput w hi lo v) n = bget w n := by
  rw [bget, getLsbD_fput, if_neg (by omega), bget]

theorem fget_bput_of_apart (w : Word) {hi lo n : Nat} (b : Bool) (h : n < lo ∨ hi < n) :
    fget (bput w n b) hi lo = fget w hi lo :=
  fget_fput_of_apart w _ (Or.symm h)

theorem bget_bput_self (w : Word) {n : Nat} (b : Bool) (h : n < 32) : bget (bput w n b) n = b := by
  rw [bget, bput, getLsbD_fput, if_pos ⟨h, le_rfl, le_rfl⟩]
  cases b <;> simp

/-- Setting a bit clears no bit. -/
theorem bget_bput_true_of_bget {w : Word} {n : Nat} (m : Nat) (h : bget w n = true) : bget (bput w m true) n = true := by
  have hn : n < 32 := BitVec.lt_of_getLsbD h
  by_cases hm : n = m
  · subst hm; exact bget_bput_self w true hn
  · rw [bget_bput_of_ne w true hm, h]

theorem field_one_lt (f : List Byte) (o : Nat) : field f o 1 < 256 := by
  obtain ⟨b, hb⟩ := List.length_eq_one_iff.mp (length_slice f o 1)
  have hlt := b.isLt
  rw [field, hb]
  simp only [natOf]
  omega

end Sys2Proof.Machine
end

section
/-! The frame of the axis links (04_axis_links_and_stop_lines.md): `t` is `s` but for the links, the stop lines and some
registers; and what a raising between two such updates keeps of that. -/

namespace Sys2Proof.Machine

/-- `t` is `s` but for the links, the stop lines and the registers in the list. -/
def axisOnly (s t : State) (ks : List RegKey) : Prop := onlyRegs s { t with links := s.links, lines := s.lines } ks

theorem axisOnly.state_eq {s t : State} {ks : List RegKey} (h : axisOnly s t ks) :
    { t with links := s.links, lines := s.lines, regs := s.regs } = s := h.1

theorem axisOnly_refl (s : State) (ks : List RegKey) : axisOnly s s ks := ⟨rfl, fun _ _ _ => rfl⟩

theorem axisOnly_trans {s t u : State} {ks : List RegKey} (h : axisOnly s t ks) (k : axisOnly t u ks) :
    axisOnly s u ks := by
  obtain ⟨hstate, hregs⟩ := h
  obtain ⟨kstate, kregs⟩ := k
  refine ⟨?_, fun r i hk => (kregs r i hk).trans (hregs r i hk)⟩
  unfold regsOnly at *
  rw [← kstate] at hstate
  exact hstate

theorem axisOnly_wr (s : State) {r : Reg} {i : Nat} (v : Word) {ks : List RegKey} (h : (r, i) ∈ ks) :
    axisOnly s (wr s r i v) ks := by
  refine ⟨rfl, fun q j hq => ?_⟩
  have hne : ¬ (q = r ∧ j = i) := by rintro ⟨rfl, rfl⟩; exact hq h
  exact (rd_wr s r q i j v).trans (if_neg hne)

theorem axisOnly_updLink (s : State) (n : Nat) (g : Link → Link) (ks : List RegKey) : axisOnly s (updLink s n g) ks :=
  ⟨rfl, fun _ _ _ => rfl⟩

theorem axisOnly_updLine (s : State) (n : Nat) (g : StopLine → StopLine) (ks : List RegKey) :
    axisOnly s (updLine s n g) ks :=
  ⟨rfl, fun _ _ _ => rfl⟩

theorem rd_of_axisOnly {s t : State} {ks : List RegKey} (h : axisOnly s t ks) {r : Reg} {i : Nat} (hk : (r, i) ∉ ks) :
    rd t r i = rd s r i := h.2 r i hk

theorem run_of_axisOnly {s t : State} {ks : List RegKey} (h : axisOnly s t ks) : t.run = s.run :=
  (congrArg State.run h.state_eq :)

/-! ## A raising between two updates of the links -/

/-- `t` is `s` but for what reporting writes, the links and the stop lines. -/
def axisReportOnly (s t : State) : Prop := reportOnly s { t with links := s.links, lines := s.lines }

theorem axisReportOnly_trans {s t u : State} (h : axisReportOnly s t) (k : axisReportOnly t u) : axisReportOnly s u := by
  unfold axisReportOnly reportOnly at *
  rw [← k] at h
  exact h

theorem axisReportOnly_of_axisOnly {s t : State} {ks : List RegKey} (h : axisOnly s t ks) : axisReportOnly s t :=
  (congrArg (fun x : State =>
    { x with
      mem := s.mem, poisoned := s.poisoned, pba := s.pba, msgAt := s.msgAt, msgWaiting := s.msgWaiting
      sentCount := s.sentCount, ringSeq := s.ringSeq, ringSince := s.ringSince, pinFaultN := s.pinFaultN
      holding := s.holding, uart := s.uart }) h.state_eq :)

theorem axisReportOnly_of_reportOnly {s t : State} (h : reportOnly s t) : axisReportOnly s t :=
  (congrArg (fun x : State => { x with links := s.links, lines := s.lines }) (h : _ = s) :)

/-- The registers that place ring 1 in memory. -/
def ringPlace : List Reg := [.hstTelwin, .telBase, .telSize]

theorem inRing_congr {s t : State} (r a : Nat) (h : ∀ q ∈ ringPlace, ∀ i, rd t q i = rd s q i) :
    inRing t r a ↔ inRing s r a := by
  have hwin := h .hstTelwin (by decide)
  have hbase := h .telBase (by decide) r
  have hsize := h .telSize (by decide) r
  simp only [inRing, telWin, ringSize, rdf, hwin, hbase, hsize]

/-- The registers, beside those that place ring 1, that tell whether and how a code was raised. -/
def raiseRegs : List Reg := [.fltLast, .fltEvtCnt, .fltSticky]

/-- No register of the list places ring 1 or tells what was raised. -/
def apartFromRaise (ks : List RegKey) : Prop := ∀ k ∈ ks, k.1 ∉ ringPlace ++ raiseRegs

section
variable {s a t : State} {ks : List RegKey} {code scope index : Nat}
  (hks : apartFromRaise ks) (ha : axisOnly s a ks) (ht : axisOnly (raiseNow a code scope index) t ks)
include hks ha ht

/-- A raising between two updates of links and stop lines is a raising of the whole. -/
theorem wasRaised_of_axisOnly : wasRaised s t code scope index := by
  have key (r : Reg) (i : Nat) (hr : r ∈ ringPlace ++ raiseRegs) : (r, i) ∉ ks := fun h => hks _ h hr
  obtain ⟨hlast, hcnt, hhold, hfree⟩ := (raise_spec a code scope index a.strokeNo).2
  have holdA : a.holding = s.holding := (congrArg State.holding ha.state_eq :)
  have pinA : a.pinFaultN = s.pinFaultN := (congrArg State.pinFaultN ha.state_eq :)
  have uartA : a.uart = s.uart := (congrArg State.uart ha.state_eq :)
  have holdT : t.holding = (raiseNow a code scope index).holding := (congrArg State.holding ht.state_eq :)
  have pinT : t.pinFaultN = (raiseNow a code scope index).pinFaultN := (congrArg State.pinFaultN ht.state_eq :)
  have uartT : t.uart = (raiseNow a code scope index).uart := (congrArg State.uart ht.state_eq :)
  refine ⟨(rd_of_axisOnly ht (key _ 0 (by decide))).trans hlast, ?_, ?_, ?_⟩
  · rw [rd_of_axisOnly ht (key _ 0 (by decide)), raiseNow, hcnt, rd_of_axisOnly ha (key _ 0 (by decide))]
  · rw [holdT, pinT, ← holdA]; exact hhold
  · rw [holdT, pinT, uartT, ← holdA, ← pinA, ← uartA]; exact hfree

theorem reported_of_axisOnly : reported s { t with links := s.links, lines := s.lines } ks := by
  have key (r : Reg) (i : Nat) (hr : r ∈ ringPlace ++ raiseRegs) : (r, i) ∉ ks := fun h => hks _ h hr
  obtain ⟨hstate, hregs, hmem, hsticky⟩ := (raise_spec a code scope index a.strokeNo).1
  have memA : a.mem = s.mem := (congrArg State.mem ha.state_eq :)
  have memT : t.mem = (raiseNow a code scope index).mem := (congrArg State.mem ht.state_eq :)
  refine ⟨?_, fun r i hk => ?_, fun x hx => ?_, fun n hn => ?_⟩
  · exact axisReportOnly_trans (axisReportOnly_of_axisOnly ha)
      (axisReportOnly_trans (axisReportOnly_of_reportOnly hstate) (axisReportOnly_of_axisOnly ht))
  · obtain ⟨hrep, hown⟩ : (r, i) ∉ reportKeys ∧ (r, i) ∉ ks := by simpa only [List.mem_append, not_or] using hk
    calc rd t r i = rd (raiseNow a code scope index) r i := rd_of_axisOnly ht hown
      _ = rd a r i := hregs r i (by simpa using hrep)
      _ = rd s r i := rd_of_axisOnly ha hown
  · have hin : ¬ inRing a 1 x := fun h => hx ((inRing_congr 1 x fun q hq i =>
      rd_of_axisOnly ha (key q i (List.mem_append_left _ hq))).mp h)
    calc mrd t x = mrd (raiseNow a code scope index) x := by rw [mrd, memT, ← mrd]
      _ = mrd a x := hmem x hin
      _ = mrd s x := by rw [mrd, memA, ← mrd]
  · calc bget (rd t .fltSticky 0) n = bget (rd (raiseNow a code scope index) .fltSticky 0) n := by
          rw [rd_of_axisOnly ht (key _ 0 (by decide))]
      _ = bget (rd a .fltSticky 0) n := hsticky n hn
      _ = bget (rd s .fltSticky 0) n := by rw [rd_of_axisOnly ha (key _ 0 (by decide))]

end

/-- A raising writes no register but those of reporting. -/
theorem rd_raiseNow_of_ne (s : State) (code scope index : Nat) {r : Reg} {i : Nat} (h : (r, i) ∉ reportKeys) :
    rd (raiseNow s code scope index) r i = rd s r i :=
  (raise_spec s code scope index s.strokeNo).1.2.1 r i (by simpa using h)

theorem links_raiseNow (s : State) (code scope index : Nat) : (raiseNow s code scope index).links = s.links := by
  have hstate : _ = s := (raise_spec s code scope index s.strokeNo).1.1
  exact (congrArg State.links hstate :)

theorem lineAt_raiseNow (s : State) (code scope index k : Nat) : lineAt (raiseNow s code scope index) k = lineAt s k := by
  have hstate : _ = s := (raise_spec s code scope index s.strokeNo).1.1
  have hlines : (raiseNow s code scope index).lines = s.lines := (congrArg State.lines hstate :)
  rw [lineAt, hlines, ← lineAt]

/-! ## The end of a code -/

@[simp] theorem rd_settlePin (s : State) (r : Reg) (i : Nat) : rd (settlePin s) r i = rd s r i := by
  unfold settlePin; split <;> simp
@[simp] theorem settlePin_holding (s : State) : (settlePin s).holding = s.holding := by
  unfold settlePin; split <;> simp
@[simp] theorem rd_endCode (s : State) (code : Nat) (r : Reg) (i : Nat) : rd (endCode s code) r i = rd s r i :=
  rd_settlePin _ r i
theorem not_mem_endCode_holding (s : State) (code : Nat) : code ∉ (endCode s code).holding := by
  simp [endCode]
theorem endCode_of_run {s : State} (h : s.run = true) (code : Nat) :
    endCode s code = { s with holding := s.holding.filter (· != code) } := if_pos h

end Sys2Proof.Machine
end

section
/-! Stop lines and the state of a link: what a stop request, a change of state and the ACTIVE_ID of a frame write, and what
they leave (04_axis_links_and_stop_lines.md R127 to R137). -/

namespace Sys2Proof.Machine

@[simp] theorem rd_updLink (s : State) (n : Nat) (g : Link → Link) (r : Reg) (i : Nat) :
    rd (updLink s n g) r i = rd s r i := rfl
@[simp] theorem rd_updLine (s : State) (n : Nat) (g : StopLine → StopLine) (r : Reg) (i : Nat) :
    rd (updLine s n g) r i = rd s r i := rfl
@[simp] theorem lineAt_updLine_self (s : State) (n : Nat) (g : StopLine → StopLine) :
    lineAt (updLine s n g) n = g (lineAt s n) := lineAt_putLine_self s n _
theorem lineAt_updLine_of_ne (s : State) {n k : Nat} (g : StopLine → StopLine) (h : k ≠ n) :
    lineAt (updLine s n g) k = lineAt s k := by
  rw [updLine, lineAt_putLine, if_neg h]

theorem rd_flag_of_ne (s : State) {r q : Reg} (h : q ≠ r) (i j n : Nat) : rd (flag s r i n) q j = rd s q j :=
  rd_wr_of_ne h i j _

theorem rdb_flag_self (s : State) (r : Reg) (i : Nat) {n : Nat} (h : n < 32) : rdb (flag s r i n) r i n = true := by
  rw [rdb, flag_eq_wr, rd_wr_self, bget_bput_self _ _ h]

/-- A sticky bit that is set stays set when another is. -/
theorem rdb_flag_of_rdb {s : State} {r : Reg} {i n : Nat} (m : Nat) (h : rdb s r i n = true) :
    rdb (flag s r i m) r i n = true := by
  rw [rdb, flag_eq_wr, rd_wr_self]
  exact bget_bput_true_of_bget m h

/-! ## Stop requests (R135, R137) -/

theorem rd_settleAny_of_ne (s : State) {r : Reg} (h : r ≠ .stpState) (i : Nat) : rd (settleAny s) r i = rd s r i :=
  rd_wr_of_ne h 0 i _

theorem lineSet_settleAny (s : State) {n : Nat} (hn : n < 12) : lineSet (settleAny s) n = lineSet s n := by
  rw [lineSet, rdb, settleAny, wrb_eq_wr, rd_wr_self, bget_bput_of_ne _ _ (by omega)]
  rfl

theorem stopAny_settleAny (s : State) :
    rdb (settleAny s) .stpState 0 12 = (List.range 12).any (fun n => lineOn s n && lineSet s n) := by
  rw [rdb, settleAny, wrb_eq_wr, rd_wr_self, bget_bput_self _ _ (by decide)]

theorem axisOnly_settleAny (s : State) {ks : List RegKey} (h : (.stpState, 0) ∈ ks) : axisOnly s (settleAny s) ks :=
  axisOnly_wr s _ h

theorem axisOnly_setStop (s : State) (n : Nat) {ks : List RegKey} (h : (.stpState, 0) ∈ ks) :
    axisOnly s (setStop s n) ks := by
  unfold setStop
  extract_lets asked
  have hasked : axisOnly s asked ks := axisOnly_updLine s n _ ks
  split
  · exact axisOnly_trans hasked (axisOnly_trans (axisOnly_wr asked _ h) (axisOnly_settleAny _ h))
  · exact hasked

theorem rd_setStop_of_ne (s : State) (n : Nat) {r : Reg} (h : r ≠ .stpState) (i : Nat) :
    rd (setStop s n) r i = rd s r i :=
  rd_of_axisOnly (axisOnly_setStop s n (List.mem_singleton.mpr rfl)) (by simp [h])

/-- An enabled line of the active tray takes the request, and STOP_ANY shows it. -/
theorem setStop_of_active {s : State} {n : Nat} (hn : n < 12) (hon : lineOn s n = true) (hact : activeOn s n = true) :
    lineSet (setStop s n) n = true ∧ rdb (setStop s n) .stpState 0 12 = true := by
  unfold setStop
  extract_lets asked
  rw [hon, hact, Bool.true_and, if_pos rfl]
  have hset : lineSet (flag asked .stpState 0 n) n = true := rdb_flag_self _ _ _ (by omega)
  have honf : lineOn (flag asked .stpState 0 n) n = true := by
    rw [lineOn, rdb, rd_flag_of_ne _ (by decide)]
    exact hon
  refine ⟨(lineSet_settleAny _ hn).trans hset, ?_⟩
  rw [stopAny_settleAny, List.any_eq_true]
  exact ⟨n, List.mem_range.mpr hn, by rw [honf, hset]; rfl⟩

/-- A standby tray leaves its line as it is (R131). -/
theorem rd_setStop_of_standby {s : State} {n : Nat} (hact : activeOn s n = false) (r : Reg) (i : Nat) :
    rd (setStop s n) r i = rd s r i := by
  simp [setStop, hact]

theorem lossStop_of_clear {s : State} {n : Nat} (h : rdb s .stpCfg n 29 = false) : lossStop s n = s := by
  simp [lossStop, h]

theorem lossStop_of_set {s : State} {n : Nat} (h : rdb s .stpCfg n 29 = true) : lossStop s n = setStop s n := by
  simp [lossStop, h]

theorem axisOnly_lossStop (s : State) (n : Nat) {ks : List RegKey} (h : (.stpState, 0) ∈ ks) :
    axisOnly s (lossStop s n) ks := by
  unfold lossStop
  split
  · exact axisOnly_setStop s n h
  · exact axisOnly_refl s ks

theorem rd_lossStop_of_ne (s : State) (n : Nat) {r : Reg} (h : r ≠ .stpState) (i : Nat) :
    rd (lossStop s n) r i = rd s r i :=
  rd_of_axisOnly (axisOnly_lossStop s n (List.mem_singleton.mpr rfl)) (by simp [h])

theorem rd_lossStop_of_standby {s : State} {n : Nat} (hact : activeOn s n = false) (r : Reg) (i : Nat) :
    rd (lossStop s n) r i = rd s r i := by
  unfold lossStop
  split
  · exact rd_setStop_of_standby hact r i
  · rfl

/-! ## The state of a link (R127) -/

theorem axisOnly_setLinkState (s : State) (n st : Nat) {ks : List RegKey} (h : (.axlStat, n) ∈ ks) :
    axisOnly s (setLinkState s n st) ks := axisOnly_wr s _ h

theorem rd_setLinkState_of_ne (s : State) (n st : Nat) {r : Reg} (h : r ≠ .axlStat) (i : Nat) :
    rd (setLinkState s n st) r i = rd s r i := rd_wr_of_ne h n i _

theorem linkState_setLinkState_self (s : State) (n : Nat) {st : Nat} (h : st < 4) :
    linkState (setLinkState s n st) n = st := by
  rw [linkState, rdf, setLinkState, rd_wrf_self, fget_fput_self _ _ _ (by decide), Nat.mod_eq_of_lt (by omega)]

theorem linkState_setLinkState_of_ne (s : State) {n k : Nat} (st : Nat) (h : k ≠ n) :
    linkState (setLinkState s n st) k = linkState s k := by
  rw [linkState, rdf, setLinkState, rd_wrf, if_neg (fun hk => h hk.2), ← rdf, ← linkState]

/-- A change of state keeps every field of AXL_STAT above STATE. -/
theorem rdf_axlStat_setLinkState (s : State) (n st : Nat) {hi lo : Nat} (h : 2 ≤ lo) :
    rdf (setLinkState s n st) .axlStat n hi lo = rdf s .axlStat n hi lo := by
  rw [rdf, setLinkState, rd_wrf_self, fget_fput_of_apart _ _ (by omega), ← rdf]

@[simp] theorem activeOn_setLinkState (s : State) (n st : Nat) : activeOn (setLinkState s n st) n = activeOn s n := by
  rw [activeOn, rdb, setLinkState, rd_wrf_self, bget_fput_of_apart _ _ (by decide), ← rdb, ← activeOn]

/-! ## The role by a frame (R131, R133) -/

/-- The registers that the role of a tray on link `n` writes. -/
def roleKeys (n : Nat) : List RegKey := [(.axlStat, n), (.axlSticky, 0), (.stpState, 0)]

/-- The three outcomes of a frame's ACTIVE_ID: the tray is active, and may have taken over; it is standby and, once the first
finish in Run has been, its line is deasserted. -/
theorem roleByFrame_cases (s : State) (n : Nat) (f : List Byte) :
    let named := wrf s .axlStat n 15 8 (field f 3 1)
    (field f 3 1 = trayId s ∧ (roleByFrame s n f = wrb named .axlStat n 2 true
        ∨ roleByFrame s n f = flag (wrb named .axlStat n 2 true) .axlSticky 0 3))
      ∨ (field f 3 1 ≠ trayId s ∧ s.firstFinish = false ∧ roleByFrame s n f = wrb named .axlStat n 2 false)
      ∨ (field f 3 1 ≠ trayId s ∧ s.firstFinish = true
          ∧ roleByFrame s n f = settleAny (wrb (wrb named .axlStat n 2 false) .stpState 0 n false)) := by
  intro named
  by_cases hid : field f 3 1 = trayId s
  · refine .inl ⟨hid, ?_⟩
    by_cases htake : (s.claiming && !activeOn s n) = true
    · exact .inr (by simp only [roleByFrame, if_pos hid, if_pos htake, named])
    · exact .inl (by simp only [roleByFrame, if_pos hid, if_neg htake, named])
  · by_cases hff : s.firstFinish = true
    · exact .inr (.inr ⟨hid, hff, by simp only [roleByFrame, if_neg hid, if_pos hff, named]⟩)
    · exact .inr (.inl ⟨hid, by simpa using hff, by simp only [roleByFrame, if_neg hid, if_neg hff, named]⟩)

theorem axisOnly_roleByFrame (s : State) (n : Nat) (f : List Byte) : axisOnly s (roleByFrame s n f) (roleKeys n) := by
  have hstat (t : State) (v : Word) : axisOnly t (wr t .axlStat n v) (roleKeys n) := axisOnly_wr t v (by simp [roleKeys])
  have hsticky (t : State) (v : Word) : axisOnly t (wr t .axlSticky 0 v) (roleKeys n) := axisOnly_wr t v (by simp [roleKeys])
  have hline (t : State) (v : Word) : axisOnly t (wr t .stpState 0 v) (roleKeys n) := axisOnly_wr t v (by simp [roleKeys])
  have hrole (b : Bool) : axisOnly s (wrb (wrf s .axlStat n 15 8 (field f 3 1)) .axlStat n 2 b) (roleKeys n) :=
    axisOnly_trans (hstat s _) (hstat _ _)
  rcases roleByFrame_cases s n f with ⟨_, h | h⟩ | ⟨_, _, h⟩ | ⟨_, _, h⟩ <;> rw [h]
  · exact hrole true
  · exact axisOnly_trans (hrole true) (hsticky _ _)
  · exact hrole false
  · exact axisOnly_trans (hrole false) (axisOnly_trans (hline _ _) (hline _ _))

/-- AXL_STAT after a frame: ACTIVE_ID as the frame has it, ACTIVE as it names this tray or not, the rest as before. -/
theorem rd_axlStat_roleByFrame (s : State) (n : Nat) (f : List Byte) :
    rd (roleByFrame s n f) .axlStat n
      = bput (fput (rd s .axlStat n) 15 8 (field f 3 1)) 2 (decide (field f 3 1 = trayId s)) := by
  have hrole (b : Bool) : rd (wrb (wrf s .axlStat n 15 8 (field f 3 1)) .axlStat n 2 b) .axlStat n
      = bput (fput (rd s .axlStat n) 15 8 (field f 3 1)) 2 b := by
    rw [wrb_eq_wr, rd_wr_self, rd_wrf_self]
  rcases roleByFrame_cases s n f with ⟨hid, h | h⟩ | ⟨hid, _, h⟩ | ⟨hid, _, h⟩ <;> rw [h]
  · rw [hrole, decide_eq_true hid]
  · rw [rd_flag_of_ne _ (by decide), hrole, decide_eq_true hid]
  · rw [hrole, decide_eq_false hid]
  · rw [rd_settleAny_of_ne _ (by decide), wrb_eq_wr _ .stpState, rd_wr_of_ne (by decide), hrole, decide_eq_false hid]

theorem linkState_roleByFrame (s : State) (n : Nat) (f : List Byte) : linkState (roleByFrame s n f) n = linkState s n := by
  rw [linkState, rdf, rd_axlStat_roleByFrame, fget_bput_of_apart _ _ (by decide), fget_fput_of_apart _ _ (by decide),
    ← rdf, ← linkState]

theorem activeId_roleByFrame (s : State) (n : Nat) (f : List Byte) :
    rdf (roleByFrame s n f) .axlStat n 15 8 = field f 3 1 := by
  rw [rdf, rd_axlStat_roleByFrame, fget_bput_of_apart _ _ (by decide), fget_fput_self _ _ _ (by decide)]
  exact Nat.mod_eq_of_lt (field_one_lt f 3)

theorem activeOn_roleByFrame (s : State) (n : Nat) (f : List Byte) :
    activeOn (roleByFrame s n f) n = decide (field f 3 1 = trayId s) := by
  rw [activeOn, rdb, rd_axlStat_roleByFrame, bget_bput_self _ _ (by decide)]

/-- A frame that names this tray leaves the stop lines alone. -/
theorem rd_stpState_roleByFrame_of_active {s : State} {f : List Byte} (n : Nat) (h : field f 3 1 = trayId s) :
    rd (roleByFrame s n f) .stpState 0 = rd s .stpState 0 := by
  rcases roleByFrame_cases s n f with ⟨_, e | e⟩ | ⟨hid, _⟩ | ⟨hid, _⟩
  · rw [e, wrb_eq_wr, rd_wr_of_ne (by decide), wrf_eq_wr, rd_wr_of_ne (by decide)]
  · rw [e, rd_flag_of_ne _ (by decide), wrb_eq_wr, rd_wr_of_ne (by decide), wrf_eq_wr, rd_wr_of_ne (by decide)]
  · exact absurd h hid
  · exact absurd h hid

/-- A frame that names another tray deasserts the line, once the first finish in Run has been (R131, R147). -/
theorem lineSet_roleByFrame_of_standby {s : State} {n : Nat} {f : List Byte} (hn : n < 12) (h : field f 3 1 ≠ trayId s)
    (hff : s.firstFinish = true) : lineSet (roleByFrame s n f) n = false := by
  rcases roleByFrame_cases s n f with ⟨hid, _⟩ | ⟨_, hno, _⟩ | ⟨_, _, e⟩
  · exact absurd hid h
  · rw [hff] at hno; cases hno
  · rw [e, lineSet_settleAny _ hn, lineSet, rdb, wrb_eq_wr _ .stpState, rd_wr_self, bget_bput_self _ _ (by omega)]

theorem lines_roleByFrame (s : State) (n : Nat) (f : List Byte) : (roleByFrame s n f).lines = s.lines := by
  rcases roleByFrame_cases s n f with ⟨_, e | e⟩ | ⟨_, _, e⟩ | ⟨_, _, e⟩ <;> rw [e] <;> rfl

end Sys2Proof.Machine
end

section
/-! A downstream HELLO (04_axis_links_and_stop_lines.md R127, R129 to R131): what it gives in every state of the link, kept
by what follows in the states SYNC and RUN. -/

namespace Sys2Proof.Machine

/-- The registers that a HELLO on link `n` writes. -/
def helloKeys (n : Nat) : List RegKey := [(.axlStat, n), (.axlHelloCnt, n), (.axlSticky, 0), (.stpState, 0)]

/-- The role and the count by a HELLO, in any state of its link. -/
def helloCounted (s : State) (n : Nat) (f : List Byte) : State :=
  if slice f 16 12 = ownHello s n then roleByFrame s n f
  else flag (countRun (roleByFrame s n f) .axlHelloCnt n) .axlSticky 0 2

/-- A HELLO with the link's runs begun anew. -/
def helloTaken (s : State) (n : Nat) (f : List Byte) : State :=
  updLink (helloCounted s n f) n (fun l => { l with syncRun := 0, missRun := 0 })

/-- A HELLO in SYNC or RUN: back to HELLO, in RUN with the sticky bit of a loss. -/
def helloBack (s : State) (n : Nat) (f : List Byte) : State :=
  let back := setLinkState (helloTaken s n f) n 1
  if linkState s n = 3 then flag back .axlSticky 0 1 else back

/-- What every HELLO between `s` and `t` gives, whatever the state of the link. -/
structure HelloHeard (s : State) (n : Nat) (f : List Byte) (t : State) : Prop where
  activeId : rdf t .axlStat n 15 8 = field f 3 1
  active : activeOn t n = decide (field f 3 1 = trayId s)
  misfit : slice f 16 12 ≠ ownHello s n → rdb t .axlSticky 0 2 = true
    ∧ rd t .axlHelloCnt n = if s.run then counted (rd s .axlHelloCnt n) 1 else rd s .axlHelloCnt n
  fit : slice f 16 12 = ownHello s n → rd t .axlHelloCnt n = rd s .axlHelloCnt n
  standby : field f 3 1 ≠ trayId s → s.firstFinish = true → lineSet t n = false
  frame : axisOnly s t (helloKeys n)

theorem axisOnly_helloCounted (s : State) (n : Nat) (f : List Byte) : axisOnly s (helloCounted s n f) (helloKeys n) := by
  have hrole : axisOnly s (roleByFrame s n f) (helloKeys n) := by
    obtain ⟨hstate, hregs⟩ := axisOnly_roleByFrame s n f
    refine ⟨hstate, fun r i hk => hregs r i fun hr => hk ?_⟩
    simp only [roleKeys, helloKeys, List.mem_cons] at hr ⊢
    tauto
  unfold helloCounted countRun
  split
  · exact hrole
  · refine axisOnly_trans hrole (axisOnly_trans ?_ (axisOnly_wr _ _ (by simp [helloKeys])))
    split
    · rw [bump_eq_wr]
      exact axisOnly_wr _ _ (by simp [helloKeys])
    · exact axisOnly_refl _ _

theorem rd_countRun (s : State) (r q : Reg) (i j : Nat) :
    rd (countRun s r i) q j = if q = r ∧ j = i ∧ s.run = true then counted (rd s r i) 1 else rd s q j := by
  unfold countRun
  by_cases hrun : s.run = true
  · simp only [hrun, if_true, and_true, rd_bump]
  · simp [hrun]

/-- Of the registers of the role, the count of a HELLO touches the sticky bits alone. -/
theorem rd_helloCounted_of_ne (s : State) (n : Nat) (f : List Byte) {r : Reg} (hcnt : r ≠ .axlHelloCnt)
    (hsticky : r ≠ .axlSticky) (i : Nat) : rd (helloCounted s n f) r i = rd (roleByFrame s n f) r i := by
  unfold helloCounted
  split
  · rfl
  · rw [rd_flag_of_ne _ hsticky, rd_countRun, if_neg (fun h => hcnt h.1)]

theorem helloHeard_helloCounted (s : State) {n : Nat} (f : List Byte) (hn : n < 12) :
    HelloHeard s n f (helloCounted s n f) := by
  have hstat := rd_helloCounted_of_ne s n f (r := .axlStat) (by decide) (by decide) n
  have hline := rd_helloCounted_of_ne s n f (r := .stpState) (by decide) (by decide) 0
  have hcnt : rd (roleByFrame s n f) .axlHelloCnt n = rd s .axlHelloCnt n :=
    rd_of_axisOnly (axisOnly_roleByFrame s n f) (by simp [roleKeys])
  have hrun : (roleByFrame s n f).run = s.run := run_of_axisOnly (axisOnly_roleByFrame s n f)
  refine ⟨?_, ?_, fun hown => ⟨?_, ?_⟩, fun hown => ?_, fun hid hff => ?_, axisOnly_helloCounted s n f⟩
  · rw [rdf, hstat]; exact activeId_roleByFrame s n f
  · rw [activeOn, rdb, hstat]; exact activeOn_roleByFrame s n f
  · rw [helloCounted, if_neg hown]
    exact rdb_flag_self _ _ _ (by decide)
  · rw [helloCounted, if_neg hown, rd_flag_of_ne _ (by decide), rd_countRun, hrun, hcnt]
    simp only [true_and]
  · rw [helloCounted, if_pos hown, hcnt]
  · rw [lineSet, rdb, hline]
    exact lineSet_roleByFrame_of_standby hn hid hff

section
variable {s t u : State} {n : Nat} {f : List Byte}

/-- What a later update leaves of these registers keeps what a HELLO gave. -/
theorem HelloHeard.of_kept (h : HelloHeard s n f t) (hid : rdf u .axlStat n 15 8 = rdf t .axlStat n 15 8)
    (hact : activeOn u n = activeOn t n) (hsticky : rdb t .axlSticky 0 2 = true → rdb u .axlSticky 0 2 = true)
    (hcnt : rd u .axlHelloCnt n = rd t .axlHelloCnt n) (hline : activeOn t n = false → lineSet u n = lineSet t n)
    (hframe : axisOnly t u (helloKeys n)) : HelloHeard s n f u where
  activeId := hid.trans h.activeId
  active := hact.trans h.active
  misfit hown := ⟨hsticky (h.misfit hown).1, hcnt.trans (h.misfit hown).2⟩
  fit hown := hcnt.trans (h.fit hown)
  standby hno hff := (hline (by rw [h.active, decide_eq_false hno])).trans (h.standby hno hff)
  frame := axisOnly_trans h.frame hframe

theorem HelloHeard.updLink (h : HelloHeard s n f t) (g : Link → Link) : HelloHeard s n f (updLink t n g) :=
  h.of_kept rfl rfl id rfl (fun _ => rfl) (axisOnly_updLink t n g _)

theorem HelloHeard.setLinkState (h : HelloHeard s n f t) (st : Nat) : HelloHeard s n f (setLinkState t n st) := by
  refine h.of_kept (rdf_axlStat_setLinkState t n st (by decide)) (activeOn_setLinkState t n st) (fun hs => ?_)
    (rd_setLinkState_of_ne t n st (by decide) n) (fun _ => ?_) (axisOnly_setLinkState t n st (by simp [helloKeys]))
  · rw [rdb, rd_setLinkState_of_ne _ _ _ (by decide)]; exact hs
  · rw [lineSet, rdb, rd_setLinkState_of_ne _ _ _ (by decide), ← rdb, ← lineSet]

theorem HelloHeard.flag_axlSticky (h : HelloHeard s n f t) (m : Nat) : HelloHeard s n f (flag t .axlSticky 0 m) := by
  have hkept {r : Reg} (hr : r ≠ .axlSticky) (i : Nat) : rd (flag t .axlSticky 0 m) r i = rd t r i :=
    rd_flag_of_ne t hr 0 i m
  refine h.of_kept ?_ ?_ (rdb_flag_of_rdb m) (hkept (by decide) n) (fun _ => ?_) (axisOnly_wr t _ (by simp [helloKeys]))
  · rw [rdf, hkept (by decide), ← rdf]
  · rw [activeOn, rdb, hkept (by decide), ← rdb, ← activeOn]
  · rw [lineSet, rdb, hkept (by decide), ← rdb, ← lineSet]

theorem HelloHeard.lossStop (h : HelloHeard s n f t) : HelloHeard s n f (lossStop t n) := by
  have hkept {r : Reg} (hr : r ≠ .stpState) (i : Nat) : rd (Sys2Proof.Machine.lossStop t n) r i = rd t r i :=
    rd_lossStop_of_ne t n hr i
  refine h.of_kept ?_ ?_ (fun hs => ?_) (hkept (by decide) n) (fun hact => ?_)
    (axisOnly_lossStop t n (by simp [helloKeys]))
  · rw [rdf, hkept (by decide), ← rdf]
  · rw [activeOn, rdb, hkept (by decide), ← rdb, ← activeOn]
  · rw [rdb, hkept (by decide)]; exact hs
  · rw [lineSet, rdb, rd_lossStop_of_standby hact, ← rdb, ← lineSet]

theorem linkState_helloCounted (s : State) (n : Nat) (f : List Byte) : linkState (helloCounted s n f) n = linkState s n := by
  rw [linkState, rdf, rd_helloCounted_of_ne _ _ _ (by decide) (by decide)]
  exact linkState_roleByFrame s n f

/-- A HELLO that names this tray leaves the stop lines alone until a loss counts. -/
theorem lines_helloCounted_of_active (n : Nat) (h : field f 3 1 = trayId s) :
    rd (helloCounted s n f) .stpState 0 = rd s .stpState 0 ∧ (helloCounted s n f).lines = s.lines := by
  refine ⟨(rd_helloCounted_of_ne s n f (by decide) (by decide) 0).trans (rd_stpState_roleByFrame_of_active n h), ?_⟩
  rw [← lines_roleByFrame s n f]
  unfold helloCounted countRun
  split
  · rfl
  · split <;> rfl

/-! ## In SYNC and RUN (R129) -/

theorem helloHeard_helloBack (hn : n < 12) : HelloHeard s n f (helloBack s n f) := by
  have hback := ((helloHeard_helloCounted s f hn).updLink fun l => { l with syncRun := 0, missRun := 0 }).setLinkState 1
  unfold helloBack
  split
  · exact hback.flag_axlSticky 1
  · exact hback

/-- But for the sticky bit, coming back to HELLO writes no register but the state of the link. -/
theorem rd_helloBack_of_ne {r : Reg} (h : r ≠ .axlSticky) (i : Nat) :
    rd (helloBack s n f) r i = rd (setLinkState (helloTaken s n f) n 1) r i := by
  unfold helloBack
  split
  · exact rd_flag_of_ne _ h 0 i 1
  · rfl

theorem linkState_helloBack : linkState (helloBack s n f) n = 1 := by
  rw [linkState, rdf, rd_helloBack_of_ne (by decide)]
  exact linkState_setLinkState_self _ n (by decide)

theorem lostSticky_helloBack (h : linkState s n = 3) : rdb (helloBack s n f) .axlSticky 0 1 = true := by
  rw [helloBack, if_pos h]
  exact rdb_flag_self _ _ _ (by decide)

theorem stpCfg_helloBack (i : Nat) : rd (helloBack s n f) .stpCfg i = rd s .stpCfg i := by
  rw [rd_helloBack_of_ne (by decide), rd_setLinkState_of_ne _ _ _ (by decide)]
  exact rd_of_axisOnly (axisOnly_helloCounted s n f) (by simp [helloKeys])

theorem lines_helloBack_of_active (h : field f 3 1 = trayId s) :
    rd (helloBack s n f) .stpState 0 = rd s .stpState 0 ∧ (helloBack s n f).lines = s.lines := by
  obtain ⟨hstate, hlines⟩ := lines_helloCounted_of_active n h
  refine ⟨?_, hlines ▸ ?_⟩
  · rw [rd_helloBack_of_ne (by decide), rd_setLinkState_of_ne _ _ _ (by decide)]
    exact hstate
  · unfold helloBack
    split <;> rfl

end

/-! ## The command -/

/-- A HELLO that passes the checks of R125, by the link's state and by its payload. -/
theorem exec_downstreamHello (n : Fin 12) {f : List Byte} {s : State} (hon : linkOn s n.val = true)
    (hok : frameOk n.val f = true) (htyp : field f 0 1 = 2) (hlen : f.length = 32) (hst : 1 ≤ linkState s n.val) :
    exec (.downstreamHello n f) s = .next
      (if linkState s n.val = 1 then
        if slice f 16 12 = ownHello s n.val then setLinkState (helloTaken s n.val f) n.val 2 else helloCounted s n.val f
      else lossStop (helloBack s n.val f) n.val) := by
  have hup : ¬ (!linkOn s n.val || decide (linkState s n.val = 0)) = true := by
    simp only [hon, Bool.not_true, Bool.false_or, decide_eq_true_eq]; omega
  have hwell : ¬ (!frameOk n.val f || field f 0 1 != 2 || f.length + 2 != 34) = true := by simp [hok, htyp, hlen]
  show execDownstreamHello n f s = _
  simp only [execDownstreamHello, if_neg hup, if_neg hwell]
  by_cases hhello : linkState s n.val = 1
  · by_cases hown : slice f 16 12 = ownHello s n.val <;>
      simp only [helloTaken, helloCounted, hhello, hown, decide_true, decide_false, if_true, if_false, Bool.false_eq_true]
  · simp only [helloBack, helloTaken, helloCounted, if_neg hhello, decide_eq_true_eq]

end Sys2Proof.Machine
end

section
/-! The other events of an axis link and its stop line (04_axis_links_and_stop_lines.md R127, R128, R135, R145), and the
obligation on the states of a link. -/

namespace Sys2Proof.Machine

/-! ## TRAIN to HELLO (R127) -/

theorem exec_linkAligned {n : Fin 12} {s : State} (hon : linkOn s n.val = true) (hst : linkState s n.val = 0) :
    exec (.linkAligned n) s = .next (setLinkState s n.val 1) := by
  show execLinkAligned n s = _
  simp [execLinkAligned, hon, hst]

/-! ## SYNC to RUN (R127, R597) -/

/-- A link that enters RUN, before the end of AXL_HANDSHAKE. -/
def linkRuns (s : State) (n : Nat) : State := setLinkState (updLink s n (fun l => { l with missRun := 0 })) n 3

/-- A link in RUN, AXL_HANDSHAKE ended where it was the last enabled one. -/
def linkRunsEnded (s : State) (n : Nat) : State :=
  if allLinksRun (linkRuns s n) then endCode (linkRuns s n) cAxlHandshake else linkRuns s n

theorem exec_linkToRun {n : Fin 12} {s : State} (hon : linkOn s n.val = true) (hst : linkState s n.val = 2)
    (hrun : 4 ≤ (linkAt s n.val).syncRun) : exec (.linkToRun n) s = .next (linkRunsEnded s n.val) := by
  have hready : (linkOn s n.val && linkState s n.val == 2 && decide (4 ≤ (linkAt s n.val).syncRun)) = true := by
    simp [hon, hst, hrun]
  show execLinkToRun n s = _
  rw [execLinkToRun, if_pos hready]
  rfl

theorem rd_linkRunsEnded (s : State) (n : Nat) (r : Reg) (i : Nat) : rd (linkRunsEnded s n) r i = rd (linkRuns s n) r i := by
  unfold linkRunsEnded
  split
  · exact rd_endCode _ _ r i
  · rfl

theorem allLinksRun_congr {s t : State} (h : ∀ r i, rd t r i = rd s r i) : allLinksRun t = allLinksRun s := by
  simp only [allLinksRun, linkOn, linkState, rdb, rdf, h]

theorem axlHandshake_not_mem_linkRunsEnded {s : State} {n : Nat} (h : allLinksRun (linkRunsEnded s n) = true) :
    cAxlHandshake ∉ (linkRunsEnded s n).holding := by
  rw [allLinksRun_congr (rd_linkRunsEnded s n)] at h
  rw [linkRunsEnded, if_pos h]
  exact not_mem_endCode_holding _ _

/-- In Run the pin waits for the next finish (R597): only the code leaves the codes that hold it. -/
theorem onlyRegs_linkRunsEnded {s : State} (n : Nat) (hrun : s.run = true) :
    onlyRegs s { linkRunsEnded s n with links := s.links, holding := s.holding } [(.axlStat, n)] := by
  refine ⟨?_, fun r i hk => ?_⟩
  · unfold linkRunsEnded
    split
    · rw [endCode_of_run (s := linkRuns s n) hrun]; rfl
    · rfl
  · refine (rd_linkRunsEnded s n r i).trans ?_
    exact rd_of_axisOnly (axisOnly_setLinkState _ n 3 (List.mem_singleton.mpr rfl)) hk

/-! ## RUN to TRAIN (R128) -/

/-- A lost link before AXL_LOST is raised. -/
def linkDropped (s : State) (n : Nat) : State :=
  flag (setLinkState (updLink s n (fun l => { l with syncRun := 0, missRun := 0 })) n 0) .axlSticky 0 1

/-- A lost link, AXL_LOST raised, before its stop line is asked for. -/
def linkLostRaised (s : State) (n : Nat) : State := raiseNow (linkDropped s n) cAxlLost scLink n

/-- The registers that the loss of link `n` writes beside those of reporting. -/
def linkLossKeys (n : Nat) : List RegKey := [(.axlStat, n), (.axlSticky, 0), (.stpState, 0)]

theorem apartFromRaise_linkLossKeys (n : Nat) : apartFromRaise (linkLossKeys n) := by
  simp [apartFromRaise, linkLossKeys, ringPlace, raiseRegs]

theorem axisOnly_linkDropped (s : State) (n : Nat) : axisOnly s (linkDropped s n) (linkLossKeys n) :=
  axisOnly_trans (axisOnly_updLink s n _ _)
    (axisOnly_trans (axisOnly_setLinkState _ n 0 (by simp [linkLossKeys])) (axisOnly_wr _ _ (by simp [linkLossKeys])))

/-- A register of the links or the stop lines, read after the raising, is as the drop of the link left it. -/
theorem rd_linkLostRaised (s : State) (n : Nat) {r : Reg} {i : Nat} (h : (r, i) ∉ reportKeys) :
    rd (linkLostRaised s n) r i = rd (linkDropped s n) r i := rd_raiseNow_of_ne _ _ _ _ h

theorem rd_linkLostRaised_of_kept (s : State) (n : Nat) {r : Reg} {i : Nat} (h : (r, i) ∉ reportKeys)
    (hk : (r, i) ∉ linkLossKeys n) : rd (linkLostRaised s n) r i = rd s r i :=
  (rd_linkLostRaised s n h).trans (rd_of_axisOnly (axisOnly_linkDropped s n) hk)

theorem rd_axlStat_linkLostRaised (s : State) (n : Nat) :
    rd (linkLostRaised s n) .axlStat n = rd (setLinkState s n 0) .axlStat n := by
  rw [rd_linkLostRaised s n (by simp [reportKeys]), linkDropped, rd_flag_of_ne _ (by decide)]
  rfl

theorem linkState_linkLostRaised (s : State) (n : Nat) : linkState (linkLostRaised s n) n = 0 := by
  rw [linkState, rdf, rd_axlStat_linkLostRaised]
  exact linkState_setLinkState_self s n (by decide)

theorem activeOn_linkLostRaised (s : State) (n : Nat) : activeOn (linkLostRaised s n) n = activeOn s n := by
  rw [activeOn, rdb, rd_axlStat_linkLostRaised]
  exact activeOn_setLinkState s n 0

theorem lostSticky_linkLostRaised (s : State) (n : Nat) : rdb (linkLostRaised s n) .axlSticky 0 1 = true := by
  rw [rdb, rd_linkLostRaised s n (by decide)]
  exact rdb_flag_self _ _ _ (by decide)

theorem rd_stpState_linkDropped (s : State) (n : Nat) : rd (linkDropped s n) .stpState 0 = rd s .stpState 0 := by
  rw [linkDropped, rd_flag_of_ne _ (by decide), rd_setLinkState_of_ne _ _ _ (by decide), rd_updLink]

/-- A lost link with its stop line asked for. -/
def linkLostDone (s : State) (n : Nat) : State := lossStop (linkLostRaised s n) n

theorem exec_linkLost {n : Fin 12} {s : State} (hon : linkOn s n.val = true) (hst : linkState s n.val = 3)
    (hmiss : rdf s .axlCfg n.val 27 24 ≤ (linkAt s n.val).missRun) :
    exec (.linkLost n) s = .next (linkLostDone s n.val) := by
  show execLinkLost n s = _
  simp [execLinkLost, hon, hst, hmiss, linkLostDone, linkLostRaised, linkDropped]

theorem axisOnly_linkLostDone (s : State) (n : Nat) : axisOnly (linkLostRaised s n) (linkLostDone s n) (linkLossKeys n) :=
  axisOnly_lossStop _ n (by simp [linkLossKeys])

theorem linkState_linkLostDone (s : State) (n : Nat) : linkState (linkLostDone s n) n = 0 := by
  rw [linkState, rdf, linkLostDone, rd_lossStop_of_ne _ _ (by decide)]
  exact linkState_linkLostRaised s n

theorem lostSticky_linkLostDone (s : State) (n : Nat) : rdb (linkLostDone s n) .axlSticky 0 1 = true := by
  rw [rdb, linkLostDone, rd_lossStop_of_ne _ _ (by decide)]
  exact lostSticky_linkLostRaised s n

theorem stpCfg_linkLostRaised (s : State) (n b : Nat) : rdb (linkLostRaised s n) .stpCfg n b = rdb s .stpCfg n b := by
  rw [rdb, rd_linkLostRaised_of_kept s n (by simp [reportKeys]) (by simp [linkLossKeys]), ← rdb]

/-- With LOST_STOP the loss of a link sets its enabled line on the active tray (R135). -/
theorem lineSet_linkLostDone {s : State} {n : Nat} (hn : n < 12) (hlost : rdb s .stpCfg n 29 = true)
    (hon : lineOn s n = true) (hact : activeOn s n = true) : lineSet (linkLostDone s n) n = true := by
  rw [linkLostDone, lossStop_of_set ((stpCfg_linkLostRaised s n 29).trans hlost)]
  exact (setStop_of_active hn ((stpCfg_linkLostRaised s n 31).trans hon) ((activeOn_linkLostRaised s n).trans hact)).1

theorem stpState_linkLostDone_of_clear {s : State} {n : Nat} (h : rdb s .stpCfg n 29 = false) :
    rd (linkLostDone s n) .stpState 0 = rd s .stpState 0 := by
  rw [linkLostDone, lossStop_of_clear ((stpCfg_linkLostRaised s n 29).trans h), rd_linkLostRaised s n (by decide)]
  exact rd_stpState_linkDropped s n

/-! ## The readback of a stop line (R145) -/

/-- A line whose readback contradicts its drive, before STOP_LINE is raised. -/
def readbackFlagged (s : State) (n : Nat) : State :=
  flag (updLine s n (fun l => { l with flt := true, readbackRun := 0 })) .stpSticky 0 1

/-- A line whose readback contradicts its drive, STOP_LINE raised. -/
def readbackRaised (s : State) (n : Nat) : State := raiseNow (readbackFlagged s n) cStopLine scLink n

theorem exec_stopReadbackFault (n : Fin 12) (s : State) :
    exec (.stopReadbackFault n) s = .next (readbackRaised s n.val) := rfl

theorem axisOnly_readbackFlagged (s : State) (n : Nat) : axisOnly s (readbackFlagged s n) [(.stpSticky, 0)] :=
  axisOnly_trans (axisOnly_updLine s n _ _) (axisOnly_wr _ _ (List.mem_singleton.mpr rfl))

theorem rd_readbackRaised (s : State) (n : Nat) {r : Reg} {i : Nat} (h : (r, i) ∉ reportKeys) :
    rd (readbackRaised s n) r i = rd (readbackFlagged s n) r i := rd_raiseNow_of_ne _ _ _ _ h

theorem readbackSticky_readbackRaised (s : State) (n : Nat) : rdb (readbackRaised s n) .stpSticky 0 1 = true := by
  rw [rdb, rd_readbackRaised s n (by decide)]
  exact rdb_flag_self _ _ _ (by decide)

theorem lineSet_readbackRaised (s : State) (n : Nat) : lineSet (readbackRaised s n) n = lineSet s n := by
  rw [lineSet, rdb, rd_readbackRaised s n (by decide), rd_of_axisOnly (axisOnly_readbackFlagged s n) (by decide), ← rdb,
    ← lineSet]

theorem lineAt_readbackRaised (s : State) (n k : Nat) :
    lineAt (readbackRaised s n) k = lineAt (updLine s n (fun l => { l with flt := true, readbackRun := 0 })) k := by
  rw [readbackRaised, lineAt_raiseNow, readbackFlagged, flag_eq_wr, lineAt_wr]

theorem raised_readbackRaised (s : State) (n : Nat) :
    wasRaised s (readbackRaised s n) cStopLine scLink n
      ∧ reported s { readbackRaised s n with lines := s.lines } [(.stpSticky, 0)] := by
  have hapart : apartFromRaise [(.stpSticky, 0)] := by simp [apartFromRaise, ringPlace, raiseRegs]
  have hflag := axisOnly_readbackFlagged s n
  have hkeep := axisOnly_refl (raiseNow (readbackFlagged s n) cStopLine scLink n) [(.stpSticky, 0)]
  have hlinks : s.links = (readbackRaised s n).links := (links_raiseNow (readbackFlagged s n) cStopLine scLink n).symm
  have hrep := reported_of_axisOnly hapart hflag hkeep
  rw [hlinks] at hrep
  exact ⟨wasRaised_of_axisOnly hapart hflag hkeep, hrep⟩

/-! ## The commands together -/

/-- The outcome of a HELLO in HELLO, SYNC and RUN: the state that follows and what becomes of the stop line. -/
theorem downstreamHello_spec (n : Fin 12) (f : List Byte) (s : State) (hon : linkOn s n.val = true)
    (hok : frameOk n.val f = true) (htyp : field f 0 1 = 2) (hlen : f.length = 32) (hst : 1 ≤ linkState s n.val) :
    ∃ t, exec (.downstreamHello n f) s = .next t ∧ HelloHeard s n.val f t
      ∧ linkState t n.val = (if linkState s n.val = 1 ∧ slice f 16 12 = ownHello s n.val then 2 else 1)
      ∧ (linkState s n.val = 3 → rdb t .axlSticky 0 1 = true)
      ∧ (2 ≤ linkState s n.val → rdb s .stpCfg n.val 29 = true → lineOn s n.val = true → field f 3 1 = trayId s →
          lineSet t n.val = true ∧ rdb t .stpState 0 12 = true)
      ∧ (linkState s n.val = 1 ∨ rdb s .stpCfg n.val 29 = false → field f 3 1 = trayId s →
          rd t .stpState 0 = rd s .stpState 0 ∧ t.lines = s.lines) := by
  refine ⟨_, exec_downstreamHello n hon hok htyp hlen hst, ?_⟩
  have hcounted := helloHeard_helloCounted s f n.isLt
  by_cases hhello : linkState s n.val = 1
  · have hlow : ¬ 2 ≤ linkState s n.val := by omega
    have hne : linkState s n.val ≠ 3 := by omega
    by_cases hown : slice f 16 12 = ownHello s n.val
    · rw [if_pos hhello, if_pos hown, if_pos ⟨hhello, hown⟩]
      refine ⟨(hcounted.updLink _).setLinkState 2, linkState_setLinkState_self _ _ (by decide), fun h => absurd h hne,
        fun h => absurd h hlow, fun _ hme => ?_⟩
      rw [rd_setLinkState_of_ne _ _ _ (by decide)]
      exact lines_helloCounted_of_active n.val hme
    · rw [if_pos hhello, if_neg hown, if_neg (fun h => hown h.2)]
      exact ⟨hcounted, (linkState_helloCounted s n.val f).trans hhello, fun h => absurd h hne,
        fun h => absurd h hlow, fun _ hme => lines_helloCounted_of_active n.val hme⟩
  · have hback : HelloHeard s n.val f (helloBack s n.val f) := helloHeard_helloBack n.isLt
    have hstp : rdb (helloBack s n.val f) .stpCfg n.val 29 = rdb s .stpCfg n.val 29 := by rw [rdb, stpCfg_helloBack, ← rdb]
    have hline : lineOn (helloBack s n.val f) n.val = lineOn s n.val := by rw [lineOn, rdb, stpCfg_helloBack, ← rdb, ← lineOn]
    rw [if_neg hhello, if_neg (fun h => hhello h.1)]
    refine ⟨hback.lossStop, ?_, fun hrun => ?_, fun _ hlost hlon hme => ?_, fun hno hme => ?_⟩
    · rw [linkState, rdf, rd_lossStop_of_ne _ _ (by decide)]
      exact linkState_helloBack
    · rw [rdb, rd_lossStop_of_ne _ _ (by decide)]
      exact lostSticky_helloBack hrun
    · rw [lossStop_of_set (hstp.trans hlost)]
      exact setStop_of_active n.isLt (hline.trans hlon) (by rw [hback.active, decide_eq_true hme])
    · rw [lossStop_of_clear (hstp.trans (hno.resolve_left hhello))]
      exact lines_helloBack_of_active hme

/-- Settles O46 (R127 to R131, R135, R145; that AXL_HANDSHAKE ends with the last enabled link is entry 44 of the log): each
event of a link is read off from the state its command leaves, and a raising between two updates of links and lines is a
raising of the whole. -/
theorem linkStates : Obligations.LinkStates := by
  unfold Obligations.LinkStates
  refine ⟨fun n s hon hst => ?_, fun n f s hon hok htyp hlen hst => ?_, fun n s hon hst hruns => ?_,
    fun n s hon hst hmiss => ?_, fun n s => ?_⟩
  · exact ⟨_, exec_linkAligned hon hst, linkState_setLinkState_self s n.val (by decide),
      rdf_axlStat_setLinkState s n.val 1 le_rfl, axisOnly_setLinkState s n.val 1 (List.mem_singleton.mpr rfl)⟩
  · obtain ⟨t, hexec, heard, hstate, hsticky, hset, hkept⟩ := downstreamHello_spec n f s hon hok htyp hlen hst
    have hact : activeOn t n.val = true ↔ field f 3 1 = trayId s := by rw [heard.active, decide_eq_true_eq]
    exact ⟨t, hexec, hstate, heard.activeId, hact, heard.misfit, heard.fit, hsticky, hset, heard.standby, hkept, heard.frame⟩
  · have hrd := rd_linkRunsEnded s n.val
    refine ⟨_, exec_linkToRun hon hst hruns, ?_, axlHandshake_not_mem_linkRunsEnded, fun k _ hk => ?_,
      onlyRegs_linkRunsEnded n.val⟩
    · rw [linkState, rdf, hrd]
      exact linkState_setLinkState_self _ n.val (by decide)
    · rw [linkState, rdf, hrd]
      exact linkState_setLinkState_of_ne _ 3 hk
  · have hapart := apartFromRaise_linkLossKeys n.val
    have hdrop := axisOnly_linkDropped s n.val
    have hdone := axisOnly_linkLostDone s n.val
    exact ⟨_, exec_linkLost hon hst hmiss, linkState_linkLostDone s n.val, lostSticky_linkLostDone s n.val,
      wasRaised_of_axisOnly hapart hdrop hdone, lineSet_linkLostDone n.isLt, stpState_linkLostDone_of_clear,
      reported_of_axisOnly hapart hdrop hdone⟩
  · obtain ⟨hraised, hreported⟩ := raised_readbackRaised s n.val
    refine ⟨_, exec_stopReadbackFault n s, hraised, readbackSticky_readbackRaised s n.val, ?_,
      lineSet_readbackRaised s n.val, fun k hk => ?_, hreported⟩
    · rw [lineAt_readbackRaised, lineAt_updLine_self]
    · rw [lineAt_readbackRaised, lineAt_updLine_of_ne _ _ hk]

end Sys2Proof.Machine
end

section
/-! Instructions of the JTAG port (19_host_port_and_telemetry.md R588, R589), after the rules that tell which registers a
write keeps. -/

namespace Sys2Proof.Machine

/-! ## Which registers a write keeps -/

theorem regsKept_refl (s : State) (ks : List RegKey) : regsKept s s ks := fun _ _ _ => rfl

theorem regsKept.wr {s t : State} {ks : List RegKey} (h : regsKept s t ks) {r : Reg} {i : Nat} (v : Word)
    (hk : (r, i) ∈ ks) : regsKept s (wr t r i v) ks := by
  intro q j hq
  have hne : ¬ (q = r ∧ j = i) := by rintro ⟨rfl, rfl⟩; exact hq hk
  rw [rd_wr, if_neg hne, h q j hq]

/-- One write keeps every register but its own. -/
theorem regsKept_wr (s : State) (r : Reg) (i : Nat) (v : Word) : regsKept s (wr s r i v) [(r, i)] :=
  (regsKept_refl s _).wr v (List.mem_singleton.mpr rfl)

/-- What is said of registers depends on nothing else in the state. -/
theorem rd_of_regs_eq {t u : State} (h : u.regs = t.regs) (r : Reg) (i : Nat) : rd u r i = rd t r i := by
  rw [rd, h, ← rd]

theorem regsKept.of_regs_eq {s t u : State} {ks : List RegKey} (k : regsKept s t ks) (h : u.regs = t.regs) :
    regsKept s u ks := fun r i hk => (rd_of_regs_eq h r i).trans (k r i hk)

theorem onlyRegs_refl (s : State) (ks : List RegKey) : onlyRegs s s ks := ⟨rfl, regsKept_refl s ks⟩

theorem onlyRegs.wr {s t : State} {ks : List RegKey} (h : onlyRegs s t ks) {r : Reg} {i : Nat} (v : Word)
    (hk : (r, i) ∈ ks) : onlyRegs s (wr t r i v) ks := ⟨h.1, h.2.wr v hk⟩

theorem regsKept_flag (s : State) (r : Reg) (i n : Nat) : regsKept s (flag s r i n) [(r, i)] := regsKept_wr s r i _

theorem rd_flag_self (s : State) (r : Reg) (i n : Nat) : rd (flag s r i n) r i = bput (rd s r i) n true := rd_wr_self s r i _

/-! ## Instructions of the JTAG port (R588, R589) -/

/-- The instructions that would take the output balls from the device: in Run the port loads BYPASS for them. -/
def takesBalls (ir : BitVec 8) : Prop := ir = Config.irExtest ∨ ir = Config.irClamp ∨ ir = Config.irHighz

theorem not_takesBalls_iff (ir : BitVec 8) :
    ¬ takesBalls ir ↔ ir ≠ Config.irExtest ∧ ir ≠ Config.irClamp ∧ ir ≠ Config.irHighz := by
  simp only [takesBalls, not_or, ne_eq]

theorem exec_jtagInstruction_refused {ir : BitVec 8} {s : State} (hrun : s.run = true) (hir : takesBalls ir) :
    exec (.jtagInstruction ir) s = .next { flag s .hstSticky 0 2 with jtagIr := 0xFF } := by
  refine if_pos ?_
  simpa only [hrun, Bool.true_and, Bool.or_eq_true, beq_iff_eq, or_assoc, takesBalls] using hir

theorem exec_jtagInstruction_loaded {ir : BitVec 8} {s : State} (h : s.run = false ∨ ¬ takesBalls ir) :
    exec (.jtagInstruction ir) s = .next { s with jtagIr := ir } := by
  refine if_neg fun hboth => ?_
  simp only [Bool.and_eq_true, Bool.or_eq_true, beq_iff_eq, or_assoc] at hboth
  obtain ⟨hrun, hir⟩ := hboth
  rcases h with hoff | hother
  · exact absurd (hoff.symm.trans hrun) Bool.false_ne_true
  · exact hother hir

/-- Settles O16 (R588, R589; the codes are open and BYPASS is all ones by entry 138 of the log): in Run the port refuses
the three instructions that take the output balls, and it loads every other code, in Run or not, as it is. -/
theorem jtagInstructionsInRun : Obligations.JtagInstructionsInRun := by
  unfold Obligations.JtagInstructionsInRun
  refine ⟨fun ir s hrun hir => ?_, fun ir s h => ?_⟩
  · exact ⟨_, exec_jtagInstruction_refused hrun hir, rfl, rd_flag_self s .hstSticky 0 2, rfl,
      regsKept_flag s .hstSticky 0 2⟩
  · exact exec_jtagInstruction_loaded (h.imp_right (not_takesBalls_iff ir).mpr)

end Sys2Proof.Machine
end

section
/-! The link of the host port (19_host_port_and_telemetry.md R574, R593, R594; 20_faults.md R600): what link-up, link loss,
PERST_N, a late read and a sent UART line write, and what they leave. -/

namespace Sys2Proof.Machine

/-! ## Link-up (R594) -/

/-- HST_STAT of a link that is up: UP, SPEED and WIDTH. -/
def linkUpWord (speed width : Fin 5) : Word := BitVec.ofNat 32 (2 ^ 31 + speed.val * 2 ^ 28 + width.val * 2 ^ 24)

theorem linkUpWord_fields (speed width : Fin 5) :
    bget (linkUpWord speed width) 31 = true ∧ fget (linkUpWord speed width) 30 28 = speed.val
      ∧ fget (linkUpWord speed width) 27 24 = width.val := by
  revert speed width
  decide

/-- The registers that a link-up writes: the counts of the two rings and the state of the link. -/
def linkUpKeys : List RegKey := [(.hstReqProd, 0), (.hstReqCons, 0), (.hstRspProd, 0), (.hstRspCons, 0), (.hstStat, 0)]

/-- The registers after a link-up. -/
def linkUpRegs (speed width : Fin 5) (s : State) : State :=
  wr (wr (wr (wr (wr s .hstReqProd 0 0) .hstReqCons 0 0) .hstRspProd 0 0) .hstRspCons 0 0) .hstStat 0
    (linkUpWord speed width)

/-- The state after a link-up. -/
def linkUp (speed width : Fin 5) (s : State) : State := { linkUpRegs speed width s with perst := false }

theorem exec_pcieLinkUp {speed width : Fin 5} (s : State) (hspeed : speed.val ≠ 0)
    (hwidth : width.val = 1 ∨ width.val = 2 ∨ width.val = 4) :
    exec (.pcieLinkUp speed width) s = .next (linkUp speed width s) :=
  if_neg (by rintro (h | h); exacts [hspeed h, h hwidth])

theorem onlyRegs_linkUpRegs (speed width : Fin 5) (s : State) : onlyRegs s (linkUpRegs speed width s) linkUpKeys :=
  (((((onlyRegs_refl s _).wr 0 (by decide)).wr 0 (by decide)).wr 0 (by decide)).wr 0 (by decide)).wr _ (by decide)

theorem linkUp_regs (speed width : Fin 5) (s : State) : (linkUp speed width s).regs = (linkUpRegs speed width s).regs := rfl

theorem rd_linkUp (speed width : Fin 5) (s : State) (r : Reg) (i : Nat) :
    rd (linkUp speed width s) r i = rd (linkUpRegs speed width s) r i := rd_of_regs_eq (linkUp_regs speed width s) r i

theorem hstStat_linkUp (speed width : Fin 5) (s : State) :
    rdb (linkUp speed width s) .hstStat 0 31 = true ∧ rdf (linkUp speed width s) .hstStat 0 30 28 = speed.val
      ∧ rdf (linkUp speed width s) .hstStat 0 27 24 = width.val := by
  rw [rdb, rdf, rdf, rd_linkUp, linkUpRegs, rd_wr_self]
  exact linkUpWord_fields speed width

/-- The four counts are 0: each is written, and no later write of the link-up is to it. -/
theorem counts_linkUp (speed width : Fin 5) (s : State) :
    rd (linkUp speed width s) .hstReqProd 0 = 0 ∧ rd (linkUp speed width s) .hstReqCons 0 = 0
      ∧ rd (linkUp speed width s) .hstRspProd 0 = 0 ∧ rd (linkUp speed width s) .hstRspCons 0 = 0 := by
  simp [rd_linkUp, linkUpRegs, rd_wr]

/-- A link-up writes no more than its registers and the level of PERST_N. -/
theorem linkUp_frame (speed width : Fin 5) (s : State) :
    { linkUp speed width s with regs := s.regs, perst := s.perst } = s
      ∧ regsKept s (linkUp speed width s) linkUpKeys := by
  obtain ⟨hstate, hregs⟩ := onlyRegs_linkUpRegs speed width s
  exact ⟨congrArg (fun x : State => { x with perst := s.perst }) hstate, hregs.of_regs_eq (linkUp_regs speed width s)⟩

/-! ## Link loss and PERST_N (R574, R594) -/

theorem exec_pcieLinkDown (s : State) : exec .pcieLinkDown s = .next (linkDown s) := rfl

/-- The state after PERST_N: the endpoint without its link, its MSI-X table and its PBA. -/
def endpointReset (s : State) : State := { linkDown s with perst := true, msixTable := [], pba := 0, msgWaiting := 0 }

theorem exec_perstN (s : State) : exec .perstN s = .next (endpointReset s) := rfl

theorem endpointReset_regs (s : State) : (endpointReset s).regs = (linkDown s).regs := rfl

theorem up_linkDown (s : State) : rdb (linkDown s) .hstStat 0 31 = false := by
  rw [rdb, linkDown, rd_wr_self]; rfl

theorem onlyRegs_linkDown (s : State) : onlyRegs s (linkDown s) [(.hstStat, 0)] :=
  (onlyRegs_refl s _).wr 0 (List.mem_singleton.mpr rfl)

theorem up_endpointReset (s : State) : rdb (endpointReset s) .hstStat 0 31 = false := by
  rw [rdb, rd_of_regs_eq (endpointReset_regs s), ← rdb, up_linkDown]

/-- PERST_N writes the state of the link, its own level, the MSI-X table and the PBA with the messages that wait. -/
theorem endpointReset_frame (s : State) :
    { endpointReset s with
        regs := s.regs, perst := s.perst, msixTable := s.msixTable, pba := s.pba, msgWaiting := s.msgWaiting } = s
      ∧ regsKept s (endpointReset s) [(.hstStat, 0)] :=
  ⟨rfl, (onlyRegs_linkDown s).2.of_regs_eq (endpointReset_regs s)⟩

/-! ## Late reads and UART lines (R593, R600) -/

theorem exec_hostReadTimeout (s : State) :
    exec .hostReadTimeout s = .next { flag s .hstSticky 0 3 with rdData := 0, rdEp := false } := rfl

theorem exec_uartLineSent_of_cons {s : State} {l : UartLine} {ls : List UartLine} (h : s.uart = l :: ls) :
    exec .uartLineSent s = .next { s with uart := ls, uartTx := uartText l } := by
  change execUartLineSent s = _
  rw [execUartLineSent, h, List.drop_one, List.tail_cons]

/-- Settles O17 (R574, R593, R594, R600; the characters of a UART line are entry 123 of the log): link-up, link loss, PERST_N
and a late read write registers and state of the endpoint alone, and a sent line is the first of the queue. -/
theorem hostLink : Obligations.HostLink := by
  unfold Obligations.HostLink
  refine ⟨fun speed width s hspeed hwidth => ?_, fun s => ?_, fun s => ?_, fun s => ?_, fun l ls s h => ?_⟩
  · obtain ⟨hreqProd, hreqCons, hrspProd, hrspCons⟩ := counts_linkUp speed width s
    obtain ⟨hup, hspd, hwid⟩ := hstStat_linkUp speed width s
    exact ⟨linkUp speed width s, exec_pcieLinkUp s hspeed hwidth, hreqProd, hreqCons, hrspProd, hrspCons, hup, hspd, hwid,
      linkUp_frame speed width s⟩
  · exact ⟨linkDown s, exec_pcieLinkDown s, up_linkDown s, onlyRegs_linkDown s⟩
  · exact ⟨_, exec_perstN s, up_endpointReset s, rfl, endpointReset_frame s⟩
  · exact ⟨_, exec_hostReadTimeout s, rfl, rd_flag_self s .hstSticky 0 3, rfl, rfl, regsKept_flag s .hstSticky 0 3⟩
  · exact exec_uartLineSent_of_cons h

end Sys2Proof.Machine
end
